-- ==== Sys2Proof/Word.lean ====
section
/-! DEFINITION. The words of the module and the plain data every other file is built from (R5: byte 0 of a
multi-byte value holds bits [7:0]). -/

namespace Sys2Proof

/-- One byte of memory. -/
abbrev Byte := BitVec 8

/-- A register, an instruction word, a control word: 64 bits (R8, R132, R170, R214). -/
abbrev Word := BitVec 64

/-- A drawer row, a vector register, a token payload: 256 bits (R85, R100, R104). -/
abbrev Row := BitVec 256

/-- A number of a cell over the whole die: cabinet × 256 + cell (R12, R240). -/
abbrev CellId := BitVec 20

/-- A cabinet number, 0–4,095 (R12). -/
abbrev CabId := BitVec 12

/-- A collection by number that lists only what differs from a default: numbers strictly rising. -/
abbrev Sparse (α : Type) := List (Nat × α)

/-- The four sides of a cell's switch (R104, R193). -/
inductive Side where
  | w | n | e | s
deriving DecidableEq, Repr

/-- The five ports of a bench, in the port order of R132. -/
inductive Port where
  | w | n | e | s | d
deriving DecidableEq, Repr

/-- The kind of a token (R104). -/
inductive Kind where
  | data | fin | config | control
deriving DecidableEq, Repr

/-- A rail or stile token (R104). -/
structure Tok where
  payload : Row
  tag     : BitVec 16
  valid   : Bool
  epoch   : Bool
  kind    : Kind
deriving DecidableEq, Repr

/-- One value for each port of a bench. -/
structure Five (α : Type) where
  w : α
  n : α
  e : α
  s : α
  d : α
deriving DecidableEq, Repr

/-- One value for each side of a switch. -/
structure Four (α : Type) where
  w : α
  n : α
  e : α
  s : α
deriving DecidableEq, Repr

end Sys2Proof
end

