-- ==== Sys2Proof/Syntax.lean ====
section
/-! DEFINITION. The commands of the block: one constructor of `Instr` for each row of spec/opcode_table.json, with
the operands that say which unit acts and what comes from outside the module. A command is one step of the table,
whole and indivisible. -/

namespace Sys2Proof

/-- What a received Ethernet frame shows before its payload is looked at (R394, R395, R398, R399). -/
structure Frame where
  /-- data port 0–3 -/
  port    : BitVec 2
  /-- bytes of the frame; of a request of several packets, of each of its frames -/
  bytes   : Nat
  /-- the VID of its IEEE 802.1Q tag, 0 for a priority tag; none: untagged -/
  vlan    : Option (BitVec 12)
  /-- the priority it came with -/
  prio    : BitVec 3
  /-- the packet is addressed to the port's address and is a whole RoCE v2 packet to UDP port 4791 -/
  roce    : Bool
  /-- IP header carries ECN CE -/
  ce      : Bool
  /-- `CC_CTRL.CNP_GAP` has passed since the last CNP of this queue pair (R399) -/
  cnpGap  : Bool
deriving DecidableEq, Repr

/-- A frame of a RoCE v2 packet and the queue pair it names. -/
structure RoceFrame where
  frame : Frame
  q     : BitVec 12
deriving DecidableEq, Repr

/-- What a data flit of the Nolosh link carries (R359, R360, R376, R378, R384, R385, R387). -/
inductive LinkMsg where
  /-- VC 0: 64 bytes of the partial of block `q` of the entry of `layer`, from the device at position `pos` of a ring of `size`:
  a BF16 block, or half `half` of an FP32 block (R373) -/
  | redPartial (layer : BitVec 16) (q pos size half : Nat) (elems : List (BitVec 32))
  /-- VC 0: up to 8 compressed blocks of one owner: `q`, `q` + `size`, and so on (R384, log 86) -/
  | redCompressed (layer : BitVec 16) (q pos size : Nat) (blocks : List Word)
  /-- VC 1: a gathered row of the entry of `layer` (R378) from the owner at position `owner` -/
  | gathered (layer : BitVec 16) (owner : Nat) (row : Row)
  /-- VC 1: 64 bytes of a reduced block of an explicit reduction (R382) -/
  | explicitBlock (layer : BitVec 16) (q owner half : Nat) (elems : List (BitVec 32))
  /-- VC 2: the votes and the ring abort (R385, R386) -/
  | voteUp (step : BitVec 32) (attempt : BitVec 2) (clean nan : Bool)
  | voteDown (step : BitVec 32) (attempt : BitVec 2) (clean nan : Bool)
  | abort
  /-- VC 3: 64 bytes of a transport copy of `total` bytes to `dst`, at byte `off` (R387) -/
  | copyPart (dst : BitVec 39) (total : BitVec 32) (off : Nat) (data : List Byte)
  /-- VC 3: the partner's answer to a copy (R387) -/
  | copyReply (code : Byte)
deriving DecidableEq, Repr

/-- The header of a numbered flit as it arrives (R359): whether its CRC holds, its number and what it returns; with it the
codewords corrected, and not corrected, since the flit before (R361). -/
structure FlitHdr where
  crcOk  : Bool
  seq    : BitVec 10
  ack    : BitVec 10
  cvc    : BitVec 2
  ccount : BitVec 4
  fec    : Nat × Nat
deriving DecidableEq, Repr

/-- A data flit as it arrives. -/
structure FlitIn where
  hdr : FlitHdr
  vc  : BitVec 2
  msg : LinkMsg
deriving DecidableEq, Repr

/-- A vote or a ring abort as it arrives: the port, and the header of its flit. -/
structure FlitAt where
  port : BitVec 4
  hdr  : FlitHdr
deriving DecidableEq, Repr

/-- A packet that is no RDMA packet as it arrives: the port, the bytes of its frame, the VID of its tag (R394), its priority
(R398). -/
structure Packet (w : Nat) where
  port  : BitVec w
  bytes : Nat
  vlan  : Option (BitVec 12)
  prio  : BitVec 3
deriving DecidableEq, Repr

/-- Where a datagram comes from (R405): its address and its UDP port. -/
structure UdpSource where
  ip   : BitVec 32
  port : BitVec 16
deriving DecidableEq, Repr

/-- A ring with the FCLK cycles that have passed since its command last came (R426). -/
structure RingCycles where
  ring   : BitVec 8
  cycles : Nat
deriving DecidableEq, Repr

/-- The verdict of the two signature checks over an image or a package (R497, R538), whose algorithms the spec names and does not
lay down, with the 432 key bytes it was reached with. -/
structure SigVerdict where
  keys    : List Byte
  rsa     : Bool
  slh     : Bool
deriving DecidableEq, Repr

/-- What a boot phase meets in the silicon and the flash, which no register holds (R534–R536). -/
structure BootSeen where
  /-- copies of the boot directory, and the configuration block, whose bytes the flash has kept; the check of another fails -/
  dirOk   : Bool × Bool
  cfgOk   : Bool
  /-- verdicts over slots A and B -/
  sigA    : SigVerdict
  sigB    : SigVerdict
  /-- bit s: stack s failed training three times -/
  hbmFail : BitVec 8
  /-- physical cells (field, physical cabinet, physical cell) that fail the built-in patterns -/
  failing : List (BitVec 4 × Nat × Nat)
deriving DecidableEq, Repr

/-- A calibration of an HBM channel (R513): its stack and channel, and whether the period of 100 ms calls for it. -/
structure CalChannel where
  stack    : BitVec 3
  channel  : BitVec 5
  periodic : Bool
deriving DecidableEq, Repr

/-- The commands: the rows of the opcode table. -/
inductive Instr where
  -- bench firings (04): the bench of cell `g` fires its next instruction for iteration tag `t`
  | qmul (g : CellId) (t : BitVec 16)
  | qmult (g : CellId) (t : BitVec 16)
  | ldpt (g : CellId) (t : BitVec 16)
  | accz (g : CellId) (t : BitVec 16)
  | accx (g : CellId) (t : BitVec 16)
  | fma (g : CellId) (t : BitVec 16)
  | add (g : CellId) (t : BitVec 16)
  | mul (g : CellId) (t : BitVec 16)
  | max (g : CellId) (t : BitVec 16)
  | cmp (g : CellId) (t : BitVec 16)
  | sel (g : CellId) (t : BitVec 16)
  | rsqrt (g : CellId) (t : BitVec 16)
  | rcp (g : CellId) (t : BitVec 16)
  | exp2 (g : CellId) (t : BitVec 16)
  | log2 (g : CellId) (t : BitVec 16)
  | lsum (g : CellId) (t : BitVec 16)
  | shuf (g : CellId) (t : BitVec 16)
  | steer (g : CellId) (t : BitVec 16)
  | merge (g : CellId) (t : BitVec 16)
  | tagx (g : CellId) (t : BitVec 16)
  | qnt (g : CellId) (t : BitVec 16)
  | dqt (g : CellId) (t : BitVec 16)
  | upd (g : CellId) (t : BitVec 16)
  | upds (g : CellId) (t : BitVec 16)
  -- tokens, switches and jig switching (03, 05)
  | tokenArrive (g : CellId) (p : Port)
  | endTokenArrive (g : CellId) (p : Port)
  | channelToken (g : CellId) (side : Side)
  | forkPass (g : CellId) (side : Side)
  | benchEndToken (g : CellId)
  | drawerEndToken (g : CellId)
  | configRow (g : CellId)
  | install (g : CellId)
  | drawerPart (g : CellId)
  | go (p : BitVec 4)
  | segmentStart (c : CabId)
  | cabinetLoad (c : CabId)
  | stall (c : CabId)
  -- drawers and the dowel network (04, 08, 03)
  | affineRead (g : CellId)
  | affineWrite (g : CellId)
  | push (g : CellId)
  | pop (g : CellId)
  | mark (g : CellId)
  | rewind (g : CellId)
  | release (g : CellId)
  | stkPush (g : CellId)
  | stkPop (g : CellId)
  | spillFetchDone (g : CellId)
  | drawerFill (g : CellId)
  | remoteRead (requester target : CellId) (row : BitVec 9) (n : Nat)
  | remoteReadData (requester : CellId)
  | creditRequest (writer : CellId) (targets : List CellId) (row : BitVec 9) (n : Nat)
  | grant (writer : CellId)
  | writeData (writer : CellId) (rows : List Row)
  -- the cabinet sequencer and the step (05, 02)
  | nop (c : CabId)
  | stop (c : CabId)
  | ldi (c : CabId)
  | addx (c : CabId)
  | ldx (c : CabId)
  | stx (c : CabId)
  | br (c : CabId)
  | jigLoad (c : CabId)
  | jigNext (c : CabId)
  | slotFill (p : BitVec 4)
  | strmStart (c : CabId)
  | wait (c : CabId)
  | signal (c : CabId)
  | bar (c : CabId)
  | stepBegin (c : CabId)
  | stepVote (c : CabId)
  | sendLocalFlags (p : BitVec 4)
  | stepCommit (c : CabId)
  | stepDiscard (c : CabId)
  | semP (c : CabId)
  | semV (c : CabId)
  | coefLoad (c : CabId)
  | scanOut (c : CabId)
  | scanIn (c : CabId)
  | redStart (c : CabId)
  | rangeFlush (p : BitVec 4)
  | voteUp (f : FlitAt) (step : BitVec 32) (attempt : BitVec 2) (clean nan : Bool)
  | voteDown (f : FlitAt) (step : BitVec 32) (attempt : BitVec 2) (clean nan : Bool)
  | stepResolveCommit (m : BitVec 7) (p : BitVec 4) (step : BitVec 32)
  | stepResolveDiscard (m : BitVec 7) (p : BitVec 4) (step : BitVec 32)
  -- edge engines, gather engines, plinths (08)
  | read (e : BitVec 8)
  | write (e : BitVec 8)
  | shimOut (e : BitVec 8)
  | shimIn (e : BitVec 8)
  | journal (e : BitVec 8)
  | gatherDescriptor (e : BitVec 7)
  | fencedFetch (e : BitVec 8)
  | descriptorComplete (e : BitVec 8)
  | steal (thief : BitVec 8)
  | narrowRead (m : BitVec 7) (addr : BitVec 39)
  | narrowReadData (addr : BitVec 39)
  | reRun (p : BitVec 4)
  | istrWrite (m : BitVec 7) (p i : BitVec 4) (v : Word)
  | istrRelease (m : BitVec 7) (p i : BitVec 4) (v : Word)
  | istrSize (m : BitVec 7) (p i : BitVec 4) (v : Word)
  | ncInv (m : BitVec 7) (k : BitVec 3) (v : Word)
  | remapReq (m : BitVec 7) (v : Word)
  | classMapWrite (m : BitVec 7) (k : BitVec 4) (v : Word)
  | accWrite (m : BitVec 7) (addr v : Word)
  -- Nolosh links (09)
  | training (n : BitVec 4) (lanes : Option (BitVec 2))
  | capability (n : BitVec 4) (level rate port : Byte) (vendor part : BitVec 16) (stepping : Byte) (node : BitVec 16)
  | retrain (m : BitVec 7) (n : BitVec 4) (v : Word)
  | lockLoss (n : BitVec 4)
  | partnerSilence (n : BitVec 4)
  | dataFlit (n : BitVec 4) (f : FlitIn)
  | creditFlit (n : BitVec 4) (ack : BitVec 10) (cvc : BitVec 2) (ccount : BitVec 4)
  | replayRequest (n : BitVec 4) (ack : BitVec 10)
  | gateGradient (n ch : BitVec 4)
  | gateGradDone (n ch : BitVec 4)
  | gateGatherSource (n ch : BitVec 4)
  | redPartial (n : BitVec 4)
  | gatherRow (n : BitVec 4)
  | entryComplete (n : BitVec 4) (entry : Byte)
  | ringAbort (f : FlitAt)
  | copyGo (m : BitVec 7) (n : BitVec 4) (v : Word)
  | copyData (n : BitVec 4)
  -- Ethernet, RDMA, management (10)
  | arpRequest (f : Packet 3) (target : BitVec 32) (mac : BitVec 48)
  | neighbourSolicitation (f : Packet 2) (target : BitVec 128) (mac : BitVec 48)
  | echoRequest (f : Packet 3) (v6 : Bool) (target : BitVec 128) (data : List Byte)
  | rdmaWrite (f : Frame) (supported : Bool) (q : BitVec 12) (key : BitVec 32) (addr : Word) (data : List Byte)
  | rdmaRead (f : Frame) (supported : Bool) (q : BitVec 12) (key : BitVec 32) (addr : Word) (len : Nat)
  | pfcXon (n : BitVec 2) (prio : BitVec 3) (drained : Nat)
  | pauseFrame (n : BitVec 2) (prio : BitVec 3) (time : BitVec 16)
  | cnp (f : Frame) (q : BitVec 12)
  | rateIncrease (q : BitVec 12)
  | acknowledgement (x : RoceFrame) (nak : Option Byte)
  | retryTimeout (q : BitVec 12)
  | linkChange (n : BitVec 3) (up : Bool)
  | qpStateWrite (m : BitVec 7) (q : BitVec 12) (v : Word)
  | regRead (src : UdpSource) (magic : BitVec 16) (op : Byte) (seq : BitVec 32) (addr : Word)
  | regWrite (src : UdpSource) (magic : BitVec 16) (op : Byte) (seq : BitVec 32) (addr v : Word)
  -- SPDM responder (14)
  | spdmConnect
  | getVersion (conn : BitVec 2) (msg : List Byte)
  | getCapabilities (conn : BitVec 2) (msg : List Byte)
  | negotiateAlgorithms (conn : BitVec 2) (msg : List Byte)
  | getDigests (conn : BitVec 2) (msg : List Byte)
  | getCertificate (conn : BitVec 2) (slot : Byte) (off len : Nat) (msg : List Byte)
  | challenge (conn : BitVec 2) (slot : Byte) (msg : List Byte)
  | getMeasurements (conn : BitVec 2) (signed : Bool) (index : Byte) (msg : List Byte)
  | vendorDefinedRequest (conn : BitVec 2) (std : BitVec 16) (vendor : BitVec 32) (payload : List Byte)
  | spdmUnsupported (conn : BitVec 2) (code : Byte)
  | attentionPeriod
  -- command rings, contexts, field tests (10, 11, 12)
  | doorbell (m : BitVec 7) (r : BitVec 8) (v : Word)
  | cqHeadDoorbell (m : BitVec 7) (r : BitVec 8) (v : Word)
  | ringEnable (m : BitVec 7) (r : BitVec 8) (v : Word)
  | descriptorFetch (r : BitVec 8)
  | cmdNop (r : BitVec 8)
  | run (r : BitVec 8)
  | sem (r : BitVec 8)
  | event (r : BitVec 8)
  | fill (r : BitVec 8)
  | dfill (r : RingCycles)
  | ctxCreate (r : BitVec 8)
  | ctxDestroy (r : BitVec 8)
  | ctxPark (r : BitVec 8)
  | ctxUnpark (r : BitVec 8)
  | ctxPost (r : BitVec 8)
  | ctxSwitch (r : BitVec 8)
  | testLoad (r : BitVec 8) (v : SigVerdict)
  | testRun (r : BitVec 8)
  | testDrop (r : BitVec 8)
  | retire (r : BitVec 8)
  | completionWrite (r : BitVec 8)
  -- scheduler (11)
  | sliceExpiry (p : BitVec 4)
  | contextSwitch (p : BitVec 4)
  | forcedScanOut (p : BitVec 4)
  | eviction (p : BitVec 4)
  -- integrity (12)
  | checkExecution (g : CellId) (slot : Bool) (partnerErr refereeErr : List Byte)
  | resume (m : BitVec 7) (p : BitVec 4) (v : Word)
  | close (m : BitVec 7) (p : BitVec 4) (v : Word)
  | logReset (m : BitVec 7) (size : Bool) (v : Word)
  -- clocks, power, pins (13, 14)
  | fclkSet (m : BitVec 7) (f : BitVec 4) (v : Word)
  | pllUnlock (f : BitVec 4)
  | throttleTick
  | measureStart (m : BitVec 7) (v : Word)
  | measureEnd (drift : Int)
  | ref100Loss
  | ref156Loss
  | clkEnable (m : BitVec 7) (one : Bool) (v : Word)
  | pllLock (unit : BitVec 6)
  | calibration (k : CalChannel) (cycles : Fin 1501) (failed : List (Fin 1501))
  | sensorConversion (temps : List (BitVec 16)) (mvs : List (BitVec 16)) (vin iin pin : BitVec 16) (mj : Nat)
  | vinRange (mv : BitVec 16) (sustained : Bool)
  | pwrOkRise
  | pwrOkFall
  | rstN
  | moduleReset (m : BitVec 7) (v : Word)
  | fabricReset (m : BitVec 7) (v : Word)
  | bootPhase (seen : BootSeen)
  -- firmware update (14)
  | updWrite (m : BitVec 7) (v : Word)
  | updWriteDone (v : SigVerdict)
  | activate (m : BitVec 7) (v : Word)
  | raiseSvn (m : BitVec 7) (v : Word)
  | stream (m : BitVec 7) (v : Word)
  | revoke (m : BitVec 7) (v : Word)
  | updData (m : BitVec 7) (v : Word)
  -- the rest
  | registerWrite (m : BitVec 7) (addr v : Word)
  | pauseEnd (n : BitVec 2) (prio : BitVec 3)
  | connectionClose (conn : BitVec 2)
  | flashCopy
deriving DecidableEq, Repr

end Sys2Proof
end

