-- ==== Sys2Proof/Decode.lean ====
section
/-! DEFINITION. The command a word of the opcode table spells. -/

namespace Sys2Proof

/-- spec/opcode_table.json gives no row any bits (its commands are events, not words), so no word spells a command
(log 11). -/
def decodeTableWord (_nbits _w : Nat) : Option Instr := none

end Sys2Proof
end

