-- ==== Sys2Proof/Config.lean ====
section
/-! DEFINITION. What an implementation fixes and the values the spec leaves free. A free value is a constant without a
body: nothing can be proved of it, so every claim holds whatever it is. -/

namespace Sys2Proof

/-- FREE VALUE: what an unwritten byte at an address reads as after its contents became undefined for the n-th time
(R300, R531; log 6). -/
opaque Config.freeByte (n addr : Nat) : Byte

/-- FREE VALUE: the n-th value of a run that the spec leaves open: a free-running cycle count (R490), a nonce (R542)
(log 6). -/
opaque Config.freeWord (n : Nat) : Word

/-- The modulus of an RSA-3072 key of the security engine (R540; log 7). The arguments are what the key is derived from: the
identity seed, and for an alias key the firmware measurement. -/
opaque Config.rsaPublic (seed : BitVec 256) (fw : Option (BitVec 384)) : BitVec 3072

/-- The public key, of 48 bytes, of an SLH-DSA-SHA2-192s key of the security engine (R537, R540; log 7). -/
opaque Config.slhPublic (seed : BitVec 256) (fw : Option (BitVec 384)) : BitVec 384

/-- The RSA-3072 PSS signature of such a key over a message (R540, R542; log 7). -/
opaque Config.rsaSign (seed : BitVec 256) (fw : Option (BitVec 384)) (msg : List Byte) : BitVec 3072

/-- The SLH-DSA-SHA2-192s signature, of 16,224 bytes, of such a key over a message (R540, R543; log 7). -/
opaque Config.slhSign (seed : BitVec 256) (fw : Option (BitVec 384)) (msg : List Byte) : BitVec 129792

/-- FREE VALUE: what the ROM holds, which measurement 1 covers (R541; log 7). -/
opaque Config.romBytes : List Byte

/-- FREE VALUE: the E4M3 pattern that a conversion makes of an infinity, by its sign; R255 states none (log 19). -/
opaque Config.infE4M3 (neg : Bool) : Byte

/-- FREE VALUE: the MX scale of a block whose largest magnitude is zero; R255 states none (log 19). -/
opaque Config.mxZeroScale : Byte

/-- FREE VALUE: what a register reads as where two destinations of one firing name the same bits, of the firing's word,
of what the register held and of what one order of the writes would leave; R137 and R162–R168 state none (log 25). -/
opaque Config.bothWritten (word : Word) (before after : BitVec 256) : BitVec 256

/-- FREE VALUE: the 64 payload bytes of a flit whose layout R359 and R376 do not give: that of a partial, a row, an explicit
result, a copy or an abort. Only the CRC of the flits sent depends on them (log 86). -/
opaque Config.flitPayload (m : LinkMsg) : List Byte

end Sys2Proof
end

