-- ==== Sys2Proof/Machine/Regs.lean ====
section
/-! DEFINITION. The address and register map (15_register_map.md): the address of each register by name, and one table of
the access masks and reset values of every register (R9, R10, R550, R551). -/

namespace Sys2Proof.Machine

/-! ### Block bases (R550) -/
def bSYS    : Nat := 0x020000000000
def bCLK    : Nat := 0x020001000000
def bPWR    : Nat := 0x020002000000
def bSEC    : Nat := 0x020003000000
def bHOST   : Nat := 0x020004000000
def bETH    : Nat := 0x020005000000
def bLINK   : Nat := 0x020006000000
def bMEM    : Nat := 0x020007000000
def bSCHED  : Nat := 0x020008000000
def bINTEG  : Nat := 0x020009000000
def bFABRIC : Nat := 0x020010000000
def bFABBLK : Nat := 0x020020000000
/-- The drawer window (R100, R549). -/
def bDRAWER : Nat := 0x010000000000
def hbmEnd  : Nat := 0x008000000000
def drawerEnd : Nat := 0x010400000000
def csrEnd  : Nat := 0x020021000000

/-! ### Registers by name -/
def rAttnSummary : Nat := bSYS
def rAttnMask : Nat := bSYS + 0x08
def rHostErr : Nat := bSYS + 0x10
def rHostErrAddr : Nat := bSYS + 0x18
def rDeviceId : Nat := bSYS + 0x20
def rStepping : Nat := bSYS + 0x28
def rEpochTag : Nat := bSYS + 0x30
def rClkEnable0 : Nat := bCLK
def rClkEnable1 : Nat := bCLK + 0x08
def rClkCause : Nat := bCLK + 0x10
def rCclkCtrl : Nat := bCLK + 0x18
def rSscCtrl : Nat := bCLK + 0x20
def rMeasCtrl : Nat := bCLK + 0x28
def rMeasCount : Nat := bCLK + 0x30
def rObsCtrl : Nat := bCLK + 0x38
def rFclkSet (f : Nat) : Nat := bCLK + 0x100 + f * 8
def rFclkStatus (f : Nat) : Nat := bCLK + 0x180 + f * 8
def rPwrCause : Nat := bPWR
def rPwrCtrl : Nat := bPWR + 0x08
def rThermCtrl : Nat := bPWR + 0x10
def rVin : Nat := bPWR + 0x18
def rIin : Nat := bPWR + 0x20
def rPinAvg : Nat := bPWR + 0x28
def rEnergy : Nat := bPWR + 0x30
def rTemp (n : Nat) : Nat := bPWR + 0x100 + n * 8
def rVmon (m : Nat) : Nat := bPWR + 0x400 + m * 8
def rThrotCyc (f : Nat) : Nat := bPWR + 0x500 + f * 8
def rSecCause : Nat := bSEC
def rBootStatus : Nat := bSEC + 0x08
def rFwInfo : Nat := bSEC + 0x10
def rFuseInfo : Nat := bSEC + 0x18
def rResetCtrl : Nat := bSEC + 0x20
def rUpdAddr : Nat := bSEC + 0x30
def rUpdLen : Nat := bSEC + 0x38
def rUpdCmd : Nat := bSEC + 0x40
def rUpdStatus : Nat := bSEC + 0x48
def rUpdData : Nat := bSEC + 0x50
def rHostCause : Nat := bHOST
def rAccCtrl : Nat := bHOST + 0x08
def rDomainKey (d : Nat) : Nat := bHOST + 0x800 + d * 8
def rAccHbm (m w : Nat) : Nat := bHOST + 0x100000 + m * 0x80 + w * 8
def rAccCsr (m : Nat) : Nat := bHOST + 0x200000 + m * 8
def rRing (r off : Nat) : Nat := bHOST + 0x300000 + r * 0x100 + off
def rRingBase (r : Nat) : Nat := rRing r 0x00
def rRingCfg (r : Nat) : Nat := rRing r 0x08
def rRingHead (r : Nat) : Nat := rRing r 0x10
def rRingTail (r : Nat) : Nat := rRing r 0x18
def rRingDone (r : Nat) : Nat := rRing r 0x20
def rCqAddr (r : Nat) : Nat := rRing r 0x28
def rCqCfg (r : Nat) : Nat := rRing r 0x30
def rCqTail (r : Nat) : Nat := rRing r 0x38
def rDoorbell (r : Nat) : Nat := bHOST + 0x400000 + r * 0x1000
def rCqHead (r : Nat) : Nat := bHOST + 0x400000 + r * 0x1000 + 8
def rQp (q word : Nat) : Nat := bHOST + 0x800000 + q * 0x40 + word * 8
def rEth (n off : Nat) : Nat := bETH + n * 0x100000 + off
def rEthCtrl (n : Nat) : Nat := rEth n 0x00
def rEthStatus (n : Nat) : Nat := rEth n 0x08
def rMacAddr (n : Nat) : Nat := rEth n 0x10
def rIpv4 (n : Nat) : Nat := rEth n 0x18
def rIpv6Lo (n : Nat) : Nat := rEth n 0x20
def rIpv6Hi (n : Nat) : Nat := rEth n 0x28
def rPfcThr (n : Nat) : Nat := rEth n 0x30
def rCcCtrl (n : Nat) : Nat := rEth n 0x38
/-- Counters 0–7: RX_FRAMES, TX_FRAMES, RX_DROP, PAUSE_RX, PAUSE_TX, CNP_RX, CNP_TX, ECN_CE. -/
def rEthCount (n k : Nat) : Nat := rEth n (0x100 + k * 8)
def rMgmtCtrl : Nat := bETH + 0x400000
def rMgmtIpv4 : Nat := bETH + 0x400008
def rMgmtPeer (k : Nat) : Nat := bETH + 0x400010 + k * 8
def rEvtDest : Nat := bETH + 0x400030
def rEvtPeriod : Nat := bETH + 0x400038
def rMgmtDeny : Nat := bETH + 0x400100
def rEthCause : Nat := bETH + 0x500000
def rQpErrNum : Nat := bETH + 0x500008
def rLink (n off : Nat) : Nat := bLINK + n * 0x100000 + off
def rPortCtrl (n : Nat) : Nat := rLink n 0x00
def rPortStatus (n : Nat) : Nat := rLink n 0x08
def rPeerId (n : Nat) : Nat := rLink n 0x10
def rNodeTag (n : Nat) : Nat := rLink n 0x18
def rRingReg (n : Nat) : Nat := rLink n 0x20
def rPortCause (n : Nat) : Nat := rLink n 0x28
def rCopySrc (n : Nat) : Nat := rLink n 0x30
def rCopyDst (n : Nat) : Nat := rLink n 0x38
def rCopyLen (n : Nat) : Nat := rLink n 0x40
def rCopyCmd (n : Nat) : Nat := rLink n 0x48
def rCopyStatus (n : Nat) : Nat := rLink n 0x50
def rPortPending (n : Nat) : Nat := rLink n 0xF0
/-- Counters 0–11: TX_FLITS, RX_FLITS, REPLAYS, FEC_CORR, FEC_UNCORR, CREDIT_WAIT, RED_SENT, RED_RECV, GATHER_ROWS,
KERF_BYTES, GATE_WAIT, VOTE_STALE. -/
def rLinkCount (n k : Nat) : Nat := rLink n (0x100 + k * 8)
def rPlinth (s off : Nat) : Nat := bMEM + s * 0x100000 + off
def rPlCause (s : Nat) : Nat := rPlinth s 0
def rErrAddr (s : Nat) : Nat := rPlinth s 8
def rPlCtrl (s : Nat) : Nat := rPlinth s 0x10
/-- Counters 0–14: RD_BYTES, WR_BYTES, ACT, TURN, REF_CYC, CAL_CYC, RMW, CE_COUNT, UE_COUNT, OCHRE_COUNT, N_REQ, N_HIT,
N_BANKWAIT, N_SLOTFULL, NC_PAR. -/
def rPlCount (s k : Nat) : Nat := rPlinth s (0x40 + k * 8)
def rGRows (s g : Nat) : Nat := rPlinth s (0x1000 + g * 0x10)
def rGOob (s g : Nat) : Nat := rPlinth s (0x1008 + g * 0x10)
/-- Page of edge engine `e`, counted 0–255 over the stacks. -/
def rEdge (e off : Nat) : Nat := bMEM + 0x800000 + e / 32 * 0x80000 + e % 32 * 0x1000 + off
def rEeStatus (e : Nat) : Nat := rEdge e 0
def rEeCause (e : Nat) : Nat := rEdge e 8
/-- Counters 0–7: RD_BYTES, WR_BYTES, STOLEN, FENCE_WAIT, CONV_LOW, CONV_HIGH, CONV_NAN, SHIM_DROP. -/
def rEeCount (e k : Nat) : Nat := rEdge e (0x40 + k * 8)
def rMemCause : Nat := bMEM + 0xC00000
def rClassCtrl : Nat := bMEM + 0xC00008
def rClassMap (k : Nat) : Nat := bMEM + 0xC00100 + k * 8
def rIstr (p i off : Nat) : Nat := bMEM + 0xC10000 + p * 0x1000 + i * 0x40 + off
def rIstrBase (p i : Nat) : Nat := rIstr p i 0x00
def rIstrSize (p i : Nat) : Nat := rIstr p i 0x08
def rIstrWrite (p i : Nat) : Nat := rIstr p i 0x10
def rIstrRead (p i : Nat) : Nat := rIstr p i 0x18
def rIstrMark (p i : Nat) : Nat := rIstr p i 0x20
def rIstrReleased (p i : Nat) : Nat := rIstr p i 0x28
def rIstrRelease (p i : Nat) : Nat := rIstr p i 0x30
def rSchedCause : Nat := bSCHED
def rPartCfg (p : Nat) : Nat := bSCHED + 0x100 + p * 8
/-- Step page of a partition (R71). -/
def rStepPage (p off : Nat) : Nat := bSCHED + 0x100000 + p * 0x1000 + off
def rPartPage (p off : Nat) : Nat := bSCHED + 0x200000 + p * 0x1000 + off
/-- Context view of slot `sl` (R467): where the model keeps the step registers of every context (R446, R555). -/
def rStep (p sl off : Nat) : Nat := bSCHED + 0x300000 + p * 0x8000 + sl * 0x1000 + off
def rPartCause (p : Nat) : Nat := rPartPage p 0
def rPartSched (p : Nat) : Nat := rPartPage p 8
def rBlockEvict (p : Nat) : Nat := rPartPage p 0x10
def rPcycle (p : Nat) : Nat := rPartPage p 0x18
def rRunStatus (p : Nat) : Nat := rPartPage p 0x20
def rCtxSwitchTime (p : Nat) : Nat := rPartPage p 0x28
def rSlot (p s : Nat) : Nat := rPartPage p (0x40 + s * 8)
def rParked (p k : Nat) : Nat := rPartPage p (0x100 + k * 8)
def rIntegCause : Nat := bINTEG
def rLogBase : Nat := bINTEG + 0x08
def rLogSize : Nat := bINTEG + 0x10
def rLogHead : Nat := bINTEG + 0x18
def rLogTail : Nat := bINTEG + 0x20
def rLogDrop : Nat := bINTEG + 0x28
def rRetireCtrl : Nat := bINTEG + 0x30
def rShort : Nat := bINTEG + 0x38
def rTestBase : Nat := bINTEG + 0x40
def rTestSize : Nat := bINTEG + 0x48
def rTestStore (k : Nat) : Nat := bINTEG + 0x80 + k * 8
def rLastReport (n : Nat) : Nat := bINTEG + 0x100 + n * 8
def rIntegPart (p off : Nat) : Nat := bINTEG + 0x1000 + p * 0x100 + off
def rPartCtrl (p : Nat) : Nat := rIntegPart p 0
def rPartStatus (p : Nat) : Nat := rIntegPart p 8
def rWinSeq (p : Nat) : Nat := rIntegPart p 0x10
def rHaltSeq (p : Nat) : Nat := rIntegPart p 0x18
def rTestResult (p : Nat) : Nat := rIntegPart p 0x20
def rSampleKey (p : Nat) : Nat := rIntegPart p 0x28
/-- Counters 0–3: CHECKED, MISMATCH, RESIDUE, PARITY. -/
def rIntegCount (p k : Nat) : Nat := rIntegPart p (0x40 + k * 8)
def rFabCause : Nat := bFABBLK
/-- CAB_MAP0 and CAB_MAP1 of field `f`, k = 0, 1. -/
def rCabMap (f k : Nat) : Nat := bFABBLK + 0x100 + f * 0x10 + k * 8
def rCabPending (f k : Nat) : Nat := bFABBLK + 0x200 + f * 0x20 + k * 8
def rRemapStatus : Nat := bFABBLK + 0x800
def rRemapCtrl : Nat := bFABBLK + 0x808
def rRemapReq : Nat := bFABBLK + 0x810
def rRemapDir (n : Nat) : Nat := bFABBLK + 0x100000 + n * 8
def rCabPage (c off : Nat) : Nat := bFABRIC + c * 0x10000 + off
def rCabStatus (c : Nat) : Nat := rCabPage c 0
def rCabCause (c : Nat) : Nat := rCabPage c 8
def rCabCtrl (c : Nat) : Nat := rCabPage c 0x10
def rCellQuiet (c k : Nat) : Nat := rCabPage c (0x20 + k * 8)
def rCellDrain (c k : Nat) : Nat := rCabPage c (0x40 + k * 8)
def rCellEpoch (c k : Nat) : Nat := rCabPage c (0x60 + k * 8)
def rCellFault (c k : Nat) : Nat := rCabPage c (0x80 + k * 8)
def rCellMap (c k : Nat) : Nat := rCabPage c (0xA0 + k * 8)
/-- Counters 0–4: FIRE_COUNT, BUBBLE_COUNT, STORE_FULL, EMIT_STALL, GRANT_WAIT. -/
def rCabCount (c k : Nat) : Nat := rCabPage c (0x100 + k * 8)
def rSlotStatus (c : Nat) : Nat := rCabPage c 0x180
def rSlotAddr (c k : Nat) : Nat := rCabPage c (0x188 + k * 8)
def rSeqStatus (c : Nat) : Nat := rCabPage c 0x198
def rMqStat (c cell : Nat) : Nat := rCabPage c (0x1000 + cell * 0x10)
def rMqPtr (c cell : Nat) : Nat := rCabPage c (0x1008 + cell * 0x10)

/-! ### Offsets in the step page and the context view -/
def oStepCtrl : Nat := 0x00
def oStepStatus : Nat := 0x08
def oStepNumber : Nat := 0x10
def oVoteWait : Nat := 0x18
def oStepCause : Nat := 0x20
def oStepResolve : Nat := 0x28
def oLeafBase : Nat := 0x30
def oLeafSize : Nat := 0x38
def oSpillBase : Nat := 0x40
def oSpillSize : Nat := 0x48
def oSpillUsed : Nat := 0x50
def oSpillPeak : Nat := 0x58
def oJigStatus : Nat := 0x60
def oLoadErr : Nat := 0x68
def oSwitchTime : Nat := 0x70
def oTensorBase : Nat := 0x78
def oTensorCtrl : Nat := 0x80
def oRangeStatus : Nat := 0x88
def oJournalBase : Nat := 0x90
def oJournalSize : Nat := 0x98
def oJournalUsed : Nat := 0xA0
def oJournalPeak : Nat := 0xA8
def oRegenBase : Nat := 0xB0
def oRegenCtrl : Nat := 0xB8
def oVoteCtrl : Nat := 0xC0
def oCtxArea : Nat := 0xD0
def oDeadline : Nat := 0xD8
def oDlCtrl : Nat := 0xE0
def oFallback : Nat := 0xE8

/-! ### The table of access masks and reset values -/

/-- Registers at lo + i × s₁ + j × s₂ + k × s₃ with i < n₁, j < n₂, k < n₃: the bits of each access type (R9) and the
reset value. Bits of no mask are read only or reserved. -/
structure RegRow where
  lo : Nat
  s1 : Nat := 8
  n1 : Nat := 1
  s2 : Nat := 0
  n2 : Nat := 1
  s3 : Nat := 0
  n3 : Nat := 1
  rw : Nat := 0
  w1c : Nat := 0
  wo : Nat := 0
  rwl : Nat := 0
  reset : Nat := 0
deriving DecidableEq, Repr

/-- Peel one level of index off an offset. -/
def peel (d s n : Nat) : Option Nat :=
  if n ≤ 1 then some d else if d / s < n then some (d % s) else none

/-- The row describes the register at address `a`. -/
def RegRow.covers (r : RegRow) (a : Nat) : Bool :=
  if a < r.lo then false
  else
    match peel (a - r.lo) r.s3 r.n3 with
    | none => false
    | some d =>
      match peel d r.s2 r.n2 with
      | none => false
      | some d => if r.n1 ≤ 1 then d == 0 else d / r.s1 < r.n1 && d % r.s1 == 0

def all64 : Nat := 2 ^ 64 - 1
/-- Bits [38:12] of an HBM address or size. -/
def pageMask : Nat := 0x7FFFFFF000

def rowsSys : List RegRow :=
  [{ lo := rAttnSummary }, { lo := rAttnMask, rw := 0x3FF }, { lo := rHostErr, rw := 0xFFFFFFFF000000FF },
   { lo := rHostErrAddr }, { lo := rDeviceId, reset := 0x0000084400014F54 }, { lo := rStepping, reset := 0x3FA1 },
   { lo := rEpochTag, rw := all64 }]

def rowsClk : List RegRow :=
  [{ lo := rClkEnable0, rw := 0x03FFFFFFFFFFFFFF }, { lo := rClkEnable1, rw := 1 }, { lo := rClkCause, w1c := 0x3FFFF },
   { lo := rCclkCtrl, rw := 0x7FF, reset := 0x3E8 }, { lo := rSscCtrl, rw := 0x3FF, reset := 0x210 },
   { lo := rMeasCtrl, rw := 0x00FFFFFF000003FF, wo := 0x400, reset := 0x0003D09000000000 }, { lo := rMeasCount },
   { lo := rObsCtrl, rw := 0x3FFF, reset := 6 }, { lo := rFclkSet 0, n1 := 16, rw := 0xFFF, reset := 0x7D0 },
   { lo := rFclkStatus 0, n1 := 16, reset := 0x107D0 }]

def rowsPwr : List RegRow :=
  [{ lo := rPwrCause, w1c := 0x3F }, { lo := rPwrCtrl, rw := 0x7FFF, reset := 0x55F0 },
   { lo := rThermCtrl, rw := 0xFFFF, reset := 0x5564 }, { lo := rVin, n1 := 3 }, { lo := rEnergy, rw := all64 },
   { lo := rTemp 0, n1 := 72 }, { lo := rVmon 0, n1 := 24 }, { lo := rThrotCyc 0, n1 := 16, rw := all64 }]

def rowsSec : List RegRow :=
  [{ lo := rSecCause, w1c := 0xD }, { lo := rBootStatus, n1 := 3 }, { lo := rResetCtrl, wo := 3 },
   { lo := rUpdAddr, rw := 0x7FFFFFFFFF }, { lo := rUpdLen, rw := 0x7FFFFFF }, { lo := rUpdCmd, wo := 7 },
   { lo := rUpdStatus }, { lo := rUpdData, wo := all64 }]

def rowsHost : List RegRow :=
  [{ lo := rHostCause, w1c := 0x1F }, { lo := rAccCtrl, rw := 1 }, { lo := rDomainKey 0, n1 := 64, rw := 0xFFFFFFFF },
   { lo := rAccHbm 0x61 0, rwl := 0x01FFFFFFFFFFFFFF, reset := 0x01FFFFFFF8000000 },
   { lo := rAccHbm 0 0, n1 := 2048, rwl := 0x01FFFFFFFFFFFFFF },
   { lo := rAccCsr 0x60, rwl := 0xFFFFFFFFFF, reset := 0xFFFFFCFFFF },
   { lo := rAccCsr 0x61, rwl := 0xFFFFFFFFFF, reset := 0xFFFFFFFFFF },
   { lo := rAccCsr 0, n1 := 128, rwl := 0xFFFFFFFFFF },
   { lo := rRingBase 0, s1 := 0x100, n1 := 256, rw := pageMask },
   { lo := rRingCfg 0, s1 := 0x100, n1 := 256, rw := 0xFFFF, reset := 0xC },
   { lo := rRingHead 0, n1 := 3, s2 := 0x100, n2 := 256 },
   { lo := rCqAddr 0, s1 := 0x100, n1 := 256, rw := all64 },
   { lo := rCqCfg 0, s1 := 0x100, n1 := 256, rw := 0xFFFFFFFF0000FFFF, reset := 0x6000 },
   { lo := rCqTail 0, s1 := 0x100, n1 := 256 },
   { lo := rDoorbell 0, n1 := 2, s2 := 0x1000, n2 := 256, wo := 0xFFFFFFFF },
   { lo := rQp 0 0, s1 := 0x40, n1 := 4096, rw := 0xFFFFFF7FFF },
   { lo := rQp 0 1, s1 := 0x40, n1 := 4096, rw := 0xFFFFFFFFFFFF },
   { lo := rQp 0 2, s1 := 0x40, n1 := 4096, rw := 0x3FFFFFFFFFFFFF },
   { lo := rQp 0 3, n1 := 2, s2 := 0x40, n2 := 4096, rw := all64 },
   { lo := rQp 0 5, n1 := 3, s2 := 0x40, n2 := 4096 }]

def rowsEth : List RegRow :=
  [{ lo := rEthCtrl 0, s1 := 0x100000, n1 := 4, rw := 0x3FFF07FFFFFF, reset := 0x0000240003000006 },
   { lo := rEthStatus 0, s1 := 0x100000, n1 := 4 },
   { lo := rMacAddr 0, s1 := 0x100000, n1 := 4, rw := 0xFFFFFFFFFFFF },
   { lo := rIpv4 0, s1 := 0x100000, n1 := 4, rw := 0xFFFFFFFF },
   { lo := rIpv6Lo 0, n1 := 2, s2 := 0x100000, n2 := 4, rw := all64 },
   { lo := rPfcThr 0, s1 := 0x100000, n1 := 4, rw := 0xFFFFFFFF, reset := 0x8000C0 },
   { lo := rCcCtrl 0, s1 := 0x100000, n1 := 4, rw := 0x0FFFFFFFFFFFFFFF, reset := 0x0003E80371388132 },
   { lo := rEthCount 0 0, n1 := 8, s2 := 0x100000, n2 := 4, rw := all64 },
   { lo := rMgmtCtrl, rw := 4, rwl := 3 }, { lo := rMgmtIpv4, rwl := 0xFFFFFFFF },
   { lo := rMgmtPeer 0, n1 := 4, rwl := 0x1FFFFFFFF }, { lo := rEvtDest, rw := 0x1FFFFFFFFFFFF },
   { lo := rEvtPeriod, rw := 0xFFFF, reset := 0x3E8 }, { lo := rMgmtDeny, rw := all64 },
   { lo := rEthCause, w1c := 0x3F }, { lo := rQpErrNum }]

def rowsLink : List RegRow :=
  [{ lo := rPortCtrl 0, s1 := 0x100000, n1 := 16, rw := 0x1F, wo := 0x20, reset := 0x1C },
   { lo := rPortStatus 0, n1 := 2, s2 := 0x100000, n2 := 16 },
   { lo := rNodeTag 0, s1 := 0x100000, n1 := 16, rw := 0xFFFF },
   { lo := rRingReg 0, s1 := 0x100000, n1 := 16, rw := 0x1FFFF },
   { lo := rPortCause 0, s1 := 0x100000, n1 := 16, w1c := 0xFF },
   { lo := rCopySrc 0, n1 := 2, s2 := 0x100000, n2 := 16, rw := 0x7FFFFFFFFF },
   { lo := rCopyLen 0, s1 := 0x100000, n1 := 16, rw := 0xFFFFFFFF },
   { lo := rCopyCmd 0, s1 := 0x100000, n1 := 16, wo := 1 },
   { lo := rCopyStatus 0, s1 := 0x100000, n1 := 16 },
   { lo := rPortPending 0, s1 := 0x100000, n1 := 16 },
   { lo := rLinkCount 0 0, n1 := 12, s2 := 0x100000, n2 := 16, rw := all64 }]

def rowsMem : List RegRow :=
  [{ lo := rPlCause 0, s1 := 0x100000, n1 := 8, w1c := 0x1F },
   { lo := rErrAddr 0, s1 := 0x100000, n1 := 8 },
   { lo := rPlCtrl 0, s1 := 0x100000, n1 := 8, rw := 1, wo := 2, reset := 1 },
   { lo := rPlCount 0 0, n1 := 15, s2 := 0x100000, n2 := 8, rw := all64 },
   { lo := rGRows 0 0, n1 := 32, s2 := 0x100000, n2 := 8, rw := all64 },
   { lo := rEeStatus 0, s1 := 0x1000, n1 := 32, s2 := 0x80000, n2 := 8 },
   { lo := rEeCause 0, s1 := 0x1000, n1 := 32, s2 := 0x80000, n2 := 8, w1c := 7 },
   { lo := rEeCount 0 0, n1 := 8, s2 := 0x1000, n2 := 32, s3 := 0x80000, n3 := 8, rw := all64 },
   { lo := rMemCause }, { lo := rClassCtrl, rw := 1 }, { lo := rClassMap 0, n1 := 16, rwl := all64 },
   { lo := rIstrBase 0 0, n1 := 2, s2 := 0x40, n2 := 16, s3 := 0x1000, n3 := 16, rw := pageMask },
   { lo := rIstrWrite 0 0, s1 := 0x40, n1 := 16, s2 := 0x1000, n2 := 16, rw := 0xFFFFFFFFFFFFFF },
   { lo := rIstrRead 0 0, n1 := 3, s2 := 0x40, n2 := 16, s3 := 0x1000, n3 := 16 },
   { lo := rIstrRelease 0 0, s1 := 0x40, n1 := 16, s2 := 0x1000, n2 := 16, wo := 0xFFFFFFFFFFFFFF }]

/-- The step registers by offset (02, 05–09, 11). -/
def stepOffsets : List RegRow :=
  [{ lo := oStepCtrl, rw := 0xFF, reset := 8 }, { lo := oStepStatus }, { lo := oStepNumber, rw := 0xFFFFFFFF },
   { lo := oVoteWait }, { lo := oStepCause, w1c := 0x7FF }, { lo := oStepResolve, wo := 0xFFFFFFFF00000003 },
   { lo := oLeafBase, rw := pageMask }, { lo := oLeafSize, rw := pageMask }, { lo := oSpillBase, rw := pageMask },
   { lo := oSpillSize, rw := pageMask }, { lo := oSpillUsed }, { lo := oSpillPeak, rw := 0xFFFFFFFF },
   { lo := oJigStatus }, { lo := oLoadErr, rw := 0x00FFFFFFFFFFFFFF }, { lo := oSwitchTime, rw := 0xFFFFFFFF00000000 },
   { lo := oTensorBase, rw := pageMask }, { lo := oTensorCtrl, rw := 0xF1FFF, reset := 0x20000 },
   { lo := oRangeStatus }, { lo := oJournalBase, rw := pageMask }, { lo := oJournalSize, rw := pageMask },
   { lo := oJournalUsed, w1c := 0x8000000000000000 }, { lo := oJournalPeak, rw := 0x7FFFFFFFFF },
   { lo := oRegenBase, rw := pageMask }, { lo := oRegenCtrl, rw := 0xFF01 },
   { lo := oVoteCtrl, rw := 0xFFFF001F, reset := 0x10 }, { lo := oCtxArea }, { lo := oDeadline, rw := all64 },
   { lo := oDlCtrl, rw := 0xFFFFFFFF00000001 }, { lo := oFallback, rw := pageMask }]

def rowsSched : List RegRow :=
  [{ lo := rSchedCause }, { lo := rPartCfg 0, n1 := 16, rw := 0xFF },
   { lo := rPartCause 0, s1 := 0x1000, n1 := 16, w1c := 0x1F },
   { lo := rPartSched 0, s1 := 0x1000, n1 := 16, rw := 0x1FFFFFFFFFF, reset := 0x000001003E802710 },
   { lo := rBlockEvict 0, s1 := 0x1000, n1 := 16, rw := 0xFFFFFFFF },
   { lo := rPcycle 0, s1 := 0x1000, n1 := 16, rw := all64 },
   { lo := rRunStatus 0, s1 := 0x1000, n1 := 16 },
   { lo := rCtxSwitchTime 0, s1 := 0x1000, n1 := 16, rw := 0xFFFFFFFF00000000 },
   { lo := rSlot 0 0, n1 := 8, s2 := 0x1000, n2 := 16 },
   { lo := rParked 0 0, n1 := 16, s2 := 0x1000, n2 := 16 }]
  ++ stepOffsets.map (fun r => { r with lo := rStepPage 0 r.lo, s1 := 0x1000, n1 := 16 })
  ++ stepOffsets.map (fun r => { r with lo := rStep 0 0 r.lo, s1 := 0x1000, n1 := 128 })

def rowsInteg : List RegRow :=
  [{ lo := rIntegCause, w1c := 0xFF }, { lo := rLogBase, n1 := 2, rw := pageMask }, { lo := rLogHead },
   { lo := rLogTail, rw := 0xFFFFFFFF }, { lo := rLogDrop, rw := all64 }, { lo := rRetireCtrl, rw := 0xF, reset := 2 },
   { lo := rShort }, { lo := rTestBase, n1 := 2, rw := pageMask }, { lo := rTestStore 0, n1 := 16 },
   { lo := rLastReport 0, n1 := 8 },
   { lo := rPartCtrl 0, s1 := 0x100, n1 := 16, rw := 7, wo := 0x18 },
   { lo := rPartStatus 0, n1 := 5, s2 := 0x100, n2 := 16 },
   { lo := rIntegCount 0 0, n1 := 4, s2 := 0x100, n2 := 16, rw := all64 }]

def rowsFabric : List RegRow :=
  [{ lo := rFabCause }, { lo := rCabMap 0 0, n1 := 32, reset := 0x1F1F1F1F1F1F1F1F },
   { lo := rCabPending 0 0, n1 := 64 }, { lo := rRemapStatus }, { lo := rRemapCtrl, rw := 0xF1, reset := 0x41 },
   { lo := rRemapReq, wo := 0xFFFFF01FF }, { lo := rRemapDir 0, n1 := 131072 },
   { lo := rCabStatus 0, s1 := 0x10000, n1 := 4096, reset := 0x102 },
   { lo := rCabCause 0, s1 := 0x10000, n1 := 4096, w1c := 0x1F },
   { lo := rCabCtrl 0, s1 := 0x10000, n1 := 4096, rw := 0xFFFF, reset := 0x400 },
   { lo := rCellQuiet 0 0, n1 := 4, s2 := 0x10000, n2 := 4096, reset := all64 },
   { lo := rCellDrain 0 0, n1 := 8, s2 := 0x10000, n2 := 4096 },
   { lo := rCellFault 0 0, n1 := 4, s2 := 0x10000, n2 := 4096, w1c := all64 },
   { lo := rCellMap 0 0, n1 := 2, s2 := 0x10000, n2 := 4096, reset := 0x1F1F1F1F1F1F1F1F },
   { lo := rCabCount 0 0, n1 := 5, s2 := 0x10000, n2 := 4096, rw := all64 },
   { lo := rSlotStatus 0, n1 := 3, s2 := 0x10000, n2 := 4096 },
   { lo := rSeqStatus 0, s1 := 0x10000, n1 := 4096, reset := 0x50000 },
   { lo := rMqStat 0 0, s1 := 0x10, n1 := 256, s2 := 0x10000, n2 := 4096, w1c := 0x1800, reset := 0x400 },
   { lo := rMqPtr 0 0, s1 := 0x10, n1 := 256, s2 := 0x10000, n2 := 4096 }]

/-- The rows of the block that holds an address; none outside the CSR window. -/
def blockRows (a : Nat) : List RegRow :=
  if a < bSYS then []
  else if a < bCLK then rowsSys
  else if a < bPWR then rowsClk
  else if a < bSEC then rowsPwr
  else if a < bHOST then rowsSec
  else if a < bETH then rowsHost
  else if a < bLINK then rowsEth
  else if a < bMEM then rowsLink
  else if a < bSCHED then rowsMem
  else if a < bINTEG then rowsSched
  else if a < bINTEG + 0x1000000 then rowsInteg
  else if a < bFABRIC then []
  else if a < csrEnd then rowsFabric
  else []

/-- The row of the register at an address (R551: none where no register stands). -/
def regRow (a : Nat) : Option RegRow := (blockRows a).find? (fun r => r.covers a)

/-- The reset value of the register at an address (R10). -/
def regReset (a : Nat) : Word :=
  match regRow a with
  | some r => BitVec.ofNat 64 r.reset
  | none => 0

/-- Block number in the order of R438: SYS, CLK, PWR, SEC, HOST, ETH, LINK, MEM, SCHED, INTEG, FABRIC. -/
def blockOf (a : Nat) : Option Nat :=
  if a < bSYS then none
  else if a < bINTEG + 0x1000000 then some ((a - bSYS) / 0x1000000)
  else if a < bFABRIC then none
  else if a < csrEnd then some 10
  else none

/-! ### Status codes (R415) -/
abbrev Code := BitVec 8
def cOk : Code := 0x00
def eOpcode : Code := 0x01
def eRange : Code := 0x02
def eAccess : Code := 0x03
def eGated : Code := 0x04
def eBusy : Code := 0x05
def eVersion : Code := 0x06
def eState : Code := 0x07
def eAlign : Code := 0x08
def eSignature : Code := 0x09
def eCapacity : Code := 0x0A
def ePartition : Code := 0x0B
def cDiscarded : Code := 0x10
def cHalted : Code := 0x11
def cFallback : Code := 0x12

/-! ### Step states (R33) -/
def sIdle : Nat := 0
def sRunning : Nat := 1
def sVoting : Nat := 2
def sCommitting : Nat := 3
def sDiscarding : Nat := 4
def sHalted : Nat := 5

end Sys2Proof.Machine
end

