-- ==== Sys2Proof/Machine/State.lean ====
section
/-! DEFINITION. The state of the module as plain data (INVENTORY.md, '## State'), the state after reset, and the
reasons a step can stop. -/

namespace Sys2Proof.Machine

/-- Why the machine can stop with a fault. -/
inductive Fault where
  /-- Raised by no meaning of this model: the block has no exception that ends a run; every fault of the spec is an
  effect on the state. Safe. -/
  | none
deriving DecidableEq, Repr

/-- Why a command can be refused. -/
inductive Refusal where
  /-- The command has no meaning yet; raised by the arms of `exec` only. Safe: nothing can be proved of a step that is
  refused. -/
  | notModelled (mnemonic : String)
deriving DecidableEq, Repr

/-! ### Bench (03, 04) -/

/-- An entry of a product table with its residue modulo 7 and its even parity (R471). -/
structure PtEntry where
  val : BitVec 16
  res : BitVec 3
  par : Bool
deriving DecidableEq, Repr

/-- A range counter (R258): saturations, shim overflows, largest exponent (−128 when empty). -/
structure RangeCtr where
  sat  : Nat
  ovf  : Nat
  xmax : Int
deriving DecidableEq, Repr

/-- The registers a firing computes with: vector registers, accumulators with saturation bits, product tables (entry e
of table t under 256 × t + e) and exponents, the NaN flag and the range counters (R85, R141, R150, R258). -/
structure Regs where
  v      : Sparse Row := []
  acc    : Sparse (BitVec 32) := []
  sat    : BitVec 16 := 0
  tables : Sparse PtEntry := []
  texp   : Sparse (BitVec 8) := []
  nan    : Bool := false
  ranges : Sparse RangeCtr := []
deriving DecidableEq, Repr

/-- An iteration in flight (R92, R222): its tag, its next instruction, tokens consumed on each port, its entry order. -/
structure Iter where
  tag   : BitVec 16
  next  : Nat
  used  : Five Nat
  order : Nat
deriving DecidableEq, Repr

/-- A register reserved for a tag until instruction `last` fires (R94); register 32 is the accumulators. A reservation
of a bubble firing makes its readers bubble firings (R96). -/
structure Resv where
  reg    : Nat
  tag    : BitVec 16
  last   : Nat
  bubble : Bool
deriving DecidableEq, Repr

structure StoreTok where
  port : Port
  tok  : Tok
deriving DecidableEq, Repr

/-- What a firing leaves behind: the registers and the tokens it emits, by port. -/
structure FireOut where
  regs  : Regs
  emits : List (Port × Tok)
deriving DecidableEq, Repr

/-- A captured firing (R478): everything it read, and the bits it produced. -/
structure Capture where
  idx   : Nat
  ord   : Nat
  tag   : BitVec 16
  word  : Word
  k     : List (BitVec 16)
  pre   : Regs
  toks  : Five (Option Tok)
  coef  : List (BitVec 32)
  step  : BitVec 32
  jig   : BitVec 32
  epoch : Bool
  small : Bool
  out   : FireOut
deriving DecidableEq, Repr

/-- A bench (R85). `ahead`: the cell has installed the next jig, so its epoch bit is the inverse of `JIG_STATUS.EPOCH`
of its partition (R206, R212); `cfg`: configuration rows taken of the next jig; `ended`: its end tokens are out (R202). -/
structure Bench where
  prog    : List Word := []
  k       : List (BitVec 16) := []
  regs    : Regs := {}
  gd      : BitVec 16 := 0
  iters   : List Iter := []
  order   : Nat := 0
  resv    : List Resv := []
  store   : List StoreTok := []
  inQ     : Five (List Tok) := ⟨[], [], [], [], []⟩
  outQ    : Five (List Tok) := ⟨[], [], [], [], []⟩
  passedP : Five Bool := ⟨false, false, false, false, false⟩
  passedC : Four Bool := ⟨false, false, false, false⟩
  ended   : Bool := false
  cfg     : Nat := 0
  cap0    : Option Capture := none
  cap1    : Option Capture := none
  ords    : Sparse Nat := []
  ahead   : Bool := false
deriving DecidableEq, Repr

/-- The switch of a cell (R105, R107, R109, R193): ROUTE, tokens under way on each outgoing channel, and the tokens that wait
at each incoming channel for their fork. -/
structure Switch where
  route : BitVec 16 := 0
  hop   : Four (List Tok) := ⟨[], [], [], []⟩
  wait  : Four (List Tok) := ⟨[], [], [], []⟩
deriving DecidableEq, Repr

/-! ### Drawer (04, 08, 02) -/

/-- Where an entry of the checkpoint stack lies (R41, R44): its rows in the band, its place in the spill slice, on its
way from there, or nowhere (dropped). -/
inductive Place where
  | band (rows : List Nat)
  | slice (off len : Nat)
  | fetching (off len : Nat)
  | dropped
deriving DecidableEq, Repr

/-- A stack entry (R40, R180, R341); `len` rows hold it in the band. -/
structure StkEnt where
  frame : Nat
  ord   : Nat
  tag   : BitVec 16
  el    : Nat
  lossy : Bool
  rows  : Nat
  vmask : BitVec 64
  len   : Nat
  place : Place
deriving DecidableEq, Repr

/-- The drawer (R169): its part of the jig, the generators, the mode region, its share of the checkpoint stack. `started`:
the present PUSH word has reserved positions from `base`; `stale`: a reset has discarded them (R337); `dry`: the present
slot turn of a POP found the region empty (R335); `framed`: the present jig has opened its frame (R40); `full`: a push
found no spill space (R44); `popRows`: decoded rows of the entry a STK.POP emits, still to emit; `popIdx`: rows of that entry
already emitted; `popTail`: tail rows of a lossy entry that a STK.POP has read (R340); `popped`: entries popped from the frame
of the present jig (R40); `tileFrom`, `outFrom`: the word and the first token of the tile being read, the word and the next token
of the tile being emitted (R177); `reads`: rows in the read return buffer (R113); `tagCnt`: the write counts of tags of which some
tokens have arrived. -/
structure Drawer where
  prog    : List Word := []
  pats    : List Word := []
  mode    : Nat := 0
  mbase   : Nat := 0
  msize   : Nat := 0
  slot    : Nat := 0
  rdW     : Nat := 0
  rdA     : Nat := 0
  wrW     : Nat := 0
  wrA     : Nat := 0
  tagCnt  : Sparse Nat := []
  base    : Nat := 0
  tile    : List Row := []
  tileOut : List Row := []
  tileFrom : Nat × Nat := (0, 0)
  outFrom : Nat × Nat := (0, 0)
  head    : Nat := 0
  head2   : Nat := 0
  tail    : Nat := 0
  tail2   : Nat := 0
  res     : Nat := 0
  mark    : Nat := 0
  free    : Nat := 0
  mvalid  : Bool := false
  under   : Bool := false
  qreset  : Bool := false
  written : List Nat := []
  slotCnt : Sparse Nat := []
  lastRow : Row := 0
  stack   : List StkEnt := []
  frames  : Nat := 0
  started : Bool := false
  stale   : Bool := false
  dry     : Bool := false
  framed  : Bool := false
  full    : Bool := false
  opened  : List (Nat × List (Option Row)) := []
  popRows : List (Option Row) := []
  popIdx  : Nat := 0
  popTail : List Row := []
  popped  : Nat := 0
  reads   : List Row := []
  endSent : Bool := false
  taken   : Bool := false
  ceRow   : Nat := 0
  ceCnt   : Nat := 0
deriving DecidableEq, Repr

structure Cell where
  bench : Bench := {}
  sw    : Switch := {}
  dr    : Drawer := {}
deriving DecidableEq, Repr

/-- A remote write that asked for a credit (R114, R115): the rows asked for in every target, the targets that have
granted, and whether the joined grant has reached the writer. -/
structure Credit where
  writer  : Nat
  targets : List Nat
  row     : Nat
  n       : Nat
  granted : List (Nat × Option Nat)
  arrived : Bool
  since   : Nat
deriving DecidableEq, Repr

/-! ### Cabinet (03, 05, 07) -/

/-- A slot of the slot store (R183, R225): 0 empty, 1 filling, 2 ready, 3 refused; the image address; the bytes of the
cabinet image; whether JIG.NEXT filled it. -/
structure Slot where
  st   : Nat := 0
  addr : Nat := 0
  img  : List Byte := []
  next : Bool := false
deriving DecidableEq, Repr

/-- What the cells of a field hold of the jig sequence, whatever partition holds the field (R118, R129, R212): the epoch of
those that run no switch ahead of it, and whether they have taken a configuration. -/
structure FieldJig where
  epoch : Bool := false
  taken : Bool := false
deriving DecidableEq, Repr

/-- A line of a sequencer cache (R117). -/
structure CLine where
  addr : Nat
  data : List Byte
deriving DecidableEq, Repr

/-- A partition-wide instruction a cabinet has issued (R217): its word and the register values it names. -/
structure Issue where
  word : Word
  xa   : Word
  xb   : Word
deriving DecidableEq, Repr

/-- The sequencer (R213, R227): x0–x13, word position, wait kind, the control segment and its length in words, the
partition-wide instruction it waits in, the retry record of R219; `due`: the segment of the current slot waits to start
(R211); `was`: the sequencer took part in the jig before (R217). -/
structure Seq where
  x      : Sparse Word := []
  pos    : Nat := 0
  wait   : Nat := 5
  seg    : Nat := 0
  len    : Nat := 0
  due    : Bool := false
  was    : Bool := false
  issue  : Option Issue := none
  rPos   : Nat := 0
  rX     : Sparse Word := []
deriving DecidableEq, Repr

structure Cab where
  slot0 : Slot := {}
  slot1 : Slot := {}
  cur   : Bool := false
  seq   : Seq := {}
  coef  : Sparse (BitVec 32) := []
  icache : Sparse (List CLine) := []
  dcache : Sparse (List CLine) := []
  stall : Nat := 0
deriving DecidableEq, Repr

/-! ### Links (09) -/

/-- A layer-table entry in progress on a port (R374–R388). `state`: 1 collecting, 2 reducing, 3 gathering, 4 complete on this
port; `ports`: the ports of the entry; `ch`: its gate channel; `recv`: local blocks received, of which `locals` holds those the
store still has, by number; `toks`: the tokens of the next block; `aborted`: its ring has been aborted; `half`: the first half of an FP32 block this device owns has gone to the gate. -/
structure Entry where
  idx     : Nat
  layer   : BitVec 16
  part    : Nat
  slot    : Nat
  kind    : Nat
  comp    : Bool
  dtype   : Bool
  first   : Nat
  blocks  : Nat
  kerf    : Nat
  src     : Nat
  dst     : Nat
  ports   : BitVec 16
  state   : Nat
  tag     : BitVec 16
  ch      : Nat
  toks    : List Row
  recv    : Nat
  locals  : Sparse (List (BitVec 32))
  sent    : Nat
  comb    : Nat
  deliv   : Nat
  taken   : Nat
  written : Nat
  aborted : Bool
  half    : Bool := false
deriving DecidableEq, Repr

/-- A granule of the write combiner (R380): its address, its bytes, which of them are written. -/
structure Gran where
  addr : Nat
  data : Sparse Byte
deriving DecidableEq, Repr

/-- A transport copy under way (R387). -/
structure CopyRun where
  src    : Nat
  dst    : BitVec 39
  total  : Nat
  sent   : Nat
deriving DecidableEq, Repr

/-- The link layer, the gate and the rings of a port. `frozen`: its link state is saved (R459); `aborted`: its ring is aborted;
`abortOwn`: the abort this device sent first has not come back yet (R386). -/
structure Link where
  trained : Option (BitVec 2) := none
  rxSeq  : BitVec 10 := 0
  txSeq  : BitVec 10 := 0
  lost   : Bool := false
  unacked : List (BitVec 10 × Nat × LinkMsg × Nat) := []
  queue  : List (Nat × LinkMsg) := []
  credit : Four Nat := ⟨256, 128, 16, 128⟩
  rx     : Four (List LinkMsg) := ⟨[], [], [], []⟩
  entries : List Entry := []
  comb   : List Gran := []
  gateOut : Sparse (List Tok) := []
  copy   : Option CopyRun := none
  inCopy : Nat := 0
  frozen : Bool := false
  aborted : Bool := false
  abortOwn : Bool := false
deriving DecidableEq, Repr

/-! ### Partition and context (02, 05, 11) -/

/-- A SEM.P that waits (R216, R448). -/
structure SemWait where
  cab   : Nat
  sem   : Nat
  count : Nat
deriving DecidableEq, Repr

/-- The RUN attached to a context (R425, R450). -/
structure RunReq where
  ring   : Nat
  seq    : BitVec 32
  cookie : BitVec 32
  image  : Nat
deriving DecidableEq, Repr

/-- What is recorded at the GO of a jig (R308). -/
structure GoRec where
  seqs   : List (Nat × Nat × Sparse Word)
  ev     : Sparse (BitVec 32)
  sem    : Sparse (BitVec 32)
  jig    : Nat
  reads  : List (BitVec 64)
  frames : List (Nat × Nat)
deriving DecidableEq, Repr

/-- A vote flit that waits for its context (R459). -/
structure HeldVote where
  up      : Bool
  port    : Nat
  step    : BitVec 32
  attempt : BitVec 2
  clean   : Bool
  nan     : Bool
deriving DecidableEq, Repr

/-- A context (R445, R446) with the attempt of its step (R52–R61, R385) and its present jig (R228, R308). `scanAt`: the save
image a restore reads; `again`: the fill or load a switch-out interrupted (R450, R456); `win`: the number of the recovery window that stood open at its
STEP.BEGIN (R483); `sentVote`: step and attempt of the last vote this device has sent (R385); `resolve`: STEP_RESOLVE was written while it is out (R446); `skipped`: the image a deadline fallback did not start; `keep…`: what the save image at `keepAt`
has no place for (log 15). -/
structure Ctx where
  alive   : Bool := false
  cid     : BitVec 32 := 0
  ports   : BitVec 16 := 0
  area    : Nat := 0
  ev      : Sparse (BitVec 32) := []
  sem     : Sparse (BitVec 32) := []
  semQ    : List SemWait := []
  run     : Option RunReq := none
  prog    : Bool := false
  saved   : Option Bool := none
  blockedFor : Nat := 0
  -- the attempt
  causes  : BitVec 11 := 0
  nanIn   : Bool := false
  voteReq : Bool := false
  own     : Option (Bool × Bool) := none
  held    : Option (Bool × Bool) := none
  ups     : List (Nat × Bool × Bool) := []
  upSent  : Bool := false
  sentVote : Option (Nat × Nat) := none
  votes   : List HeldVote := []
  resolve : Option Bool := none
  retry   : Bool := false
  jFull   : Bool := false
  -- the jig
  jig     : Nat := 0
  rJig    : Nat := 0
  fill    : Option (Nat × Nat) := none
  fillIn  : Bool := false
  load    : Option Nat := none
  refusal : Option Byte := none
  begun   : Bool := false
  marked  : Option Nat := none
  rerun   : Nat := 0
  goRec   : Option GoRec := none
  dlUsed  : Bool := false
  scanAt  : Nat := 0
  again   : Option (Nat × Nat × Nat) := none
  win     : Option Word := none
  skipped : Nat := 0
  keepAt  : Nat := 0
  keep    : Sparse Cell := []
  keepSeq : Sparse Seq := []
  keepLink : Sparse Link := []
  keepDowel : List Credit := []
deriving DecidableEq, Repr

/-- A parked context (R445) with its step-page registers. -/
structure Parked where
  ctx  : Ctx
  regs : List (Nat × Word)
  held : Bool
deriving DecidableEq, Repr

/-- A flush of a range counter on its way to the plinth (R260). -/
structure Flush where
  tensor : Nat
  sat    : Nat
  ovf    : Nat
  x      : Int
deriving DecidableEq, Repr

/-- A partition and its scheduler (R445, R453, R466, R483). `parking`: the ring whose CTX.PARK waits for the running context;
`test…`: a field test (R499): 0 none, 1 waiting, 2 running, the pattern that runs, whether a context was put aside for it,
differing cells found, the context and `STEP_STATUS` as they stood; `swStart`, `ctxStart`, `reqAt`: when a jig switch or a context switch under way began, and when the switch that waits was
requested (R228, R457); `goCount`: GOs sent since the last commit or reset (R477); `midStep`: it halted inside a step (R486);
`frozen`: a SCAN.OUT of the full form has stopped issue (R220). -/
structure Part where
  slot    : Nat := 0
  running : Bool := false
  switch  : Bool := false
  target  : Option Nat := none
  parked  : List Parked := []
  halted  : Bool := false
  flushes : List Flush := []
  window  : Bool := false
  check   : BitVec 3 := 0
  parking : Option Nat := none
  test    : Nat := 0
  testPat : Nat := 0
  testKeep : Bool := false
  testBad : Nat := 0
  testCtx : Option Ctx := none
  testStep : Word := 0
  swStart : Option Nat := none
  ctxStart : Option Nat := none
  reqAt   : Option Nat := none
  goCount : BitVec 32 := 0
  midStep : Bool := false
  frozen  : Bool := false
deriving DecidableEq, Repr

/-! ### Engines and plinths (08) -/

/-- A block list in an engine's queue (R315, R322): its number in the engine, address, partition, slot of its context, the next
descriptor to start, the number of descriptors not stolen, those completed, all of them, the event it signals. -/
structure EList where
  id    : Nat
  addr  : Nat
  part  : Nat
  slot  : Nat
  next  : Nat
  last  : Nat
  done  : Nat
  count : Nat
  sig   : Option Nat
deriving DecidableEq, Repr

/-- A descriptor under way or with accesses not yet acknowledged (R321): the address and the number of its list, the engine that
queued it, its index, the bytes of the input stream it claimed (R330), the descriptor as it was read. -/
structure Active where
  list  : Nat
  lid   : Nat
  home  : Nat
  idx   : Nat
  part  : Nat
  slot  : Nat
  istr  : Option (Nat × Nat)
  desc  : BitVec 512 := 0
deriving DecidableEq, Repr

/-- An engine: its queue and the number of the next list, the descriptor it has stolen, the present descriptor once read and
whether it has started, the stream bytes it has claimed (first position, count), source bytes it has fetched (`got`) and those
of them not yet turned into rows (`raw`; of a gather engine the sector of the index list), rows not delivered, drawer slots or
rows it has done, and the descriptors it has issued. -/
structure Eng where
  lists  : List EList := []
  nextId : Nat := 0
  desc   : Option (BitVec 512) := none
  got    : Nat := 0
  raw    : List Byte := []
  stolen : Option Active := none
  busy   : Bool := false
  claim  : Option (Nat × Nat) := none
  rows   : List Row := []
  pos    : Nat := 0
  issued : List Active := []
deriving DecidableEq, Repr

/-- A sector-cache line (R311): the granule, its valid sectors, and whether it holds a parity error. -/
structure GLine where
  gran  : Nat
  valid : BitVec 8
  par   : Bool := false
deriving DecidableEq, Repr

/-- The narrow path of a plinth (R311, R312): cache sets (most recently used line first), requests that hold a slot,
requests that wait; `hot`: it runs at half rate (R523); the sensor reading at the last calibration of each channel, and the
channels whose sensor has moved since by 5 °C (R513). -/
structure Plinth where
  sets  : Sparse (List GLine) := []
  slots : List (Nat × Nat) := []
  queue : List (Nat × Nat) := []
  hot   : Bool := false
  calTemp : Sparse (BitVec 16) := []
  calDue : List Nat := []
deriving DecidableEq, Repr

/-! ### Ethernet, rings (10) -/

/-- The header of a flit that is sent (R359). -/
structure FlitOut where
  vc     : Nat
  type   : Nat
  seq    : BitVec 10
  ack    : BitVec 10
  cvc    : Nat
  ccount : Nat
  crc    : BitVec 32
deriving DecidableEq, Repr

/-- How a frame leaves a data port (R394, R398): its VID when it is tagged, the priority and the DSCP of its packet. -/
structure FrameOut where
  vid  : Option (BitVec 12)
  prio : BitVec 3
  dscp : BitVec 6
deriving DecidableEq, Repr

/-- What the module puts on its outside interfaces: `frame` is a frame of a data port with what it carries. -/
inductive Sent where
  | frame (n : BitVec 2) (h : FrameOut) (x : Sent)
  | mgmtResp (dest : BitVec 32) (port magic : BitVec 16) (op code : Byte) (seq : BitVec 32) (addr value : Word)
  | rdmaAck (q : BitVec 12)
  | rdmaData (q : BitVec 12) (data : List Byte)
  | nakAccess (q : BitVec 12)
  | nakInvalid (q : BitVec 12)
  | completion (ring : BitVec 8) (q : BitVec 12) (key : BitVec 32) (addr : Word) (bytes : List Byte)
  | attention (dest : BitVec 32) (port : BitVec 16) (bytes : List Byte)
  | pause (n : BitVec 2) (prio : BitVec 3) (on : Bool)
  | cnp (n : BitVec 2) (q : BitVec 12)
  | arp (n : BitVec 3) (mac : BitVec 48)
  | neighbour (n : BitVec 2) (mac : BitVec 48)
  | echo (n : BitVec 3) (data : List Byte)
  | flit (n : BitVec 4) (hdr : FlitOut) (msg : Option LinkMsg)
  | capability (n : BitVec 4) (hdr : FlitOut) (capver level rate : Nat) (vendor part stepping node : Nat)
  | spdm (conn : Nat) (code : Byte) (payload : List Byte)
  | spdmRefused
  | accepted (conn : Nat)
deriving DecidableEq, Repr

/-- A data port: bytes in the buffer of each priority, priorities it has paused, priorities the partner has paused with the
time, frames that wait for the end of such a pause (R398). -/
structure EthPort where
  fill   : Sparse Nat := []
  xoff   : List Nat := []
  paused : Sparse Nat := []
  out    : List (FrameOut × Sent) := []
deriving DecidableEq, Repr

/-- An RDMA request that is not answered yet (R403, R560): the data still to write, whether it has passed its checks. -/
structure HostReq where
  q     : BitVec 12
  key   : BitVec 32
  write : Bool
  addr  : Nat
  len   : Nat
  data  : List Byte
  moved : Bool := false
deriving DecidableEq, Repr

/-- A completion that is formed (R427). -/
structure Compl where
  status : Byte
  opcode : Byte
  phase  : Bool
  kind   : Bool
  seq    : BitVec 32
  cookie : BitVec 32
  step   : BitVec 32
  detail : BitVec 32
  epoch  : Word
deriving DecidableEq, Repr

/-- A ring (R421, R428, R429): the fetched descriptor, whether its command has started, completions held, completions
formed since EN, completions written whose acknowledgement is out, whether its queue pair has entered the error state; `cid`: the
context its RUN is attached to (R450); `ending`: the status and detail of a completion that waits for room (R429); `filled`: rows
that its DFILL has written (R426). -/
structure Ring where
  cur    : Option (BitVec 512) := none
  started : Bool := false
  held   : List Compl := []
  formed : Nat := 0
  unacked : List Nat := []
  stopped : Bool := false
  cid    : Option (BitVec 32) := none
  ending : Option (Byte × Nat) := none
  filled : Nat := 0
deriving DecidableEq, Repr

/-! ### Integrity (12) -/

/-- A loaded test package (R498): its place in the test region and its bytes. -/
structure Pkg where
  id   : BitVec 16
  base : Nat
  size : Nat
deriving DecidableEq, Repr

structure Integ where
  seq     : BitVec 32 := 0
  faults  : Sparse Nat := []
  pendCell : List Nat := []
  pendCab : List Nat := []
  dead    : List Nat := []
  deadCab : List Nat := []
  pkgs    : List Pkg := []
deriving DecidableEq, Repr

/-! ### Clocks, power, service die (13, 14) -/

/-- What the clock block holds beside its registers: CCLK cycles passed, pending frequencies (R507), units whose PLL is not yet
locked (R516), fields whose PLL lost lock (R517), `MEAS_CTRL` as the running measurement was started with it (R511), hot
conversions in a row (R524), what is left of a withheld cycle (R509). -/
structure Clk where
  cclk   : Nat := 0
  relock : Sparse Nat := []
  locking : List Nat := []
  unlocked : List Nat := []
  meas   : Option Word := none
  fieldHot : Sparse Nat := []
  hbmHot : Sparse Nat := []
  throtRem : Sparse Nat := []
deriving DecidableEq, Repr

/-- A copy of the boot directory (R537): slot states (0 empty, 1 pending, 2 good, 3 bad), the next slot, the sequence number, the
CRC-32C over them. -/
structure BootDir where
  stA   : Nat := 0
  stB   : Nat := 0
  next  : Bool := false
  seq   : BitVec 32 := 0
  crc   : BitVec 32 := 0x8C28B28A
deriving DecidableEq, Repr

/-- The configuration block of the flash, with its CRC-32C (R537). -/
structure CfgBlock where
  mode  : BitVec 2 := 0
  ipv4  : BitVec 32 := 0
  peers : List (BitVec 33) := []
  macs  : List (BitVec 48) := []
  ips   : List (BitVec 32) := []
  ip6s  : List (BitVec 128) := []
  ctrls : List (BitVec 64) := []
  crc   : BitVec 32 := 0x42709AEA
deriving DecidableEq, Repr

/-- The module flash (R537): the two copies of the boot directory, the configuration block, the remap and retirement store with
the fault counts (R531), the certificate store, each with its CRC-32C, and the two firmware slots. -/
structure Flash where
  dir0  : BootDir := {}
  dir1  : BootDir := {}
  cfg   : CfgBlock := {}
  remap : List Word := []
  retired : List (Nat × Nat) := []
  faults : Sparse Nat := []
  storeCrc : BitVec 32 := 0
  certs : List (List Byte) := []
  certsCrc : BitVec 32 := 0
  slotA : List Byte := []
  slotB : List Byte := []
deriving DecidableEq, Repr

/-- The fuses (R539); `svn` is a thermometer code. -/
structure Fuses where
  seed    : BitVec 256 := 0
  hash0   : BitVec 384 := 0
  hash1   : BitVec 384 := 0
  revoked : BitVec 2 := 0
  svn     : BitVec 64 := 0
  serial  : Word := 0
  ipv4    : BitVec 32 := 0
  remap   : List Word := []
deriving DecidableEq, Repr

/-- An update command under way (R545). -/
structure Upd where
  stream : Bool
  data   : List Byte
  len    : Nat
deriving DecidableEq, Repr

/-- An SPDM connection (R542, R543): how far its version, capabilities and algorithms are agreed (1, 2, 3), its transcript, and
the message that its last RSA signature signs. -/
structure Conn where
  id     : Nat
  phase  : Nat := 0
  script : List Byte := []
  signed : Option (List Byte) := none
deriving DecidableEq, Repr

/-- The service die (14): flash and fuses; the running slot; the boot phase reached, whether boot has stopped, whether it fell
back; the measurements; the certificates that this boot's identity keys signed for the alias keys (R540); an update under way;
SPDM connections; `powered`: PWR_OK is high and the input above 40 V (R520, R524); attention frames sent. -/
structure Sec where
  flash  : Flash := {}
  fuses  : Fuses := {}
  slot   : Bool := false
  boot   : Nat := 0
  stuck  : Bool := false
  fell   : Bool := false
  measured : List (BitVec 384) := []
  aliasCerts : List (List Byte) := []
  upd    : Option Upd := none
  conns  : List Conn := []
  powered : Bool := true
  frames : BitVec 16 := 0
deriving DecidableEq, Repr

/-! ### Outside -/

/-- A range of addresses, from `lo` to below `hi`, whose unlisted bytes are undefined, with the number of its free values
(R300, R531). -/
structure Undef where
  lo  : Nat
  hi  : Nat
  gen : Nat
deriving DecidableEq, Repr

/-- The contents of memory: listed bytes by device address (HBM and drawer window, R549), numbers rising, and the
ranges whose unlisted bytes are undefined. -/
structure Mem where
  cells : List Host.Cell := []
  undef : List Undef := []
deriving DecidableEq, Repr

/-- The whole module. -/
structure State where
  /-- registers by address; what is not listed holds its reset value -/
  csr    : Sparse Word := []
  mem    : Mem := {}
  /-- HBM granules by address: 1 correctable, 2 uncorrectable or marked bad (R302–R305) -/
  hbmErr : Sparse Nat := []
  /-- drawer words by address: 1 correctable, 2 uncorrectable (R100) -/
  drErr  : Sparse Nat := []
  cells  : Sparse Cell := []
  fields : Sparse FieldJig := []
  dowel  : List Credit := []
  cabs   : Sparse Cab := []
  ctxs   : Sparse Ctx := []
  parts  : Sparse Part := []
  edges  : Sparse Eng := []
  gathers : Sparse Eng := []
  plinths : Sparse Plinth := []
  links  : Sparse Link := []
  eths   : Sparse EthPort := []
  rdma   : List HostReq := []
  rings  : Sparse Ring := []
  integ  : Integ := {}
  clk    : Clk := {}
  sec    : Sec := {}
  cqHead : Sparse (BitVec 32) := []
  sent   : List Sent := []
  fresh  : Nat := 0
  pending : List Instr := []
deriving DecidableEq, Repr

/-- The module right after a power-on reset, before the first boot phase (R530, R531): every register at its reset
value, nothing in flight. -/
def State.reset : State := {}

end Sys2Proof.Machine
end

