-- ==== Sys2Proof/Machine/Ops.lean ====
section
/-! DEFINITION. The named operations over registers, memory and the parts of the module: bits and bytes, collections by
number, partition geometry, clock gates, access tables, HBM and drawer accesses with their errors, and the fault
reports those accesses write. -/

namespace Sys2Proof.Machine

/-! ### Bits and bytes (R5) -/

/-- Bits [lo + len − 1 : lo] of a value. -/
def bitsOf (v lo len : Nat) : Nat := (v >>> lo) % 2 ^ len

/-- Bits [lo + len − 1 : lo] of a bit vector. -/
def fld {n : Nat} (w : BitVec n) (lo len : Nat) : Nat := bitsOf w.toNat lo len

/-- A word with bits [lo + len − 1 : lo] replaced. -/
def setFld {n : Nat} (w : BitVec n) (lo len v : Nat) : BitVec n :=
  BitVec.ofNat n (w.toNat - (fld w lo len) <<< lo + (v % 2 ^ len) <<< lo)

/-- The two's complement value of the low `n` bits of `v`. -/
def toSigned (v n : Nat) : Int := if v % 2 ^ n < 2 ^ (n - 1) then (v % 2 ^ n : Nat) else (v % 2 ^ n : Nat) - (2 ^ n : Nat)

/-- Fields (position, width, value) laid into one number. -/
def pack : List (Nat × Nat × Nat) → Nat
  | [] => 0
  | (lo, len, v) :: fs => (v % 2 ^ len) <<< lo + pack fs

/-- The `n` bytes of a number, byte 0 first. -/
def leBytes : Nat → Nat → List Byte
  | 0, _ => []
  | n + 1, v => BitVec.ofNat 8 v :: leBytes n (v >>> 8)

/-- The number that bytes spell, byte 0 least significant. -/
def ofBytes : List Byte → Nat
  | [] => 0
  | b :: bs => b.toNat + 256 * ofBytes bs

/-- Byte `i` of a list; 0 beyond its end. -/
def byteAt (bs : List Byte) (i : Nat) : Nat := (bs.getD i 0).toNat

/-- `n` bytes at an offset as a number. -/
def leAt (bs : List Byte) (off n : Nat) : Nat := ofBytes ((bs.drop off).take n)

def zeros (n : Nat) : List Byte := List.replicate n 0

/-! ### Control words (R214, R215) -/

/-- Opcodes of control words (R215). -/
def cNOP : Nat := 0x01
def cSTOP : Nat := 0x02
def cLDI : Nat := 0x03
def cADDX : Nat := 0x04
def cLDX : Nat := 0x05
def cSTX : Nat := 0x06
def cBR : Nat := 0x07
def cJIGLOAD : Nat := 0x10
def cJIGNEXT : Nat := 0x11
def cSTRM : Nat := 0x12
def cWAIT : Nat := 0x13
def cSIGNAL : Nat := 0x14
def cBAR : Nat := 0x15
def cBEGIN : Nat := 0x20
def cVOTE : Nat := 0x21
def cCOMMIT : Nat := 0x22
def cDISCARD : Nat := 0x23
def cSEMP : Nat := 0x28
def cSEMV : Nat := 0x29
def cCOEF : Nat := 0x30
def cSCANOUT : Nat := 0x31
def cSCANIN : Nat := 0x32
def cRED : Nat := 0x38

def cwOp (w : Word) : Nat := fld w 56 8
def cwXa (w : Word) : Nat := fld w 52 4
def cwXb (w : Word) : Nat := fld w 48 4

/-! ### Collections by number -/

/-- The entry at a number, or the default. -/
def sget {α : Type} (d : α) : Sparse α → Nat → α
  | [], _ => d
  | (k, v) :: m, i => if i < k then d else if i = k then v else sget d m i

/-- The collection with the entry at a number replaced. -/
def sset {α : Type} : Sparse α → Nat → α → Sparse α
  | [], i, v => [(i, v)]
  | (k, w) :: m, i, v =>
    if i < k then (i, v) :: (k, w) :: m else if i = k then (i, v) :: m else (k, w) :: sset m i v

/-- The collection without the entries that a test rejects. -/
def sfilter {α : Type} (m : Sparse α) (keep : Nat → Bool) : Sparse α := m.filter (fun e => keep e.1)

/-! ### Parts of the state by number -/

def State.reg (s : State) (a : Nat) : Word := sget (regReset a) s.csr a
def State.setReg (s : State) (a : Nat) (v : Word) : State := { s with csr := sset s.csr a v }
/-- Bits [lo + len − 1 : lo] of the register at an address. -/
def State.rf (s : State) (a lo len : Nat) : Nat := fld (s.reg a) lo len
def State.setRf (s : State) (a lo len v : Nat) : State := s.setReg a (setFld (s.reg a) lo len v)
/-- Set the bits of a mask in a cause register. -/
def State.orReg (s : State) (a : Nat) (v : Nat) : State := s.setReg a (s.reg a ||| BitVec.ofNat 64 v)
/-- Add to a counter that wraps (R131, R351, R391, R502). -/
def State.count (s : State) (a n : Nat) : State := s.setReg a (s.reg a + BitVec.ofNat 64 n)

def State.cell (s : State) (g : Nat) : Cell := sget {} s.cells g
def State.setCell (s : State) (g : Nat) (c : Cell) : State := { s with cells := sset s.cells g c }
def State.bench (s : State) (g : Nat) : Bench := (s.cell g).bench
def State.setBench (s : State) (g : Nat) (b : Bench) : State := s.setCell g { s.cell g with bench := b }
def State.dr (s : State) (g : Nat) : Drawer := (s.cell g).dr
def State.setDr (s : State) (g : Nat) (d : Drawer) : State := s.setCell g { s.cell g with dr := d }
def State.sw (s : State) (g : Nat) : Switch := (s.cell g).sw
def State.setSw (s : State) (g : Nat) (w : Switch) : State := s.setCell g { s.cell g with sw := w }
def State.cab (s : State) (c : Nat) : Cab := sget {} s.cabs c
def State.setCab (s : State) (c : Nat) (x : Cab) : State := { s with cabs := sset s.cabs c x }
def State.part (s : State) (p : Nat) : Part := sget {} s.parts p
def State.setPart (s : State) (p : Nat) (x : Part) : State := { s with parts := sset s.parts p x }
def ctxKey (p sl : Nat) : Nat := p * 8 + sl
def State.ctxAt (s : State) (p sl : Nat) : Ctx := sget {} s.ctxs (ctxKey p sl)
def State.setCtxAt (s : State) (p sl : Nat) (x : Ctx) : State := { s with ctxs := sset s.ctxs (ctxKey p sl) x }
/-- The running context of a partition, or the one that ran last (R446). -/
def State.ctx (s : State) (p : Nat) : Ctx := s.ctxAt p (s.part p).slot
def State.setCtx (s : State) (p : Nat) (x : Ctx) : State := s.setCtxAt p (s.part p).slot x
def State.edge (s : State) (e : Nat) : Eng := sget {} s.edges e
def State.setEdge (s : State) (e : Nat) (x : Eng) : State := { s with edges := sset s.edges e x }
def State.gather (s : State) (e : Nat) : Eng := sget {} s.gathers e
def State.setGather (s : State) (e : Nat) (x : Eng) : State := { s with gathers := sset s.gathers e x }
def State.plinth (s : State) (k : Nat) : Plinth := sget {} s.plinths k
def State.setPlinth (s : State) (k : Nat) (x : Plinth) : State := { s with plinths := sset s.plinths k x }
def State.link (s : State) (n : Nat) : Link := sget {} s.links n
def State.setLink (s : State) (n : Nat) (x : Link) : State := { s with links := sset s.links n x }
def State.eth (s : State) (n : Nat) : EthPort := sget {} s.eths n
def State.setEth (s : State) (n : Nat) (x : EthPort) : State := { s with eths := sset s.eths n x }
def State.ring (s : State) (r : Nat) : Ring := sget {} s.rings r
def State.setRing (s : State) (r : Nat) (x : Ring) : State := { s with rings := sset s.rings r x }
/-- Put something on an outside interface. -/
def State.emit (s : State) (x : Sent) : State := { s with sent := s.sent ++ [x] }

/-- Address of a step register of the context whose registers the step page of `p` shows (R446, R555). -/
def stepAddr (s : State) (p off : Nat) : Nat := rStep p (s.part p).slot off
def State.stepReg (s : State) (p off : Nat) : Word := s.reg (stepAddr s p off)
def State.stepRf (s : State) (p off lo len : Nat) : Nat := fld (s.stepReg p off) lo len
def State.setStepRf (s : State) (p off lo len v : Nat) : State := s.setRf (stepAddr s p off) lo len v

/-! ### Geometry (R12, R365, R442, R443) -/

/-- `PART_CFG.EN`. -/
def partOn (s : State) (p : Nat) : Bool := s.rf (rPartCfg p) 7 1 == 1
def partFirst (s : State) (p : Nat) : Nat := s.rf (rPartCfg p) 0 4
/-- F, the number of fields of a partition. -/
def partF (s : State) (p : Nat) : Nat := 2 ^ s.rf (rPartCfg p) 4 3
/-- The enabled partition `p` holds field `f`. -/
def holdsField (s : State) (p f : Nat) : Bool :=
  partOn s p && partFirst s p ≤ f && f < partFirst s p + partF s p
def partOfField (s : State) (f : Nat) : Option Nat := (List.range 16).find? (fun p => holdsField s p f)
def partOfCab (s : State) (c : Nat) : Option Nat := partOfField s (c / 256)
def partOfCell (s : State) (g : Nat) : Option Nat := partOfField s (g / 65536)
def anyPartOn (s : State) : Bool := (List.range 16).any (partOn s)
/-- The cabinet is one of partition `p`. -/
def inPart (s : State) (p c : Nat) : Bool := holdsField s p (c / 256)
def partCabs (s : State) (p : Nat) : List Nat :=
  if partOn s p then (List.range (256 * partF s p)).map (· + 256 * partFirst s p) else []
/-- Index of a cabinet within its partition. -/
def cabIndex (s : State) (p c : Nat) : Nat := c - 256 * partFirst s p

/-- The field of Nolosh port `n` (R365, R443). -/
def portField (n : Nat) : Nat :=
  if n < 4 then n else if n < 8 then 4 * (n - 4) + 3 else if n < 12 then 15 - (n - 8) else 12 - 4 * (n - 12)
/-- The edge cabinet of the gate of port `n` (R365). -/
def portCab (n : Nat) : Nat :=
  portField n * 256 + (if n < 4 then 8 else if n < 8 then 143 else if n < 12 then 248 else 128)
/-- The cell of gate channel `k` of port `n`, counted over the die (R365). -/
def gateCell (n k : Nat) : Nat :=
  portCab n * 256 + (if n < 4 then k else if n < 8 then k * 16 + 15 else if n < 12 then 240 + k else k * 16)
/-- The side of that cell on which the gate lies (R365). -/
def gateSide (n : Nat) : Side := if n < 4 then .n else if n < 8 then .e else if n < 12 then .s else .w
def partOfPort (s : State) (n : Nat) : Option Nat := partOfField s (portField n)
/-- The ports of a partition as a mask (R443). -/
def partPorts (s : State) (p : Nat) : Nat :=
  ((List.range 16).filter (fun n => holdsField s p (portField n))).foldl (fun m n => m + 2 ^ n) 0

/-- Stack of an HBM address (R298). -/
def stackOf (a : Nat) : Nat := (bitsOf a 8 3) ^^^ (bitsOf a 19 3)
/-- Channel of an HBM address (R298). -/
def channelOf (a : Nat) : Nat := (bitsOf a 11 5) ^^^ (bitsOf a 22 5)
/-- Pseudo-channel of an HBM address (R298). -/
def pseudoOf (a : Nat) : Nat := bitsOf a 16 1
/-- Bank of an HBM address (R298). -/
def bankOf (a : Nat) : Nat := (bitsOf a 17 6) ^^^ (bitsOf a 23 6)

/-! ### Step state (R33) -/

def stepState (s : State) (p : Nat) : Nat := s.stepRf p oStepStatus 0 3
def setStepState (p v : Nat) (s : State) : State := s.setStepRf p oStepStatus 0 3 v
/-- A step is in progress: RUNNING, VOTING, COMMITTING or DISCARDING (R33). -/
def inStep (s : State) (p : Nat) : Bool := 1 ≤ stepState s p && stepState s p ≤ 4
def stepNumber (s : State) (p : Nat) : Nat := s.stepRf p oStepNumber 0 32
/-- Active leaf (R35). -/
def activeLeaf (s : State) (p : Nat) : Nat := s.stepRf p oStepStatus 3 1
/-- Base of leaf `k` of a partition (R35). -/
def leafBase (s : State) (p k : Nat) : Nat := (s.stepReg p oLeafBase).toNat + k * (s.stepReg p oLeafSize).toNat

/-- Bits of `STEP_CAUSE` (R76). -/
def scNan : Nat := 0
def scPeer : Nat := 1
def scResidue : Nat := 2
def scCheck : Nat := 3
def scEcc : Nat := 4
def scOchre : Nat := 5
def scSpill : Nat := 6
def scLink : Nat := 7
def scForced : Nat := 8
def scHalt : Nat := 9
def scStack : Nat := 10

/-- A field test runs in the partition (R499, R500). -/
def testing (s : State) (p : Nat) : Bool := (s.part p).test == 2

/-- Set a bit of `STEP_CAUSE` of a partition inside a step, and of the causes of its attempt (R52, R61, R76); a field test
changes none (R500). -/
def stepCause (p bit : Nat) (s : State) : State :=
  if inStep s p && !testing s p then
    let c := s.ctx p
    (s.setCtx p { c with causes := c.causes ||| BitVec.ofNat 11 (2 ^ bit) }).orReg (stepAddr s p oStepCause) (2 ^ bit)
  else s

/-- `stepCause` for the partition of an access, when it has one. -/
def stepCauseOf (who : Option Nat) (bit : Nat) (s : State) : State :=
  match who with
  | some p => stepCause p bit s
  | none => s

/-! ### Clock gates (R414, R514, R516) -/

/-- The unit is the plinth of a stack that failed training, which stays gated (R535). -/
def stackFailed (s : State) (u : Nat) : Bool := 16 ≤ u && u < 24 && s.rf rBootStatus (u - 13) 1 == 1

/-- A unit of `CLK_ENABLE0` that does not accept accesses: its bit is 0, its PLL is not yet locked, its stack failed training, or
the module has no power (R514, R516, R520, R535). -/
def unitGated (s : State) (u : Nat) : Bool :=
  s.rf rClkEnable0 u 1 == 0 || s.clk.locking.contains u || stackFailed s u || !s.sec.powered

/-- The enable bit that gates the register page of an address (R514); none for a page that is never gated. -/
def pageUnit (a : Nat) : Option Nat :=
  if a < bPWR then none
  else if a < bSEC then some 54
  else if a < bHOST then some 53
  else if a < bETH then none
  else if a < bLINK then
    let k := (a - bETH) / 0x100000
    some (if k < 4 then 48 + k else 52)
  else if a < bMEM then some (32 + (a - bLINK) / 0x100000)
  else if a < bSCHED then
    let o := a - bMEM
    some (if o < 0x800000 then 16 + o / 0x100000 else if o < 0xC00000 then 24 + (o - 0x800000) / 0x80000 else 55)
  else if a < bINTEG then some 56
  else if a < bINTEG + 0x1000000 then some 57
  else if bFABRIC ≤ a && a < bFABBLK then some ((a - bFABRIC) / 0x1000000)
  else none

def pageGated (s : State) (a : Nat) : Bool :=
  match pageUnit a with
  | some u => unitGated s u
  | none => false

/-- Granules that a range of bytes touches. -/
def granules (a n : Nat) : List Nat :=
  if n = 0 then [] else (List.range ((a + n - 1) / 256 - a / 256 + 1)).map (fun i => (a / 256 + i) * 256)

/-- Some plinth that a range of HBM touches is gated. -/
def hbmGated (s : State) (a n : Nat) : Bool :=
  if n ≥ 4096 then (List.range 8).any (fun k => unitGated s (16 + k))
  else (granules a n).any (fun g => unitGated s (16 + stackOf g))

/-! ### Access tables (R407–R411) -/

/-- The master of a partition; a field test runs under the firmware master (R499). -/
def mPart (s : State) (p : Nat) : Nat := if testing s p then 0x61 else 0x40 + p
/-- A halted partition stands still, but for a field test (R466, R499). -/
def stands (s : State) (p : Nat) : Bool := (s.part p).halted && !testing s p
/-- The context of a slot, or a field test in its place, holds the fabric of the partition and is not halted (R446, R466). -/
def holdsFabric (s : State) (p sl : Nat) : Bool :=
  (s.part p).slot == sl && (testing s p || ((s.part p).running && !(s.part p).halted))
def mPeer (n : Nat) : Nat := 0x50 + n
def mMgmt : Nat := 0x60
def mFirmware : Nat := 0x61

/-- The kinds of HBM access of R409, by their bit in `ACC_HBM`. -/
def kRead : Nat := 54
def kWrite : Nat := 55
def kJig : Nat := 56

/-- Windows (first and last page) of a master that grant a kind. -/
def windows (s : State) (m kind : Nat) : List (Nat × Nat) :=
  (List.range 16).filterMap (fun w =>
    let v := s.reg (rAccHbm m w)
    if fld v kind 1 == 1 && fld v 0 27 ≤ fld v 27 27 then some (fld v 0 27, fld v 27 27) else none)

/-- The windows cover pages p to q. -/
def covered (ws : List (Nat × Nat)) (p q : Nat) : Nat → Bool
  | 0 => false
  | fuel + 1 =>
    let top := ws.foldl (fun t w => if w.1 ≤ p && p ≤ w.2 && t < w.2 + 1 then w.2 + 1 else t) 0
    if top = 0 then false else if q < top then true else covered ws top q fuel

/-- A range of HBM is granted to a master for a kind (R409). -/
def accHbm (s : State) (m kind a n : Nat) : Bool :=
  n = 0 || covered (windows s m kind) (a / 4096) ((a + n - 1) / 4096) 17

/-- Class of the region of an HBM address (R299). -/
def classOf (s : State) (a : Nat) : Nat :=
  let n := a / 2 ^ 30
  s.rf (rClassMap (n / 32)) (2 * (n % 32)) 2

/-- Every region of a range of HBM has a class that a test accepts. -/
def classAll (s : State) (a n : Nat) (ok : Nat → Bool) : Bool :=
  (List.range ((a + n - 1) / 2 ^ 30 - a / 2 ^ 30 + 1)).all (fun i => ok (classOf s (a + i * 2 ^ 30)))

/-- What stands against an access to HBM: outside HBM (R549), a gated plinth (R414), a region of class none (R301), the
access table (R409). -/
def hbmDenied (s : State) (m kind a n : Nat) : Option Code :=
  if hbmEnd < a + n then some eRange
  else if n = 0 then none
  else if hbmGated s a n then some eGated
  else if !classAll s a n (· != 0) then some eAccess
  else if !accHbm s m kind a n then some eAccess
  else none

/-- The access table grants a drawer-window access to a cabinet (R410). -/
def accDrawer (s : State) (m c : Nat) (write : Bool) : Bool :=
  let v := s.reg (rAccCsr m)
  fld v (if write then 17 else 16) 1 == 1 &&
    match partOfCab s c with
    | some p => fld v p 1 == 1
    | none => false

/-- The partition a register page belongs to (R410). -/
def pagePart (s : State) (a : Nat) : Option Nat :=
  if bSCHED + 0x100000 ≤ a && a < bSCHED + 0x110000 then some ((a - bSCHED - 0x100000) / 0x1000)
  else if bSCHED + 0x200000 ≤ a && a < bSCHED + 0x210000 then some ((a - bSCHED - 0x200000) / 0x1000)
  else if bSCHED + 0x300000 ≤ a && a < bSCHED + 0x380000 then some ((a - bSCHED - 0x300000) / 0x8000)
  else if bINTEG + 0x1000 ≤ a && a < bINTEG + 0x2000 then some ((a - bINTEG - 0x1000) / 0x100)
  else if bMEM + 0xC10000 ≤ a && a < bMEM + 0xC20000 then some ((a - bMEM - 0xC10000) / 0x1000)
  else if bFABRIC ≤ a && a < bFABBLK then partOfCab s ((a - bFABRIC) / 0x10000)
  else none

/-- The doorbell page that holds an address. -/
def doorbellRing (a : Nat) : Option Nat :=
  if rDoorbell 0 ≤ a && a < rDoorbell 256 then some ((a - rDoorbell 0) / 0x1000) else none

/-- The access table grants a register access (R410; doorbell pages are exempt). -/
def accCsr (s : State) (m a : Nat) (write : Bool) : Bool :=
  (doorbellRing a).isSome ||
  match blockOf a with
  | none => false
  | some k =>
    let v := s.reg (rAccCsr m)
    fld v (18 + 2 * k + (if write then 1 else 0)) 1 == 1 &&
      match pagePart s a with
      | some p => fld v p 1 == 1
      | none => true

/-! ### Rejections (R413, R414, R435) -/

def setHostCause (bit : Nat) (s : State) : State := s.orReg rHostCause (2 ^ bit)
def hcRegErr : Nat := 0
def hcGated : Nat := 1
def hcCqErr : Nat := 2
def hcDoorbell : Nat := 3
def hcRdmaDeny : Nat := 4

/-- A refused access to a gated unit is noted (R414). -/
def noteGated (c : Option Code) (s : State) : State := if c = some eGated then setHostCause hcGated s else s

/-- Record a rejected register or RDMA access in `HOST_ERR` (R435). -/
def hostErr (code : Code) (m : Nat) (write : Bool) (a : Nat) (s : State) : State :=
  let v := s.reg rHostErr
  let n := fld v 32 32
  let v' := setFld v 32 32 (if n = 0xFFFFFFFF then n else n + 1)
  if fld v 0 8 = 0 then
    (s.setReg rHostErr (setFld (setFld (setFld v' 0 8 code.toNat) 8 7 m) 15 1 (if write then 1 else 0))).setReg
      rHostErrAddr (BitVec.ofNat 64 a)
  else s.setReg rHostErr v'

/-! ### Memory (R100, R297–R305) -/

/-- The byte listed at an address. -/
def cellsGet : List Host.Cell → Nat → Option Byte
  | [], _ => none
  | (k, b) :: cs, a => if a < k then none else if a = k then some b else cellsGet cs a

/-- The list with a byte put at an address; `keep` says whether an entry equal to 0 stays listed. -/
def cellsPut (keep : Bool) : List Host.Cell → Nat → Byte → List Host.Cell
  | [], a, b => if b = 0 && !keep then [] else [(a, b)]
  | (k, c) :: cs, a, b =>
    if a < k then (if b = 0 && !keep then (k, c) :: cs else (a, b) :: (k, c) :: cs)
    else if a = k then (if b = 0 && !keep then cs else (a, b) :: cs)
    else (k, c) :: cellsPut keep cs a b

/-- The number of the free values of an address, when its contents are undefined (R300, R531). -/
def undefAt (u : List Undef) (a : Nat) : Option Nat :=
  match u with
  | [] => none
  | x :: u' => if x.lo ≤ a ∧ a < x.hi then some x.gen else undefAt u' a

/-- Ranges without the addresses from `lo` to below `hi`. -/
def undefCut (lo hi : Nat) : List Undef → List Undef
  | [] => []
  | x :: u =>
    (if x.lo < min x.hi lo then [{ x with hi := min x.hi lo }] else [])
      ++ (if max x.lo hi < x.hi then [{ x with lo := max x.lo hi }] else []) ++ undefCut lo hi u

/-- One byte of memory: as listed; a free value where the contents are undefined; 0 elsewhere (log 2, log 6). -/
def Mem.read (m : Mem) (a : Nat) : Byte :=
  match cellsGet m.cells a with
  | some b => b
  | none =>
    match undefAt m.undef a with
    | some n => Config.freeByte n a
    | none => 0

def Mem.write (m : Mem) (a : Nat) (b : Byte) : Mem :=
  { m with cells := cellsPut (undefAt m.undef a).isSome m.cells a b }

/-- Addresses strictly rise from `lo`, and no entry equals what its address reads as when it is not listed. -/
def cellsWf (u : List Undef) : Nat → List Host.Cell → Bool
  | _, [] => true
  | lo, (k, b) :: cs => lo ≤ k && (b != 0 || (undefAt u k).isSome) && cellsWf u (k + 1) cs

/-- The canonical form of memory. -/
def Mem.wf (m : Mem) : Bool := cellsWf m.undef 0 m.cells

def Mem.writeBytes (m : Mem) : Nat → List Byte → Mem
  | _, [] => m
  | a, b :: bs => (m.write a b).writeBytes (a + 1) bs

def Mem.readBytes (m : Mem) (a n : Nat) : List Byte := (List.range n).map (fun i => m.read (a + i))

/-- The contents of HBM regions `n` and above become undefined, under a new number of free values (R300). -/
def Mem.forgetFrom (m : Mem) (n fresh : Nat) : Mem :=
  { cells := m.cells.filter (fun c => c.1 < n * 2 ^ 30 || hbmEnd ≤ c.1),
    undef := undefCut (n * 2 ^ 30) hbmEnd m.undef ++ [{ lo := n * 2 ^ 30, hi := hbmEnd, gen := fresh }] }

/-- Every byte from `lo` to below `hi` becomes 0. -/
def Mem.zeroRange (m : Mem) (lo hi : Nat) : Mem :=
  { cells := m.cells.filter (fun c => c.1 < lo || hi ≤ c.1), undef := undefCut lo hi m.undef }

def State.putBytes (s : State) (a : Nat) (bs : List Byte) : State := { s with mem := s.mem.writeBytes a bs }
def State.getBytes (s : State) (a n : Nat) : List Byte := s.mem.readBytes a n
def State.getWord (s : State) (a : Nat) : Nat := ofBytes (s.getBytes a 8)

/-! ### Granules with errors (R302–R305) -/

/-- Record an error in `PL_CAUSE`, `ERR_ADDR` and its counter. -/
def plError (k kind bit counter : Nat) (who : Option Nat) (a : Nat) (s : State) : State :=
  let v := pack [(0, 39, a), (39, 2, kind), (41, 4, who.getD 0), (45, 1, who.isSome.toNat)]
  ((s.orReg (rPlCause k) (2 ^ bit)).setReg (rErrAddr k) (BitVec.ofNat 64 v)).count (rPlCount k counter) 1

/-- One granule is read for a partition: what its errors bring about but for reports (R302–R304). Answers the kind of the
report that is due when the reader receives zeros. -/
def granuleFound (who : Option Nat) (g : Nat) (s : State) : Option Nat × State :=
  let e := sget 0 s.hbmErr g
  let k := stackOf g
  if e = 0 then (none, s)
  else if classOf s g = 2 then (some 0x21, plError k 3 2 9 who g s)
  else if e = 1 then (none, plError k 1 0 7 who g { s with hbmErr := sset s.hbmErr g 0 })
  else (some 0x20, plError k 2 1 8 who g s)

/-- Bytes of a range that lie in a granule. -/
def overlap (a n g : Nat) : Nat := min (a + n) (g + 256) - max a g

/-- Count data bytes moved by each stack (R351), granule by granule. -/
def countGrans (counter a n : Nat) (s : State) : State :=
  (granules a n).foldl (fun s g => s.count (rPlCount (stackOf g) counter) (overlap a n g)) s

/-- Count data bytes moved by each stack (R351). In every aligned run of 2 KiB each stack holds one granule (R298). -/
def countBytes (counter a n : Nat) (s : State) : State :=
  let lo := (a + 2047) / 2048 * 2048
  let hi := (a + n) / 2048 * 2048
  if lo < hi then
    let s := (List.range 8).foldl (fun s k => s.count (rPlCount k counter) ((hi - lo) / 8)) s
    countGrans counter hi (a + n - hi) (countGrans counter a (lo - a) s)
  else countGrans counter a n s

/-- Granules of a range that it covers in part: the first and the last may be such. -/
def partGranules (a n : Nat) : List Nat :=
  if n = 0 then []
  else
    let f := a / 256 * 256
    let l := (a + n - 1) / 256 * 256
    ([f] ++ (if l = f then [] else [l])).filter (fun g => overlap a n g ≠ 256)

/-! ### Fault reports (R487–R492) -/

/-- The unit a report names (R490, R491). -/
inductive Unit' where
  | cell (g : Nat)
  | cab (c : Nat)
  | plinth (k : Nat)
  | engine (k e : Nat)
  | port (n : Nat)
  | none
deriving DecidableEq, Repr

/-- What a report holds beyond what the module adds itself. -/
structure Rep where
  kind    : Nat
  unit    : Unit' := .none
  part    : Option Nat := none
  second  : Bool := false
  capLost : Bool := false
  test    : Bool := false
  cont    : Nat := 0
  stage   : Nat := 0
  clock   : Nat := 1
  opcode  : Nat := 0
  index   : Nat := 0
  tag     : Nat := 0
  detail  : Nat := 0
  detail2 : Nat := 0
deriving DecidableEq, Repr

def repField : Unit' → Nat
  | .cell g => g / 65536
  | .cab c => c / 256
  | .plinth k => k
  | .engine k _ => k
  | .port n => n
  | .none => 0

def repCab : Unit' → Nat
  | .cell g => g / 256
  | .cab c => c
  | _ => 0

def repCell : Unit' → Nat
  | .cell g => g % 256
  | .engine _ e => e
  | _ => 0

/-- Nearest sensor of a cabinet (R491). -/
def cabSensor (c : Nat) : Nat :=
  4 * (c / 256) + 2 * (if 8 ≤ c % 256 / 16 then 1 else 0) + (if 8 ≤ c % 16 then 1 else 0)

def repSensor : Unit' → Nat
  | .cell g => cabSensor (g / 256)
  | .cab c => cabSensor c
  | .plinth k => 64 + k
  | .engine k _ => 64 + k
  | .port n => cabSensor (portCab n)
  | .none => 0

def repMonitor : Unit' → Nat
  | .cell g => g / 65536
  | .cab c => c / 256
  | .plinth k => 16 + k
  | .engine k _ => 16 + k
  | .port n => portField n
  | .none => 0

/-- The 512 bits of a report (R490). CYCLES, a free-running count, is a free value (log 6). -/
def repBits (r : Rep) (s : State) : Nat :=
  let p := r.part.getD 0
  let has := r.part.isSome
  pack [(0, 16, r.kind), (16, 4, p), (20, 1, has.toNat), (21, 1, (has && inStep s p).toNat),
    (22, 1, r.second.toNat), (23, 1, r.capLost.toNat), (24, 1, (r.test || (r.part.any (testing s))).toNat), (25, 7, r.cont),
    (32, 32, s.integ.seq.toNat), (64, 4, repField r.unit), (68, 12, repCab r.unit), (80, 8, repCell r.unit),
    (88, 3, r.stage), (91, 4, r.clock), (96, 8, r.opcode), (104, 8, r.index), (112, 16, r.tag),
    (128, 32, if has then s.stepRf p oJigStatus 0 32 else 0), (160, 32, if has then stepNumber s p else 0),
    (192, 64, (Config.freeWord s.fresh).toNat), (256, 64, (s.reg rEpochTag).toNat),
    (320, 16, s.rf (rTemp (repSensor r.unit)) 0 16), (336, 16, s.rf (rVmon (repMonitor r.unit)) 0 16),
    (352, 7, repSensor r.unit), (360, 5, repMonitor r.unit), (384, 64, r.detail), (448, 64, r.detail2)]

/-- Bits of `INTEG_CAUSE` (R501). -/
def icLogFull : Nat := 4

/-- Entries the log has room for (R487, R488). -/
def logRoom (s : State) : Nat :=
  let size := (s.reg rLogSize).toNat / 64
  let used := ((s.reg rLogHead) - (s.reg rLogTail)).toNat % 2 ^ 32
  size - used

/-- A partial write of a granule is counted in `RMW`, the granule that is read for it in `RD_BYTES` (R305, R351). -/
def countMerge (g : Nat) (s : State) : State :=
  (s.count (rPlCount (stackOf g) 6) 1).count (rPlCount (stackOf g) 0) 256

/-- A granule is merged for a log entry (R305): the errors that its read meets are counted and recorded. -/
def logMerge (s : State) (g : Nat) : State :=
  let r := granuleFound none g (countMerge g s)
  if r.1.isSome then { r.2 with hbmErr := sset r.2.hbmErr g 2 } else r.2

/-- Bytes of an integrity-log entry go to HBM (R305, R487). -/
def logWrite (a : Nat) (bs : List Byte) (s : State) : State :=
  countGrans 1 a bs.length (((partGranules a bs.length).foldl logMerge s).putBytes a bs)

/-- The report that an error in a granule calls for (R303, R304). -/
def granuleRep (who : Option Nat) (kind g : Nat) : Rep :=
  { kind := kind, unit := .plinth (stackOf g), part := who, clock := 3, detail := g }

/-- The reports that the merges of a log write call for (R303, R305). -/
def mergeReps (s : State) (a n : Nat) : List Rep :=
  (partGranules a n).filterMap (fun g => (granuleFound none g s).1.map (fun k => granuleRep none k g))

/-- Address of the entry at the head of the integrity log (R487). -/
def logAddr (s : State) : Nat := (s.reg rLogBase).toNat + 64 * (s.rf rLogHead 0 32 % ((s.reg rLogSize).toNat / 64))

/-- Put an entry of 64 bytes at the head of the integrity log, with the rights of the firmware master (R414, R487). -/
def logEntry (bs : List Byte) (s : State) : State :=
  let i := s.rf rLogHead 0 32
  let a := logAddr s
  let c := hbmDenied s mFirmware kWrite a 64
  let s := if c = none then logWrite a bs s else noteGated c s
  s.setRf rLogHead 0 32 (i + 1)

/-- The last report in `LAST_REPORT` 0–7 (R488). -/
def lastReport (v : Nat) : Nat → State → State
  | 0, s => s
  | n + 1, s => lastReport v n (s.setReg (rLastReport n) (BitVec.ofNat 64 (v >>> (64 * n))))

/-- Set the FAULT bit of a cell (R118). -/
def setFault (g : Nat) (s : State) : State := s.orReg (rCellFault (g / 256) (g % 256 / 64)) (2 ^ (g % 64))

/-- The FAULT bit of a cell that a report names (R118). -/
def nameFault (u : Unit') (s : State) : State :=
  match u with
  | .cell g => setFault g s
  | _ => s

/-- The entries of a report are written one after another; the reports that their merges call for, in order (R305, R487). -/
def logEntries : List (List Byte) → State → List Rep × State
  | [], s => ([], s)
  | bs :: rest, s =>
    let mine := if hbmDenied s mFirmware kWrite (logAddr s) 64 = none then mergeReps s (logAddr s) 64 else []
    let t := logEntries rest (logEntry bs s)
    (mine ++ t.1, t.2)

/-- One fault report with its continuation entries is written, or dropped (R487–R490); answers the reports that its own log
writes call for. -/
def reportOne (r : Rep) (conts : List (List Byte)) (s : State) : List Rep × State :=
  let full := 1 + conts.length ≤ logRoom s
  let alone := 1 ≤ logRoom s
  let r' := if full then { r with cont := conts.length } else if conts.isEmpty then r
    else { r with cont := 0, capLost := true }
  let v := repBits r' s
  let s := nameFault r.unit s
  let s := lastReport v 8 { s with integ := { s.integ with seq := s.integ.seq + 1 }, fresh := s.fresh + 1 }
  if full then logEntries (leBytes 64 v :: conts) s
  else if alone then logEntries [leBytes 64 v] s
  else ([], (s.count rLogDrop 1).orReg rIntegCause (2 ^ icLogFull))

/-- Reports are written in turn, each followed by those that its log writes call for (R303, R305). Each uses an entry of the
log, so the room of the log bounds their number. -/
def reportAll : Nat → List Rep → State → State
  | 0, _, s => s
  | _, [], s => s
  | fuel + 1, r :: rs, s =>
    let t := reportOne r [] s
    reportAll fuel (rs ++ t.1) t.2

/-- The clock of the integrity logic runs (R514). -/
def integOn (s : State) : Bool := !unitGated s 57

/-- Write a fault report with its continuation entries, or drop it (R487–R490). Without its clock the integrity logic writes
none (R514). -/
def report (r : Rep) (conts : List (List Byte)) (s : State) : State :=
  if !integOn s then s
  else
    let t := reportOne r conts s
    reportAll (t.1.length + logRoom s) t.1 t.2

/-- Set a bit of `INTEG_CAUSE` (R501). -/
def setIntegCause (bit : Nat) (s : State) : State := if integOn s then s.orReg rIntegCause (2 ^ bit) else s

/-- Add 1 to counter `k` of a partition in the INTEG pages (R502), which stand without their clock (R514). -/
def integCount (p k : Nat) (s : State) : State := if integOn s then s.count (rIntegCount p k) 1 else s

/-! ### HBM accesses with their errors (R302–R305) -/

/-- One granule is read for a partition: what its errors bring about (R302–R304). Answers whether the reader receives
zeros, and whether the error is an ochre one. -/
def granuleRead (who : Option Nat) (g : Nat) (s : State) : Bool × Bool × State :=
  let r := granuleFound who g s
  match r.1 with
  | none => (false, false, r.2)
  | some kind =>
    let t := report (granuleRep who kind g) [] r.2
    (true, kind == 0x21, if kind = 0x20 then stepCauseOf who scEcc t else t)

/-- Granules read in turn: those whose reader receives zeros, and whether an ochre error was met. -/
def granulesRead (who : Option Nat) : List Nat → State → List Nat × Bool × State
  | [], s => ([], false, s)
  | g :: gs, s =>
    let r := granuleRead who g s
    let t := granulesRead who gs r.2.2
    (if r.1 then g :: t.1 else t.1, r.2.1 || t.2.1, t.2.2)

/-- Granules of a range that hold an error. -/
def badGranules (s : State) (a n : Nat) : List Nat :=
  (s.hbmErr.filter (fun e => e.2 != 0 && a < e.1 + 256 && e.1 < a + n)).map (·.1)

/-- Bytes of HBM as a reader sees them: those of a granule that reads as zeros are zero (R303, R304). Nothing is counted: the
model looks again at bytes that a unit has read already. -/
def State.seen (s : State) (a n : Nat) : List Byte :=
  let bad := (s.hbmErr.filter (fun e => a < e.1 + 256 && e.1 < a + n && (e.2 == 2 || (e.2 == 1 && classOf s e.1 == 2)))).map (·.1)
  let bs := s.getBytes a n
  if bad.isEmpty then bs else (List.range n).map (fun i => if bad.contains ((a + i) / 256 * 256) then 0 else bs.getD i 0)

/-- Read `n` bytes of HBM for a partition: the bytes, whether a detected ochre error was met, the state (R302–R304). -/
def hbmRead (who : Option Nat) (a n : Nat) (s : State) : List Byte × Bool × State :=
  let r := granulesRead who (badGranules s a n) s
  let bs := s.getBytes a n
  let bs := if r.1.isEmpty then bs
    else (List.range n).map (fun i => if r.1.contains ((a + i) / 256 * 256) then 0 else bs.getD i 0)
  (bs, r.2.1, countBytes 0 a n r.2.2)

/-- An ochre error that is not recovered (R309). -/
def ochreLost (who : Option Nat) (s : State) : State := stepCauseOf who scOchre s

/-- `hbmRead` by a path for which R307 never holds: a detected ochre error is not recovered (R309). -/
def hbmReadPlain (who : Option Nat) (a n : Nat) (s : State) : List Byte × State :=
  let r := hbmRead who a n s
  (r.1, if r.2.1 then ochreLost who r.2.2 else r.2.2)

/-- A granule is written in part: it is read, merged and written (R305). -/
def granuleMerge (who : Option Nat) (s : State) (g : Nat) : State :=
  let r := granuleRead who g (countMerge g s)
  let t := if r.2.1 then ochreLost who r.2.2 else r.2.2
  if r.1 then { t with hbmErr := sset t.hbmErr g 2 } else t

/-- What a write of a range does to the errors of its granules (R305): a whole granule is written anew. -/
def writeErrors (who : Option Nat) (a n : Nat) (s : State) : State :=
  let s := (partGranules a n).foldl (granuleMerge who) s
  { s with hbmErr := s.hbmErr.filter (fun e => e.1 < a || a + n < e.1 + 256) }

/-- Write bytes to HBM for a partition (R305). -/
def hbmWrite (who : Option Nat) (a : Nat) (bs : List Byte) (s : State) : State :=
  countBytes 1 a bs.length ((writeErrors who a bs.length s).putBytes a bs)

/-- Write listed bytes of one granule, by offset (R305, R380): a granule that is not whole is merged once. -/
def granuleWrite (who : Option Nat) (a : Nat) (bs : Sparse Byte) (s : State) : State :=
  let s := writeErrors who a (if bs.length < 256 then 1 else 256) s
  countBytes 1 a bs.length (bs.foldl (fun s b => s.putBytes (a + b.1) [b.2]) s)

/-- An attempt begins with no ring of the context aborted (R386). -/
def linksFresh (p : Nat) (s : State) : State :=
  { s with links := s.links.map (fun l =>
      if fld (s.ctx p).ports l.1 1 = 1 then
        (l.1, { l.2 with aborted := false, abortOwn := false, entries := l.2.entries.filter (fun e => e.state != 4) })
      else l) }

/-- Write zeros to a range of HBM for a partition. -/
def hbmZero (who : Option Nat) (a n : Nat) (s : State) : State :=
  let s := writeErrors who a n s
  countBytes 1 a n { s with mem := s.mem.zeroRange a (a + n) }

/-! ### Integrity faults and retirement (R483–R485, R494, R495) -/

/-- Bits of `INTEG_CAUSE` (R501). -/
def icResidue : Nat := 0
def icParity : Nat := 1
def icCheck : Nat := 2
def icTestFail : Nat := 3
def icRetired : Nat := 5
def icShortage : Nat := 6
def icHalt : Nat := 7

/-- Byte `i` of a map of retired units held in two registers (R124, R130). -/
def mapByte (s : State) (a0 i : Nat) : Nat := s.rf (a0 + i / 8 * 8) (i % 8 * 8) 5

/-- Physical cell of a logical cell within its cabinet (R81): row × 16 + column. -/
def physCell (s : State) (g : Nat) : Nat :=
  let row := g % 256 / 16
  let col := g % 16
  let f := mapByte s (rCellMap (g / 256) 0) col
  (if f ≤ row then row + 1 else row) * 16 + col

/-- Physical cabinet of a logical cabinet within its field (R82): row × 17 + column. -/
def physCab (s : State) (c : Nat) : Nat :=
  let row := c % 256 / 16
  let col := c % 16
  let f := mapByte s (rCabMap (c / 256) 0) row
  row * 17 + (if f ≤ col then col + 1 else col)

/-- A physical cell counted over the die, for the fault counts. -/
def physKey (s : State) (g : Nat) : Nat := (g / 65536 * 272 + physCab s (g / 256)) * 272 + physCell s g

/-- The unit is dead, or its retirement pending (R494). -/
def cellGone (s : State) (g : Nat) : Bool :=
  s.integ.pendCell.contains g || s.integ.dead.contains g || s.integ.pendCab.contains (g / 256)
    || s.integ.deadCab.contains (g / 256)

/-- A spare cabinet can serve cabinet `c` (R82, R495). -/
def cabSpare (s : State) (c : Nat) : Bool :=
  mapByte s (rCabMap (c / 256) 0) (c % 256 / 16) = 0x1F && !s.integ.pendCab.any (fun d => d / 16 == c / 16)

/-- A spare cell can serve cell `g` (R81, R495). -/
def cellSpare (s : State) (g : Nat) : Bool :=
  mapByte s (rCellMap (g / 256) 0) (g % 16) = 0x1F &&
    !s.integ.pendCell.any (fun h => h / 256 == g / 256 && h % 16 == g % 16)

/-- A unit that no spare can serve becomes dead (R495). -/
def shortage (scope : Nat) (u : Unit') (phys : Nat) (s : State) : State :=
  let s := report { kind := 0x41, unit := u, part := partOfField s (repField u), detail := pack [(0, 1, scope), (4, 9, phys)] } [] s
  setIntegCause icShortage (s.setRf rShort 0 16 ((s.reg rShort ||| BitVec.ofNat 64 (2 ^ repField u)).toNat))

/-- Request the retirement of a cabinet (R494, R495); integrity logic without its clock takes no request (R514). -/
def retireCab (c : Nat) (s : State) : State :=
  if !integOn s || s.integ.pendCab.contains c || s.integ.deadCab.contains c then s
  else if cabSpare s c then { s with integ := { s.integ with pendCab := s.integ.pendCab ++ [c] } }
  else
    let t := shortage 1 (.cab c) (physCab s c) s
    { t with integ := { t.integ with deadCab := t.integ.deadCab ++ [c] } }

/-- Request the retirement of a cell (R494, R495). -/
def retireCell (g : Nat) (s : State) : State :=
  if !integOn s || cellGone s g then s
  else if cellSpare s g then { s with integ := { s.integ with pendCell := s.integ.pendCell ++ [g] } }
  else if cabSpare s (g / 256) then retireCab (g / 256) s
  else
    let t := shortage 0 (.cell g) (physCell s g) s
    { t with integ := { t.integ with dead := t.integ.dead ++ [g] } }

/-- An integrity fault is counted for the physical cell of `g`; at `RETIRE_AFTER` the cell is requested (R494). -/
def countFault (g : Nat) (s : State) : State :=
  if !integOn s then s else
  let k := physKey s g
  let n := sget 0 s.integ.faults k + 1
  let s := { s with integ := { s.integ with faults := sset s.integ.faults k n } }
  let after := s.rf rRetireCtrl 0 4
  if after ≠ 0 && after ≤ n then retireCell g s else s

/-- A report of one of the kinds 0x0001–0x0004 is an integrity fault of its partition: a closed window opens (R483,
R485), and with the window open the report is a second fault (R484), which the answer says. Faults of a test do
neither (R500); nothing happens without the clock of the integrity logic (R514). -/
def integrityFault (r : Rep) (conts : List (List Byte)) (s : State) : Bool × State :=
  if !integOn s then (false, s) else
  match r.part with
  | none => (false, report r conts s)
  | some p =>
    if testing s p then (false, report { r with test := true } conts s)
    else
      let seq := s.integ.seq.toNat
      let x := s.part p
      if x.window then
        let s := report { r with second := true } conts s
        (true, setIntegCause icHalt (s.setReg (rHaltSeq p) (BitVec.ofNat 64 seq)))
      else
        let s := report r conts s
        (false, (s.setPart p { s.part p with window := true }).setReg (rWinSeq p) (BitVec.ofNat 64 seq))

end Sys2Proof.Machine
end

