-- ==== Sys2Proof/Machine/Flags.lean ====
section
/-! DEFINITION. The flags and what they set off: the attention summary, the completions of the rings, the vote of a
step, the halt of a partition, the faults of drawers. -/

namespace Sys2Proof.Machine

/-! ### Attention (R430–R432) -/

/-- Some listed register of a block range at an offset of its page is not zero. -/
def csrAny (s : State) (lo hi page off : Nat) : Bool :=
  s.csr.any (fun e => lo ≤ e.1 && e.1 < hi && (e.1 - lo) % page == off && e.2 != 0)

def memEdgeLo : Nat := bMEM + 0x800000
def memCommonLo : Nat := bMEM + 0xC00000

/-- The causes behind each bit of `ATTN_SUMMARY`, bit 0 first (R430). -/
def attnBits (s : State) : List Bool :=
  [s.reg rHostCause != 0,
   csrAny s bFABRIC bFABBLK 0x10000 8,
   csrAny s bMEM memEdgeLo 0x100000 0 || csrAny s memEdgeLo memCommonLo 0x1000 8,
   csrAny s bLINK bMEM 0x100000 0x28,
   s.reg rEthCause != 0,
   s.reg rIntegCause != 0,
   s.reg rClkCause != 0,
   s.reg rPwrCause != 0,
   s.reg rSecCause != 0,
   (List.range 16).any (fun p => s.reg (rPartCause p) != 0)]

/-- The number whose bit i is entry i of a list. -/
def bitMask : List Bool → Nat
  | [] => 0
  | b :: bs => b.toNat + 2 * bitMask bs

def attnSummary (s : State) : Nat := bitMask (attnBits s)
def attnMasked (s : State) : Nat := attnSummary s &&& s.rf rAttnMask 0 10

/-- The management port can send: its clock runs (R514). -/
def mgmtUp (s : State) : Bool := !unitGated s 52

/-- Recovery mode (R536). -/
def recovery (s : State) : Bool := s.rf rSecCause 1 1 == 1

/-- The management port carries more than the register protocol: it is up, and the module is not in recovery mode (R536). -/
def mgmtFull (s : State) : Bool := mgmtUp s && !recovery s

/-- ATTN_N is driven low: while the masked summary is not zero, and from a shutdown on (R431, R524). -/
def attnLow (s : State) : Bool := s.rf rPwrCause 6 1 == 1 || attnMasked s != 0

/-- The 32 bytes of an attention frame (R432). -/
def attnBytes (s : State) : List Byte :=
  leBytes 2 0x4D41 ++ leBytes 2 s.sec.frames.toNat ++ leBytes 4 (attnSummary s) ++ leBytes 4 (s.rf rAttnMask 0 10)
    ++ leBytes 4 (s.reg rDeviceId).toNat ++ leBytes 8 (s.reg rEpochTag).toNat ++ zeros 8

/-- Send an attention frame to `EVT_DEST` (R432). -/
def attentionFrame (s : State) : State :=
  ({ s with sec := { s.sec with frames := s.sec.frames + 1 } }).emit
    (.attention (BitVec.ofNat 32 (s.rf rEvtDest 0 32)) (BitVec.ofNat 16 (s.rf rEvtDest 32 16)) (attnBytes s))

/-- A masked summary bit rose, or the masked summary changed to 0 (R432). -/
def attnEdge (old new : Nat) : Bool := (new ||| old) != old || (old != 0 && new == 0)

/-- After a command: send an attention frame when R432 calls for one. -/
def attend (s t : State) : State :=
  if t.rf rEvtDest 48 1 = 1 && mgmtFull t && attnEdge (attnMasked s) (attnMasked t) then attentionFrame t else t

/-- The outcome of a command that has taken the state from `s` to `t`. Without power nothing runs (R520). -/
def done (s t : State) : Host.Outcome State Fault Refusal := .next (if s.sec.powered then attend s t else s)

/-! ### Completions (R427–R429) -/

def ringOn (s : State) (r : Nat) : Bool := s.rf (rRingCfg r) 0 1 == 1
def ringPart (s : State) (r : Nat) : Nat := s.rf (rRingCfg r) 6 4
def ringDomain (s : State) (r : Nat) : Nat := s.rf (rRingCfg r) 10 6
def ringSize (s : State) (r : Nat) : Nat := 2 ^ s.rf (rRingCfg r) 1 5
def cqSize (s : State) (r : Nat) : Nat := 2 ^ s.rf (rCqCfg r) 12 4

/-- Form a completion of ring `r`: PHASE is 1 on the first pass through the queue and inverts on each pass (R427). -/
def formCompl (r : Nat) (status : Code) (opcode : Nat) (kind : Bool) (seq cookie step detail : Nat) (s : State) : State :=
  let x := s.ring r
  s.setRing r { x with
    formed := x.formed + 1
    held := x.held ++ [{ status := status, opcode := BitVec.ofNat 8 opcode, phase := x.formed / cqSize s r % 2 == 0,
                         kind := kind, seq := BitVec.ofNat 32 seq, cookie := BitVec.ofNat 32 cookie,
                         step := BitVec.ofNat 32 step, detail := BitVec.ofNat 32 detail, epoch := s.reg rEpochTag }] }

/-- The descriptor of ring `r` completes with a code: its command completion is formed and `RING_DONE` advances (R421,
R427). Nothing happens on a ring that runs no descriptor. While the ring holds 16 completions, the completion of a RUN waits
(R429). -/
def completeRing (r : Nat) (status : Code) (detail : Nat) (s : State) : State :=
  match (s.ring r).cur with
  | none => s
  | some d =>
    if 16 ≤ (s.ring r).held.length then s.setRing r { s.ring r with ending := some (status, detail) }
    else
      let i := s.rf (rRingDone r) 0 32
      let s := formCompl r status (fld d 0 8) false i (fld d 32 32) 0 detail s
      (s.setRing r { s.ring r with cur := none, started := false, cid := none, ending := none, filled := 0 }).setRf
        (rRingDone r) 0 32 (i + 1)

/-- The RUN attached to the running context completes (R425). -/
def completeRun (p : Nat) (status : Code) (detail : Nat) (s : State) : State :=
  match (s.ctx p).run with
  | none => s
  | some q =>
    let s := s.setCtx p { s.ctx p with run := none, prog := false }
    if (s.ring q.ring).started && s.rf (rRingDone q.ring) 0 32 = q.seq.toNat then
      completeRing q.ring status detail s
    else s

/-- A step completion (KIND 1) for the RUN whose program runs the step, and `STEP_STATUS.LAST_CODE` (R73, R425, R427). -/
def stepCompletion (p : Nat) (status : Code) (s : State) : State :=
  let c := s.ctx p
  let t := s.setStepRf p oStepStatus 8 8 status.toNat
  match if c.prog then c.run else none with
  | none => t
  | some q =>
    if (t.ring q.ring).started && t.rf (rRingDone q.ring) 0 32 = q.seq.toNat then
      formCompl q.ring status 0x02 true q.seq.toNat q.cookie.toNat (stepNumber s p) c.causes.toNat t
    else t

/-! ### CRC-32C (R186, R359; its polynomial is the Castagnoli one, reflected 0x82F63B78) -/

def crcBit (c : BitVec 32) : BitVec 32 := if fld c 0 1 = 1 then (c >>> 1) ^^^ 0x82F63B78 else c >>> 1
def crcByte (c : BitVec 32) (b : Byte) : BitVec 32 :=
  let c := c ^^^ BitVec.ofNat 32 b.toNat
  crcBit (crcBit (crcBit (crcBit (crcBit (crcBit (crcBit (crcBit c)))))))
def crc32c (bs : List Byte) : BitVec 32 := ~~~(bs.foldl crcByte 0xFFFFFFFF)

/-! ### Sending flits (R359–R361) -/

/-- `PORT_STATUS.STATE` is up (R390). -/
def portUp (s : State) (n : Nat) : Bool := s.rf (rPortStatus n) 0 3 == 2

/-- The port is up at a level or above (R363). -/
def portLevel (s : State) (n lvl : Nat) : Bool := portUp s n && lvl ≤ s.rf (rPortStatus n) 5 2

/-- Entry `i` of four virtual channels, and its replacement. -/
def vcGet {α : Type} (x : Four α) (i : Nat) : α :=
  if i = 0 then x.w else if i = 1 then x.n else if i = 2 then x.e else x.s
def vcSet {α : Type} (x : Four α) (i : Nat) (v : α) : Four α :=
  if i = 0 then { x with w := v } else if i = 1 then { x with n := v } else if i = 2 then { x with e := v }
  else { x with s := v }

/-- TYPE of the flit of a message (R359). -/
def flitType : LinkMsg → Nat
  | .voteUp _ _ _ _ => 5
  | .voteDown _ _ _ _ => 6
  | .abort => 7
  | _ => 1

/-- The 64 payload bytes of a message: those of a vote as R385 lays down. -/
def flitPayload : LinkMsg → List Byte
  | .voteUp step attempt clean nan | .voteDown step attempt clean nan =>
    leBytes 4 step.toNat ++ leBytes 1 (pack [(0, 2, attempt.toNat), (2, 1, clean.toNat), (3, 1, nan.toNat)]) ++ zeros 59
  | m => Config.flitPayload m

/-- A flit leaves a port, with the number of the last flit received in order and its CRC (R359). -/
def emitFlit (n type vc : Nat) (seq : BitVec 10) (cvc cc : Nat) (m : Option LinkMsg) (s : State) : State :=
  let ack := (s.link n).rxSeq
  let h := pack [(0, 2, vc), (2, 4, type), (6, 10, seq.toNat), (16, 10, ack.toNat), (26, 2, cvc), (28, 4, cc)]
  let crc := crc32c (leBytes 4 h ++ (m.map flitPayload).getD (zeros 64))
  s.emit (.flit (BitVec.ofNat 4 n) { vc := vc, type := type, seq := seq, ack := ack, cvc := cvc, ccount := cc, crc := crc } m)

/-- A flit of type credit and acknowledgement, which carries the last number sent. -/
def emitCredit (n vc cc : Nat) (s : State) : State := emitFlit n 2 0 (s.link n).txSeq vc cc none s

def linkCount (n k v : Nat) (s : State) : State := s.count (rLinkCount n k) v

/-- Send one numbered flit on its channel: it costs a credit and is held until it is acknowledged (R359–R361). `TX_FLITS`
counts the data flits. -/
def sendFlit (n vc : Nat) (m : LinkMsg) (s : State) : State :=
  let l := s.link n
  let seq := l.txSeq + 1
  let s := s.setLink n { l with txSeq := seq, credit := vcSet l.credit vc (vcGet l.credit vc - 1),
                                unacked := l.unacked ++ [(seq, vc, m, 1)] }
  emitFlit n (flitType m) vc seq 0 0 (some m) (if flitType m = 1 then linkCount n 0 1 s else s)

/-- The first queued flit whose channel has a credit, and the rest of the queue. -/
def nextFlit (l : Link) : List (Nat × LinkMsg) → Option ((Nat × LinkMsg) × List (Nat × LinkMsg))
  | [] => none
  | q :: qs =>
    if vcGet l.credit q.1 ≠ 0 then some (q, qs)
    else match nextFlit l qs with
      | some (f, rest) => some (f, q :: rest)
      | none => none

/-- Queued flits go out as credits and the limit of 512 unacknowledged flits allow (R360, R361). -/
def sendQueue (n : Nat) : Nat → State → State
  | 0, s => s
  | fuel + 1, s =>
    let l := s.link n
    if !portUp s n || 512 ≤ l.unacked.length then s
    else match nextFlit l l.queue with
      | some ((vc, m), rest) => sendQueue n fuel (sendFlit n vc m (s.setLink n { l with queue := rest }))
      | none => s

/-- Queue a flit of VC 2 or VC 3 and send what can be sent. -/
def sendMsg (n vc : Nat) (m : LinkMsg) (s : State) : State :=
  let l := s.link n
  sendQueue n 512 (s.setLink n { l with queue := l.queue ++ [(vc, m)] })

/-! ### The vote (R52–R57, R385) -/

/-- Ports named in a mask. -/
def portsOf (mask : Nat) : List Nat := (List.range 16).filter (fun n => bitsOf mask n 1 == 1)
def voteDowns (s : State) (p : Nat) : List Nat := portsOf (s.stepRf p oVoteCtrl 16 16)
def voteRoot (s : State) (p : Nat) : Bool := s.stepRf p oVoteCtrl 4 1 == 1
def voteUpPort (s : State) (p : Nat) : Nat := s.stepRf p oVoteCtrl 0 4
def stepRetries (s : State) (p : Nat) : Nat := s.stepRf p oStepStatus 4 2

/-- The clean flag of an attempt (R52). -/
def cleanFlag (c : Ctx) : Bool := c.causes &&& 0x7FD == 0
/-- The not-a-number flag of an attempt (R53). -/
def nanFlag (c : Ctx) : Bool := c.nanIn || c.causes &&& 0x741 != 0

/-- The vote result is recorded and held; VOTE_WAIT stops because a result is held (R56, R57). -/
def voteArrive (p : Nat) (clean nan : Bool) (s : State) : State :=
  let c := s.ctx p
  let s := (s.setStepRf p oStepStatus 6 1 clean.toNat).setStepRf p oStepStatus 7 1 nan.toNat
  let s := s.setCtx p { c with held := some (clean, nan) }
  match c.own with
  | some (true, _) => if clean then s else stepCause p scPeer s
  | _ => s

/-- Vote-down flits on every down port that is up at level 3 (R360, R385). -/
def sendDowns (p step attempt : Nat) (clean nan : Bool) (s : State) : State :=
  (voteDowns s p).foldl (fun s n =>
    if portLevel s n 3 then sendMsg n 2 (.voteDown (BitVec.ofNat 32 step) (BitVec.ofNat 2 attempt) clean nan) s else s) s

/-- Send what the flags gathered so far call for: a vote-up, or at the root the result (R385). -/
def voteTry (p : Nat) (s : State) : State :=
  let c := s.ctx p
  let pairs := c.own.toList ++ c.ups.map (·.2)
  let all := c.own.isSome && (voteDowns s p).all (fun n => c.ups.any (fun u => u.1 == n))
  if !c.upSent && (all || pairs.any (· == (false, true))) then
    let clean := pairs.all (·.1)
    let nan := pairs.any (·.2)
    let s := s.setCtx p { c with upSent := true, sentVote := some (stepNumber s p, stepRetries s p) }
    if voteRoot s p then
      let s := sendDowns p (stepNumber s p) (stepRetries s p) clean nan s
      if stepState s p = sRunning || stepState s p = sVoting then voteArrive p clean nan s else s
    else if portLevel s (voteUpPort s p) 3 then
      sendMsg (voteUpPort s p) 2 (.voteUp (BitVec.ofNat 32 (stepNumber s p)) (BitVec.ofNat 2 (stepRetries s p)) clean nan) s
    else s
  else s

/-! ### Halt (R67, R466) -/

def setPartCause (p bit : Nat) (s : State) : State := s.orReg (rPartCause p) (2 ^ bit)
def pcDiscard : Nat := 0
def pcHalt : Nat := 1
def pcForced : Nat := 2
def pcEvict : Nat := 3
def pcDeadline : Nat := 4

/-- What a halt inside a step adds: `STEP_CAUSE.HALT`, flags (0, 1) sent at once, a step completion with HALTED (R67). -/
def haltStep (p : Nat) (s : State) : State :=
  if inStep s p then
    let s := stepCause p scHalt s
    let s := s.setCtx p { s.ctx p with own := some (false, true) }
    let voting := stepState s p = sRunning || stepState s p = sVoting || (stepState s p = sDiscarding && (s.ctx p).retry)
    let t := setStepState p sHalted s
    stepCompletion p cHalted (if voting then voteTry p t else t)
  else setStepState p sHalted s

/-- The partition halts: its running context stops, and the RUN whose program runs completes with HALTED; one that waits for IDLE
waits on (R34, R67, R425, R466). -/
def halt (p : Nat) (s : State) : State :=
  if (s.part p).halted || testing s p then s
  else
    let mid := inStep s p
    let s := haltStep p s
    let s := if (s.ctx p).prog then completeRun p cHalted 0 s else s
    setPartCause p pcHalt (s.setPart p { s.part p with halted := true, midStep := mid })

/-- `halt` of the partition of a unit, when an enabled one holds it. -/
def haltOf (who : Option Nat) (s : State) : State :=
  match who with
  | some p => halt p s
  | none => s

/-- An integrity fault with what it sets off: the window or the halt (R483–R485). -/
def integrityHalt (r : Rep) (conts : List (List Byte)) (s : State) : State :=
  let t := integrityFault r conts s
  if t.1 then haltOf r.part t.2 else t.2

/-- A not-a-number or infinity arose in the partition of the attempt (R53, R76). -/
def nanArose (who : Option Nat) (s : State) : State :=
  match who with
  | some p =>
    if inStep s p && !testing s p then (stepCause p scNan s).setCtx p { (stepCause p scNan s).ctx p with nanIn := true } else s
  | none => s

/-! ### The row remap directory (R343–R346) -/

/-- Entries in use of the segment of a field: number and content (R344). -/
def remapEntries (s : State) (f : Nat) : List (Nat × Word) :=
  s.csr.filterMap (fun e =>
    if rRemapDir (8192 * f) ≤ e.1 && e.1 < rRemapDir (8192 * (f + 1)) && fld e.2 31 1 == 1 then
      some ((e.1 - rRemapDir 0) / 8, e.2) else none)

/-- A row remap becomes pending (R345); none where the bank or the segment has no room. -/
def remapRequest (g row : Nat) (s : State) : Option State :=
  let f := g / 65536
  let pc := physCell s g
  let pb := physCab s (g / 256)
  let mine := (remapEntries s f).filter (fun e => fld e.2 11 9 == pc && fld e.2 20 9 == pb)
  if mine.any (fun e => fld e.2 0 9 == row) then some s
  else
    let bank := mine.filter (fun e => fld e.2 0 9 / 256 == row / 256)
    match (List.range 4).find? (fun k => !bank.any (fun e => fld e.2 9 2 == k)) with
    | none => none
    | some spare =>
      match (List.range 8192).find? (fun i => s.rf (rRemapDir (8192 * f + i)) 31 1 == 0) with
      | none => none
      | some i =>
        let v := pack [(0, 9, row), (9, 2, spare), (11, 9, pc), (20, 9, pb), (29, 1, 1), (30, 1, 1), (31, 1, 1)]
        let s := s.setReg (rRemapDir (8192 * f + i)) (BitVec.ofNat 64 v)
        some (s.setRf rRemapStatus 16 16 (s.rf rRemapStatus 16 16 + 1))

/-- An automatic remap, with what follows when it finds no room (R345). -/
def remapAuto (g row : Nat) (s : State) : State :=
  match remapRequest g row s with
  | some t => t
  | none => retireCell g (s.orReg rRemapStatus (2 ^ (g / 65536)))

/-! ### Drawer rows (R100, R345) -/

/-- Drawer-window address of row `n` of cell `g` (R100). -/
def rowAddr (g n : Nat) : Nat := bDRAWER + g * 0x4000 + n * 32

/-- The stored content of a row. -/
def rowRaw (s : State) (g n : Nat) : Row := BitVec.ofNat 256 (ofBytes (s.getBytes (rowAddr g n) 32))

/-- Words of a row whose error is of kind `k`: 1 correctable, 2 uncorrectable. -/
def rowErrs (s : State) (g n k : Nat) : List Nat :=
  (List.range 4).filter (fun i => sget 0 s.drErr (rowAddr g n + 8 * i) == k)

/-- A row with some of its 64-bit words zero. -/
def zeroWords (v : Row) (ws : List Nat) : Row := ws.foldl (fun v i => setFld v (64 * i) 64 0) v

/-- A correctable error is tracked (R345). -/
def drawerCe (g n : Nat) (s : State) : State :=
  let d := s.dr g
  let cnt := if d.ceCnt ≠ 0 && d.ceRow = n then d.ceCnt + 1 else 1
  let s := s.setDr g { d with ceRow := n, ceCnt := cnt }
  let limit := s.rf rRemapCtrl 4 4
  if limit ≠ 0 && limit ≤ cnt then remapAuto g n s else s

/-- An uncorrectable drawer error: STEP_CAUSE.ECC, the integrity fault, the fault count, the remap (R100, R345, R483,
R494). -/
def drawerUe (g n : Nat) (s : State) : State :=
  let who := partOfCell s g
  let s := stepCauseOf who scEcc s
  let s := integrityHalt { kind := 4, unit := .cell g, part := who, stage := 7, clock := 0, detail := n } [] s
  let s := countFault g s
  if s.rf rRemapCtrl 0 1 = 1 then remapAuto g n s else s

/-- Read a drawer row: words with an uncorrectable error read as zero (R100). -/
def drawerRead (g n : Nat) (s : State) : Row × State :=
  if s.drErr.isEmpty then (rowRaw s g n, s)
  else
    let ue := rowErrs s g n 2
    let v := zeroWords (rowRaw s g n) ue
    let s := if (rowErrs s g n 1).isEmpty then s else drawerCe g n s
    (v, if ue.isEmpty then s else drawerUe g n s)

/-- Write a drawer row; the write replaces failed words (R100). -/
def drawerWrite (g n : Nat) (v : Row) (s : State) : State :=
  let s := if s.drErr.isEmpty then s
    else { s with drErr := sfilter s.drErr (fun a => a < rowAddr g n || rowAddr g n + 32 ≤ a) }
  s.putBytes (rowAddr g n) (leBytes 32 v.toNat)

/-- Rows `n` to `n` + `k` − 1 of a drawer. -/
def drawerReads (g n : Nat) : Nat → State → List Row × State
  | 0, s => ([], s)
  | k + 1, s =>
    let r := drawerRead g n s
    let t := drawerReads g (n + 1) k r.2
    (r.1 :: t.1, t.2)

def drawerWrites (g : Nat) : Nat → List Row → State → State
  | _, [], s => s
  | n, v :: vs, s => drawerWrites g (n + 1) vs (drawerWrite g n v s)

end Sys2Proof.Machine
end

