-- ==== Sys2Proof/Machine/Steps.lean ====
section
/-! DEFINITION. The training step (02): its begin, its commit and its discard, with the journal, the tensor table, the
input streams and the checkpoint stack they act on. -/

namespace Sys2Proof.Machine

/-! ### Cells of a partition -/

/-- Change every listed cell of the partition's cabinets. A cell that is not listed is as after reset. -/
def mapCells (p : Nat) (f : Cell → Cell) (s : State) : State :=
  { s with cells := s.cells.map (fun e => if inPart s p (e.1 / 256) then (e.1, f e.2) else e) }

/-- Listed cells of a partition. -/
def cellsOf (s : State) (p : Nat) : List (Nat × Cell) := s.cells.filter (fun e => inPart s p (e.1 / 256))

/-- Listed cabinets of a partition. -/
def cabsOf (s : State) (p : Nat) : List (Nat × Cab) := s.cabs.filter (fun e => inPart s p e.1)

def mapCabs (p : Nat) (f : Nat → Cab → Cab) (s : State) : State :=
  { s with cabs := s.cabs.map (fun e => if inPart s p e.1 then (e.1, f e.1 e.2) else e) }

/-! ### The tensor table (R258–R263) -/

/-- A range counter holds nothing. -/
def RangeCtr.isEmpty (r : RangeCtr) : Bool := r.sat == 0 && r.ovf == 0 && r.xmax == -128

/-- The flushes of the non-empty counters of a bench: the tensor is bits [11:0] of the constant K[r] (R259, R260). -/
def benchFlushes (b : Bench) : List Flush :=
  b.regs.ranges.filterMap (fun e =>
    if e.2.isEmpty then none
    else some { tensor := fld (b.k.getD e.1 0) 0 12, sat := e.2.sat, ovf := e.2.ovf, x := e.2.xmax })

def Bench.noRanges (b : Bench) : Bench := { b with regs := { b.regs with ranges := [] } }

/-- Flushes start on their way to the plinths; a field test changes no tensor table (R260, R500). -/
def addFlushes (p : Nat) (fs : List Flush) (s : State) : State :=
  if testing s p then s else s.setPart p { s.part p with flushes := (s.part p).flushes ++ fs }

/-- Every bench of the partition flushes and empties its range counters (R260). -/
def flushCells (p : Nat) (s : State) : State :=
  let fs := (cellsOf s p).flatMap (fun e => benchFlushes e.2.bench)
  addFlushes p fs (mapCells p (fun c => { c with bench := c.bench.noRanges }) s)

/-- One bench flushes and empties its range counters (R260). -/
def flushCell (g : Nat) (s : State) : State :=
  match partOfCell s g with
  | none => s
  | some p =>
    let b := s.bench g
    addFlushes p (benchFlushes b) (s.setBench g b.noRanges)

def sat32 (n : Nat) : Nat := min n 0xFFFFFFFF
def tensorCount (s : State) (p : Nat) : Nat := s.stepRf p oTensorCtrl 0 13
def tensorAddr (s : State) (p n : Nat) : Nat := (s.stepReg p oTensorBase).toNat + 32 * n
/-- A byte as a signed number. -/
def int8 (n : Nat) : Int := toSigned n 8
/-- The low byte of a signed number. -/
def byteOfInt (x : Int) : Nat := (x % 256).toNat

/-- The entry of a tensor with a flush added (R260, R261). -/
def addFlush (e : List Byte) (f : Flush) : List Byte :=
  let x := max (int8 (leAt e 16 1)) f.x
  e.take 8 ++ leBytes 4 (sat32 (leAt e 8 4 + f.sat)) ++ leBytes 4 (sat32 (leAt e 12 4 + f.ovf))
    ++ leBytes 1 (byteOfInt x) ++ (e.drop 17).take 7
    ++ leBytes 4 (sat32 (leAt e 24 4 + f.sat)) ++ leBytes 4 (sat32 (leAt e 28 4 + f.ovf))

/-- What stands against work on the table entry at an address: the partition must read and write it (R409). -/
def tableDenied (s : State) (p a : Nat) : Option Code := hbmDenied s (mPart s p) kRead a 32 <|> hbmDenied s (mPart s p) kWrite a 32

/-- A table entry at an address is read and written; a denied access leaves it as it is (R409, R414). -/
def onEntry (p a : Nat) (f : List Byte → List Byte) (s : State) : State :=
  let c := tableDenied s p a
  if c.isSome then noteGated c s
  else
    let r := hbmReadPlain (some p) a 32 s
    hbmWrite (some p) a (f r.1) r.2

/-- A flush reaches the tensor table; one at or beyond COUNT is dropped and counted (R260, R270). -/
def applyFlush (p : Nat) (f : Flush) (s : State) : State :=
  if tensorCount s p ≤ f.tensor then
    let n := s.stepRf p oRangeStatus 48 16
    s.setStepRf p oRangeStatus 48 16 (min (n + 1) 0xFFFF)
  else onEntry p (tensorAddr s p f.tensor) (fun e => addFlush e f) s

/-- Every flush under way reaches the table. -/
def drainFlushes (p : Nat) (s : State) : State :=
  let fs := (s.part p).flushes
  fs.foldl (fun s f => applyFlush p f s) (s.setPart p { s.part p with flushes := [] })

/-- Per-attempt counts of one entry reset (R262). -/
def resetEntry (e : List Byte) : List Byte := e.take 8 ++ zeros 8 ++ leBytes 1 128 ++ e.drop 17

def resetTable (p : Nat) : Nat → State → State
  | 0, s => s
  | n + 1, s => resetTable p n (onEntry p (tensorAddr s p n) resetEntry s)

/-- What R263 makes of an entry: its new BIAS, and which of raised, lowered and pinned it counts as. -/
def adaptBias (bias sat ovf thresh : Nat) (xmax margin : Int) : Nat × Nat × Nat × Nat :=
  let b := int8 bias
  if thresh < sat + ovf then
    if b < 127 then (byteOfInt (b + 1), 1, 0, 0) else (bias, 0, 0, 1)
  else if sat + ovf = 0 ∧ xmax ≠ -128 ∧ xmax < b - margin then
    if -128 < b then (byteOfInt (b - 1), 0, 1, 0) else (bias, 0, 0, 1)
  else (bias, 0, 0, 0)

/-- Scale adaptation over entries `n` and above (R263), with the counts of RANGE_STATUS. -/
def adaptTable (p n : Nat) : Nat → Nat × Nat × Nat → State → (Nat × Nat × Nat) × State
  | 0, k, s => (k, s)
  | todo + 1, k, s =>
    let a := tensorAddr s p n
    let c := tableDenied s p a
    if c.isSome then adaptTable p (n + 1) todo k (noteGated c s) else
    let r := hbmReadPlain (some p) a 32 s
    let e := r.1
    if bitsOf (leAt e 1 1) 0 1 = 1 then
      let x := adaptBias (leAt e 0 1) (leAt e 8 4) (leAt e 12 4) (leAt e 2 2) (int8 (leAt e 16 1))
        (s.stepRf p oTensorCtrl 16 4)
      let s := if x.1 = leAt e 0 1 then r.2 else hbmWrite (some p) a (leBytes 1 x.1) r.2
      adaptTable p (n + 1) todo (k.1 + x.2.1, k.2.1 + x.2.2.1, k.2.2 + x.2.2.2) s
    else adaptTable p (n + 1) todo k r.2

/-- Step 3 of the commit (R59, R263, R270). -/
def adaptScales (p : Nat) (s : State) : State :=
  let r := if partF s p ≤ 4 then adaptTable p 0 (tensorCount s p) (0, 0, 0) s else ((0, 0, 0), s)
  let a := stepAddr r.2 p oRangeStatus
  ((r.2.setRf a 0 16 r.1.1).setRf a 16 16 r.1.2.1).setRf a 32 16 r.1.2.2

/-! ### The journal (R289–R295) -/

def journalUsed (s : State) (p : Nat) : Nat := s.stepRf p oJournalUsed 0 39

/-- `JOURNAL_USED.BYTES` and ENTRIES become 0, and the journal has room again (R291, R295). -/
def journalReset (p : Nat) (s : State) : State :=
  let s := s.setCtx p { s.ctx p with jFull := false }
  (s.setStepRf p oJournalUsed 0 39 0).setStepRf p oJournalUsed 40 23 0

/-- Bytes an entry takes in the journal: header and row image, to the next multiple of 32 (R289). -/
def entrySize (bytes : Nat) : Nat := (32 + bytes + 31) / 32 * 32

/-- One journal entry, `bytes` long with its image at `src`, is written to its embedding row. With the image or the row denied by
the access tables it is skipped, and a gated plinth shows in `HOST_CAUSE` (R409, R414, log 84). -/
def applyEntry (p src row bytes : Nat) (s : State) : State :=
  match hbmDenied s (mPart s p) kRead src bytes with
  | some c => noteGated (some c) s
  | none =>
    let d := hbmReadPlain (some p) src bytes s
    match hbmDenied d.2 (mPart s p) kWrite row bytes with
    | some c => noteGated (some c) d.2
    | none => hbmWrite (some p) row d.1 d.2

/-- Apply the journal entries from byte `off` to `used`, in order (R59, R290); a header that may not be read ends them (log 84). -/
def applyJournal (p off used : Nat) : Nat → State → State
  | 0, s => s
  | fuel + 1, s =>
    if used ≤ off then s
    else
      let base := (s.stepReg p oJournalBase).toNat + off
      match hbmDenied s (mPart s p) kRead base 32 with
      | some c => noteGated (some c) s
      | none =>
        let h := hbmReadPlain (some p) base 32 s
        let bytes := leAt h.1 8 4
        applyJournal p (off + entrySize bytes) used fuel (applyEntry p (base + 32) (leAt h.1 0 8) bytes h.2)

/-! ### Input streams (R328–R331) -/

def istrs : List Nat := List.range 16
def istrPos (s : State) (a : Nat) : Nat := s.rf a 0 56
def istrMarked (s : State) (p i : Nat) : Bool := s.rf (rIstrMark p i) 63 1 == 1

/-- Each marked stream is released up to its read position and its mark dropped (R59). -/
def releaseStreams (p : Nat) (s : State) : State :=
  istrs.foldl (fun s i =>
    if istrMarked s p i then
      (s.setRf (rIstrReleased p i) 0 56 (istrPos s (rIstrRead p i))).setRf (rIstrMark p i) 63 1 0
    else s) s

/-- Each marked stream is rewound to its mark, which stays (R61). -/
def rewindStreams (p : Nat) (s : State) : State :=
  istrs.foldl (fun s i =>
    if istrMarked s p i then s.setRf (rIstrRead p i) 0 56 (istrPos s (rIstrMark p i)) else s) s

/-- STEP.BEGIN marks the streams of a mask (R331). -/
def markStreams (p mask : Nat) (s : State) : State :=
  istrs.foldl (fun s i =>
    if bitsOf mask i 1 = 1 then
      (s.setRf (rIstrMark p i) 0 56 (istrPos s (rIstrRead p i))).setRf (rIstrMark p i) 63 1 1
    else s) s

/-! ### What a field test leaves alone (R500) -/

/-- Two ranges of bytes meet. -/
def rangesMeet (a n b m : Nat) : Bool := a < b + m && b < a + n

/-- A write of a field test to `n` bytes that would change a leaf, the journal, an input stream or the tensor table (R500). -/
def testHolds (s : State) (p a n : Nat) : Bool :=
  testing s p
    && (rangesMeet a n (leafBase s p 0) (2 * (s.stepReg p oLeafSize).toNat)
      || rangesMeet a n (s.stepReg p oJournalBase).toNat (s.stepReg p oJournalSize).toNat
      || rangesMeet a n (tensorAddr s p 0) (32 * tensorCount s p)
      || istrs.any (fun i => rangesMeet a n (s.reg (rIstrBase p i)).toNat (s.reg (rIstrSize p i)).toNat))

/-- A store of a partition's engine or sequencer to HBM; one of a field test changes nothing it has to leave alone. -/
def partWrite (p a : Nat) (bs : List Byte) (s : State) : State :=
  if testHolds s p a bs.length then s else hbmWrite (some p) a bs s

/-! ### The checkpoint stack (R39–R46) -/

/-- A drawer whose share of the stack is empty. -/
def Drawer.noStack (d : Drawer) : Drawer := { d with stack := [], frames := 0, framed := false, full := false }

/-- The stack of the partition is emptied, in the band and in the spill slices (R61). -/
def emptyStack (p : Nat) (s : State) : State :=
  (mapCells p (fun c => { c with dr := c.dr.noStack }) s).setStepRf p oSpillUsed 0 32 0

/-! ### Begin, commit, discard -/

/-- The recovery window closes (R483). -/
def closeWindow (p : Nat) (s : State) : State :=
  s.setPart p { s.part p with window := false }

/-- What STEP.BEGIN does to the streams, the journal and the tensor table, which a field test leaves alone (R30, R262, R270,
R295, R500). -/
def stepTables (p mask : Nat) (s : State) : State :=
  if testing s p then flushCells p s
  else
    let s := drainFlushes p (flushCells p (journalReset p (markStreams p mask s)))
    (resetTable p (tensorCount s p) s).setStepRf p oRangeStatus 48 16 0

/-- Phase 1 of R30, with the resets of R62, R151, R216, R262, R270 and R295. -/
def stepBegin (p mask : Nat) (s : State) : State :=
  let host := stepState s p = sIdle
  let s := stepTables p mask (linksFresh p (emptyStack p s))
  let s := mapCells p (fun c => { c with bench := { c.bench with regs := { c.bench.regs with nan := false } } }) s
  let s := mapCabs p (fun _ c => { c with icache := [], dcache := [], seq := { c.seq with rPos := c.seq.pos, rX := c.seq.x } }) s
  let c := s.ctx p
  let s := s.setCtx p { c with ev := [], causes := 0, nanIn := false, own := none, held := none, upSent := false,
                               ups := if host then [] else c.ups, retry := false, jFull := false, rJig := c.jig }
  let s := if host then s.setStepRf p oStepStatus 4 2 0 else s
  let s := s.setCtx p { s.ctx p with sentVote := c.sentVote.filter (fun v => v != (stepNumber s p, stepRetries s p)) }
  let s := s.setCtx p { s.ctx p with win := if (s.part p).window then some (s.reg (rWinSeq p)) else none }
  setStepState p sRunning s

/-- The commit (R59): leaf, journal, scales, streams, step number, completion, IDLE. The first commit whose STEP.BEGIN
followed its opening closes the recovery window (R483); the count of GO signals restarts (R477). The step of a field test
changes none of it (R500). -/
def commit (p : Nat) (s : State) : State :=
  let s := if testing s p then s else commitData p (setStepState p sCommitting s)
  let s := s.setCtx p { s.ctx p with own := none, held := none, ups := [], upSent := false }
  setStepState p sIdle s
where commitData (p : Nat) (s : State) : State :=
  let s := s.setStepRf p oStepStatus 3 1 (1 - activeLeaf s p)
  let s := drainFlushes p s
  let s := journalReset p (applyJournal p 0 (journalUsed s p) (journalUsed s p) s)
  let s := releaseStreams p (adaptScales p s)
  let s := stepCompletion p cOk s
  let s := s.setStepRf p oStepNumber 0 32 (stepNumber s p + 1)
  let s := if (s.part p).window && (s.ctx p).win == some (s.reg (rWinSeq p)) then closeWindow p s else s
  s.setPart p { s.part p with goCount := 0 }

/-- Steps 1 to 4 of the discard (R61). -/
def discardState (p : Nat) (s : State) : State :=
  let s := setStepState p sDiscarding s
  emptyStack p (if testing s p then s else rewindStreams p (journalReset p s))

/-- A discard without retry (R61): completion DISCARDED, the SCHED attention bit, IDLE. -/
def discard (p : Nat) (s : State) : State :=
  let s := setPartCause p pcDiscard (stepCompletion p cDiscarded (discardState p s))
  let s := s.setCtx p { s.ctx p with own := none, held := none, ups := [], upSent := false }
  setStepState p sIdle s

/-- A discard with a retry to follow (R61): the partition stays in DISCARDING until the retry's STEP.BEGIN. -/
def discardRetry (p : Nat) (s : State) : State :=
  let s := discardState p s
  let s := s.setStepRf p oStepStatus 4 2 (stepRetries s p + 1)
  s.setCtx p { s.ctx p with causes := 0, nanIn := false, own := none, held := none, ups := [], upSent := false, retry := true }

/-! ### Request slots of the narrow path (R312) -/

/-- The slots have room for a request: 64 for a channel, 8 for a bank of a pseudo-channel of it (R297, R312). -/
def slotRoom (slots : List (Nat × Nat)) (a : Nat) : Bool :=
  let mine := slots.filter (fun r => channelOf r.2 == channelOf a)
  mine.length < 64 && (mine.filter (fun r => bankOf r.2 == bankOf a && pseudoOf r.2 == pseudoOf a)).length < 8

/-- Waiting requests take the slots that have room, in their order; those of other banks pass. -/
def giveSlots : List (Nat × Nat) → List (Nat × Nat) → List (Nat × Nat) × List (Nat × Nat)
  | slots, [] => (slots, [])
  | slots, r :: rs =>
    if slotRoom slots r.2 then giveSlots (slots ++ [r]) rs
    else
      let x := giveSlots slots rs
      (x.1, r :: x.2)

/-- The requests of gather engine `e`, and of the sequencer of cabinet `c`, in slots and queues. -/
def reqGather (e : Nat) : Nat := 0x80 + e
def reqSeq (c : Nat) : Nat := 0x100 + c

/-- A requester gives up what it waits for. -/
def narrowDrop (id : Nat) (s : State) : State :=
  s.plinths.foldl (fun s e =>
    let mine := fun (r : Nat × Nat) => r.1 == id
    if e.2.slots.any mine || e.2.queue.any mine then
      let q := giveSlots (e.2.slots.filter (fun r => !mine r)) (e.2.queue.filter (fun r => !mine r))
      s.setPlinth e.1 { e.2 with slots := q.1, queue := q.2 }
    else s) s

/-- The sequencers of a partition give up the line fills they wait for. -/
def dropFills (p : Nat) (s : State) : State := (cabsOf s p).foldl (fun s e => narrowDrop (reqSeq e.1) s) s

/-- Every control program of the partition ends: its sequencers stop, no SEM.P of theirs waits, and issue goes on (R216,
R220). -/
def stopSequencers (p : Nat) (s : State) : State :=
  let s := dropFills p (s.setPart p { s.part p with frozen := false })
  let s := s.setCtx p { s.ctx p with semQ := [] }
  mapCabs p (fun _ c => { c with seq := { c.seq with wait := 5, issue := none } }) s

/-! ### The registers and words of a sequencer (R117, R213, R214) -/

/-- Register `i` of the sequencer of a cabinet: x14 reads the cabinet index, x15 the step number (R213). -/
def xReg (s : State) (p c i : Nat) : Word :=
  if i = 14 then BitVec.ofNat 64 (if testing s p then c % 256 else cabIndex s p c) else if i = 15 then BitVec.ofNat 64 (stepNumber s p)
  else sget 0 (s.cab c).seq.x i

/-- The line of an address in a sequencer cache of `sets` sets (R117; the bits that choose a set are DEDUCED, log 20). -/
def cacheLine (cache : Sparse (List CLine)) (sets a : Nat) : Option CLine :=
  (sget [] cache (a / 64 % sets)).find? (fun l => l.addr == a / 64 * 64)

/-- A line becomes the most recently used one of its set of 4 ways (R117). -/
def cacheUse (cache : Sparse (List CLine)) (sets : Nat) (l : CLine) : Sparse (List CLine) :=
  let i := l.addr / 64 % sets
  sset cache i ((l :: (sget [] cache i).filter (fun x => x.addr != l.addr)).take 4)

/-- The instruction cache holds 64 sets, the data cache 32 (R117). -/
def icSets : Nat := 64
def dcSets : Nat := 32

/-- Address of the present control word of a cabinet. -/
def seqAddr (k : Cab) : Nat := k.seq.seg + 8 * k.seq.pos

/-- The present control word: from the instruction cache, or as memory holds it. -/
def seqPeek (s : State) (c : Nat) : Word :=
  let k := s.cab c
  let a := seqAddr k
  match cacheLine k.icache icSets a with
  | some l => BitVec.ofNat 64 (leAt l.data (a % 64) 8)
  | none => BitVec.ofNat 64 (ofBytes (s.seen a 8))

/-- The sequencer goes on with the next word. -/
def Cab.stepOn (k : Cab) : Cab := { k with seq := { k.seq with pos := k.seq.pos + 1, wait := 0, issue := none } }

/-- The event that WAIT names has reached its count (R215). -/
def waitMet (s : State) (p c : Nat) (w : Word) : Bool :=
  fld (xReg s p c (cwXa w)) 0 32 ≤ (sget 0 (s.ctx p).ev (fld w 0 8)).toNat

/-- Sequencers of the running context that wait for an event that has reached its count go on (R215). -/
def wakeWaits (p sl : Nat) (s : State) : State :=
  if holdsFabric s p sl && (s.part p).slot = sl then
    mapCabs p (fun c k => if k.seq.wait = 2 && waitMet s p c (seqPeek s c) then k.stepOn else k) s
  else s

/-- The vote result says: commit, retry, or discard without retry (R56). -/
inductive Verdict where
  | commit | retry | discard
deriving DecidableEq, Repr

def verdict (s : State) (p : Nat) (clean nan : Bool) : Verdict :=
  if clean && !nan then .commit
  else if !clean && !nan && stepRetries s p < s.stepRf p oStepCtrl 0 2 then .retry
  else .discard

/-! ### The end of a step and of a control program -/

/-- A slot of a cabinet's slot store (R183). -/
def Cab.slotAt (c : Cab) (b : Bool) : Slot := if b then c.slot1 else c.slot0
def Cab.now (c : Cab) : Slot := c.slotAt c.cur
def Cab.spare (c : Cab) : Slot := c.slotAt (!c.cur)
def Cab.setSlot (c : Cab) (b : Bool) (x : Slot) : Cab := if b then { c with slot1 := x } else { c with slot0 := x }
/-- A slot that loses its image is empty; one that shows a refused image goes on showing it until a fill starts (R198, R225). -/
def Slot.leave (x : Slot) : Slot := if x.st = 3 then { st := 3 } else {}
/-- The spare slot holds an image of JIG.NEXT that has passed the checks. -/
def Cab.nextReady (c : Cab) : Bool := c.spare.st == 2 && c.spare.next

/-- Sequencers of the partition that run or ran a control segment. -/
def takingPart (s : State) (p : Nat) : List (Nat × Cab) := (cabsOf s p).filter (fun e => 0 < e.2.seq.len)

/-- The control program goes on: an image is being filled or loaded, a jig is about to switch in, a segment waits to
start, or a regenerating jig runs (R308, R425). -/
def programGoesOn (s : State) (p : Nat) : Bool :=
  let c := s.ctx p
  c.fill.isSome || c.load.isSome || c.rerun == 1 || (cabsOf s p).any (fun e => e.2.seq.due || e.2.nextReady)

/-- Every taking-part sequencer has stopped: the RUN completes, with the code of a refusal, with DEADLINE_FALLBACK, or OK
(R198, R425, R464). After a refusal inside a step it waits for the vote that the refusal calls for. -/
def runEnd (p : Nat) (s : State) : State :=
  let c := s.ctx p
  if c.prog && !programGoesOn s p && !(c.refusal.isSome && c.voteReq) && (takingPart s p).all (fun e => e.2.seq.wait == 5) then
    match c.refusal with
    | some code => completeRun p code (if code.toNat ≤ 0x0B then s.stepRf p oLoadErr 24 32 else 0)
        (s.setCtx p { c with refusal := none, dlUsed := false, prog := false })
    | none => completeRun p (if c.dlUsed then cFallback else cOk) 0 (s.setCtx p { c with dlUsed := false, prog := false })
  else s

/-- The sequencers that wait in a partition-wide instruction of some opcodes go on with the next word. -/
def passIssued (p : Nat) (ops : List Nat) (s : State) : State :=
  mapCabs p (fun _ c =>
    if c.seq.issue.any (fun i => ops.contains (cwOp i.word)) then
      { c with seq := { c.seq with pos := c.seq.pos + 1, wait := 0, issue := none } }
    else c) s

/-- A commit, and the sequencers that wait in STEP.COMMIT go on (R219). -/
def finishCommit (p : Nat) (s : State) : State := passIssued p [cCOMMIT, cDISCARD] (commit p s)

/-- A discard without retry, and every sequencer stops (R219). -/
def finishDiscard (p : Nat) (s : State) : State := runEnd p (stopSequencers p (discard p s))

/-- No image is on its way into a cabinet, and no segment waits to start. -/
def Cab.dropNext (c : Cab) : Cab :=
  let c := if c.spare.next || c.spare.st = 1 then c.setSlot (!c.cur) c.spare.leave else c
  let c := c.setSlot c.cur (if c.now.st = 1 then {} else { c.now with next := false })
  { c with seq := { c.seq with due := false } }

/-- RESUME of a halted partition (R486): the discard of a step in progress, the end of every control program with what it had
under way, IDLE, the window closed. -/
def resumePart (p : Nat) (s : State) : State :=
  let s := if (s.part p).midStep then discardState p s else s
  let s := stopSequencers p (s.setCtx p { s.ctx p with prog := false, own := none, held := none, ups := [],
                                                       upSent := false, refusal := none, fill := none, load := none,
                                                       voteReq := false, marked := none, rerun := 0, retry := false })
  let s := mapCabs p (fun _ c => c.dropNext) s
  let s := closeWindow p (setStepState p sIdle s)
  s.setPart p { s.part p with halted := false, midStep := false }

end Sys2Proof.Machine
end

