-- ==== Sys2Proof/Machine/Fabric.lean ====
section
/-! DEFINITION. The rails and stiles (03): ports and sides, the grid of cells, the channels between switches. -/

namespace Sys2Proof.Machine

def fiveGet {α : Type} (x : Five α) : Port → α
  | .w => x.w
  | .n => x.n
  | .e => x.e
  | .s => x.s
  | .d => x.d

def fiveSet {α : Type} (x : Five α) (p : Port) (v : α) : Five α :=
  match p with
  | .w => { x with w := v }
  | .n => { x with n := v }
  | .e => { x with e := v }
  | .s => { x with s := v }
  | .d => { x with d := v }

def fourGet {α : Type} (x : Four α) : Side → α
  | .w => x.w
  | .n => x.n
  | .e => x.e
  | .s => x.s

def fourSet {α : Type} (x : Four α) (p : Side) (v : α) : Four α :=
  match p with
  | .w => { x with w := v }
  | .n => { x with n := v }
  | .e => { x with e := v }
  | .s => { x with s := v }

/-- The ports in the order of R132: bit k of a mask names entry k. -/
def ports : List Port := [.w, .n, .e, .s, .d]
def sides : List Side := [.w, .n, .e, .s]

def portNum : Port → Nat
  | .w => 0
  | .n => 1
  | .e => 2
  | .s => 3
  | .d => 4

def sideNum : Side → Nat
  | .w => 0
  | .n => 1
  | .e => 2
  | .s => 3

def sidePort : Side → Port
  | .w => .w
  | .n => .n
  | .e => .e
  | .s => .s

def opposite : Side → Side
  | .w => .e
  | .n => .s
  | .e => .w
  | .s => .n

/-- The ports of a mask. -/
def maskPorts (m : Nat) : List Port := ports.filter (fun p => bitsOf m (portNum p) 1 == 1)

/-! ### The grid (R12, R317) -/

/-- Column and row of a cabinet on the device grid of 64 × 64 (R317). -/
def cabX (c : Nat) : Nat := 16 * (c / 256 % 4) + c % 16
def cabY (c : Nat) : Nat := 16 * (c / 1024) + c % 256 / 16
def cabAt (x y : Nat) : Nat := (y / 16 * 4 + x / 16) * 256 + y % 16 * 16 + x % 16

/-- Column and row of a cell over the die. -/
def cellX (g : Nat) : Nat := cabX (g / 256) * 16 + g % 16
def cellY (g : Nat) : Nat := cabY (g / 256) * 16 + g % 256 / 16
def cellAt (x y : Nat) : Nat := cabAt (x / 16) (y / 16) * 256 + y % 16 * 16 + x % 16

/-- The neighbour of a cell on a side; none off the die. -/
def neighbour (g : Nat) : Side → Option Nat
  | .w => if cellX g = 0 then none else some (cellAt (cellX g - 1) (cellY g))
  | .e => if cellX g = 1023 then none else some (cellAt (cellX g + 1) (cellY g))
  | .n => if cellY g = 0 then none else some (cellAt (cellX g) (cellY g - 1))
  | .s => if cellY g = 1023 then none else some (cellAt (cellX g) (cellY g + 1))

/-- The gate on a side of a cell: port and channel (R365). -/
def gateOf (g : Nat) (side : Side) : Option (Nat × Nat) :=
  match (List.range 16).find? (fun n => portCab n == g / 256 && gateSide n == side) with
  | none => none
  | some n =>
    match (List.range 16).find? (fun k => gateCell n k == g) with
    | none => none
    | some k => some (n, k)

/-- Where an outgoing channel of a cell leads: a neighbour of its partition, or a gate of a port its partition holds; a
channel across the edge of a partition carries nothing (R108, R366). -/
def chanTo (s : State) (g : Nat) (side : Side) : Option (Nat ⊕ (Nat × Nat)) :=
  match gateOf g side with
  | some (n, k) => if (partOfCell s g).isSome && partOfPort s n == partOfCell s g then some (.inr (n, k)) else none
  | none =>
    match neighbour g side with
    | none => none
    | some h => if (partOfCell s g).isSome && partOfCell s h == partOfCell s g then some (.inl h) else none

/-- The clock of the field of a cell runs (R514, R517). -/
def fieldRuns (s : State) (f : Nat) : Bool := !unitGated s f && !s.clk.unlocked.contains f

/-- The fabric of a cell works: an enabled partition that is not halted holds it, and its clock runs. -/
def cellRuns (s : State) (g : Nat) : Bool :=
  fieldRuns s (g / 65536) &&
    match partOfCell s g with
    | some p => !stands s p
    | none => false

/-- A SCAN.OUT of the full form has stopped issue in the partition of a cell (R220). -/
def issueStops (s : State) (g : Nat) : Bool := (partOfCell s g).any (fun p => (s.part p).frozen)

/-! ### Channels (R105, R193) -/

/-- The OUT field of an outgoing channel. -/
def routeOut (r : BitVec 16) (side : Side) : Nat := fld r (3 * sideNum side) 3
/-- The TO_BENCH bit of an incoming channel. -/
def routeBench (r : BitVec 16) (side : Side) : Bool := fld r (12 + sideNum side) 1 == 1
/-- Outgoing channels whose source is an incoming channel. -/
def routeFrom (r : BitVec 16) (side : Side) : List Side := sides.filter (fun o => routeOut r o == 2 + sideNum side)

/-- The tokens that wait to leave on an outgoing channel: those under way, then those of the bench's output queue. -/
def chanQueue (s : State) (g : Nat) (side : Side) : List Tok :=
  let c := s.cell g
  fourGet c.sw.hop side ++ (if routeOut c.sw.route side = 1 then fiveGet c.bench.outQ (sidePort side) else [])

/-- Tokens that the stages of a boundary hop hold of their own (R106, R107): one for each of its cycles, and across a field
boundary those of the sending field and the 8 entries of the dual-clock queue (log 45). A hop inside a cabinet has none. -/
def hopStages (s : State) (g : Nat) (side : Side) : Nat :=
  match chanTo s g side with
  | some (.inl h) =>
    let x := physCab s (g / 256) % 17
    let y := physCab s (h / 256) % 17
    let apart := max x y - min x y
    if h / 256 = g / 256 then 0
    else if h / 65536 ≠ g / 65536 then 3 + 8
    else if side = .w || side = .e then (if apart = 2 then 5 else 3)
    else if apart = 1 then 4 else 3
  | _ => 0

/-- Places that the receiver of an outgoing channel holds: tokens at the receiving switch, and those in the port queue it
delivers to. -/
def placesHeld (s : State) (g : Nat) (side : Side) : Nat :=
  match chanTo s g side with
  | some (.inl h) =>
    let c := s.cell h
    let d := opposite side
    (fourGet c.sw.wait d).length + (if routeBench c.sw.route d then (fiveGet c.bench.inQ (sidePort d)).length else 0)
  | _ => 0

/-- A token may leave on an outgoing channel: of the 4 credits for the receiving queue one is left (R107, R109), which tokens
under way hold too; on a boundary hop its stages have room. -/
def creditLeft (s : State) (g : Nat) (side : Side) : Bool :=
  let hop := (fourGet (s.cell g).sw.hop side).length
  let n := hopStages s g side
  if n = 0 then hop + placesHeld s g side < 4 else hop < n

/-- The first token of the queue that `chanQueue` gives may arrive: it is under way, or a credit is left for it; from a
boundary hop once the receiver has a place. Nothing leaves a bench of a field without its clock. -/
def chanHead (s : State) (g : Nat) (side : Side) : Option Tok :=
  let none_ := (fourGet (s.cell g).sw.hop side).isEmpty
  let blocked := if hopStages s g side = 0 then none_ && !creditLeft s g side
    else 4 ≤ placesHeld s g side || (none_ && !fieldRuns s (g / 65536))
  if blocked then none else (chanQueue s g side).head?

/-- A token of the bench enters the stages of a boundary hop when they have room (R107). -/
def hopEnter (g : Nat) (side : Side) (s : State) : State :=
  let c := s.cell g
  match fiveGet c.bench.outQ (sidePort side) with
  | t :: rest =>
    if hopStages s g side ≠ 0 && creditLeft s g side && routeOut c.sw.route side = 1 && fieldRuns s (g / 65536) then
      s.setCell g { c with bench := { c.bench with outQ := fiveSet c.bench.outQ (sidePort side) rest },
                           sw := { c.sw with hop := fourSet c.sw.hop side (fourGet c.sw.hop side ++ [t]) } }
    else s
  | [] => s

/-- The first of them is taken. -/
def chanPop (g : Nat) (side : Side) (s : State) : State :=
  let c := s.cell g
  match fourGet c.sw.hop side with
  | _ :: rest => s.setCell g { c with sw := { c.sw with hop := fourSet c.sw.hop side rest } }
  | [] =>
    let b := c.bench
    s.setCell g { c with bench := { b with outQ := fiveSet b.outQ (sidePort side) ((fiveGet b.outQ (sidePort side)).drop 1) } }

/-- Bits of `CAB_CAUSE` (R127). -/
def ccEpoch : Nat := 0
def ccStall : Nat := 1
def ccDowel : Nat := 2
def ccSeq : Nat := 3
def ccPort : Nat := 4
def setCabCause (c bit : Nat) (s : State) : State := s.orReg (rCabCause c) (2 ^ bit)

/-- A fabric fault of a cell: FAULT and a cause bit are set, a report is written, the partition halts (R97, R99, R208). `at_`
is the opcode and the index of the instruction that faulted, when one did (R490). -/
def fabricFault (g bit kind : Nat) (at_ : Nat × Nat) (tag detail : Nat) (s : State) : State :=
  let who := partOfCell s g
  let s := setCabCause (g / 256) bit (setFault g s)
  haltOf who (report { kind := kind, unit := .cell g, part := who, clock := 0, opcode := at_.1, index := at_.2, tag := tag,
                       detail := detail } [] s)

def kindNum : Kind → Nat
  | .data => 0
  | .fin => 1
  | .config => 2
  | .control => 3

end Sys2Proof.Machine
end

