-- ==== Sys2Proof/Machine/Float.lean ====
section
/-! DEFINITION. Numbers: exact values of floating-point patterns and the one rounding of each result (R15, R149,
R256). A value is held exactly; only `FVal.round` rounds. -/

namespace Sys2Proof.Machine

/-- An exact value: a not-a-number, a signed infinity, or (−1)^neg × m × 2^e (with m = 0 a signed zero). -/
inductive FVal where
  | nan
  | inf (neg : Bool)
  | fin (neg : Bool) (m : Nat) (e : Int)
deriving DecidableEq, Repr

/-- A binary format: exponent bits and mantissa bits. -/
structure Fmt where
  eb : Nat
  mb : Nat
deriving DecidableEq, Repr

def fp32 : Fmt := { eb := 8, mb := 23 }
def bf16 : Fmt := { eb := 8, mb := 7 }
def fp16 : Fmt := { eb := 5, mb := 10 }

def Fmt.bias (f : Fmt) : Int := (2 ^ (f.eb - 1) - 1 : Nat)

/-- The pattern of +∞ without its sign. -/
def Fmt.infBits (f : Fmt) : Nat := (2 ^ f.eb - 1) * 2 ^ f.mb

/-- The canonical quiet pattern of R149: 0x7FC0_0000, 0x7FC0, 0x7E00. -/
def Fmt.nanBits (f : Fmt) : Nat := f.infBits + 2 ^ (f.mb - 1)

def Fmt.signBit (f : Fmt) : Nat := 2 ^ (f.eb + f.mb)

/-- The exact value of a pattern of an IEEE 754 format (R149: subnormals are kept). -/
def Fmt.decode (f : Fmt) (x : Nat) : FVal :=
  let neg := x / f.signBit % 2 == 1
  let ef := x / 2 ^ f.mb % 2 ^ f.eb
  let mf := x % 2 ^ f.mb
  if ef = 2 ^ f.eb - 1 then
    if mf = 0 then .inf neg else .nan
  else if ef = 0 then .fin neg mf (1 - f.bias - f.mb)
  else .fin neg (2 ^ f.mb + mf) ((ef : Int) - f.bias - f.mb)

/-- n / 2^k rounded to the nearest integer, ties to even. -/
def shiftRne (n k : Nat) : Nat :=
  let q := n / 2 ^ k
  let r := n % 2 ^ k
  if 2 * r > 2 ^ k ∨ (2 * r = 2 ^ k ∧ q % 2 = 1) then q + 1 else q

/-- m × 2^e rounded to the nearest integer, ties to even. -/
def dyadicRne (m : Nat) (e : Int) : Nat :=
  if 0 ≤ e then m * 2 ^ e.toNat else shiftRne m (-e).toNat

/-- One rounding to nearest even into a format, saturating to infinity as IEEE 754 has it (R149). -/
def Fmt.roundBits (f : Fmt) : FVal → Nat
  | .nan => f.nanBits
  | .inf neg => f.infBits + (if neg then f.signBit else 0)
  | .fin neg m e =>
    let s := if neg then f.signBit else 0
    if m = 0 then s
    else
      let top : Int := max ((m.log2 : Int) + e) (1 - f.bias)
      let n := dyadicRne m (e - (top - f.mb))
      let b := if n < 2 ^ f.mb then n else ((top + f.bias).toNat) * 2 ^ f.mb + (n - 2 ^ f.mb)
      (if f.infBits ≤ b then f.infBits else b) + s

def FVal.round (f : Fmt) (v : FVal) : FVal := f.decode (f.roundBits v)

def FVal.isFinite : FVal → Bool
  | .fin _ _ _ => true
  | _ => false

def FVal.isNan : FVal → Bool
  | .nan => true
  | _ => false

def FVal.neg : FVal → FVal
  | .nan => .nan
  | .inf s => .inf (!s)
  | .fin s m e => .fin (!s) m e

def FVal.abs : FVal → FVal
  | .nan => .nan
  | .inf _ => .inf false
  | .fin _ m e => .fin false m e

/-- The integer of a finite value in units of 2^e₀, for e₀ at or below its exponent. -/
def scaled (neg : Bool) (m : Nat) (e e0 : Int) : Int :=
  let a : Int := (m * 2 ^ (e - e0).toNat : Nat)
  if neg then -a else a

/-- Exact product (IEEE 754: infinity times zero is a not-a-number). -/
def FVal.mul : FVal → FVal → FVal
  | .nan, _ => .nan
  | _, .nan => .nan
  | .inf a, .inf b => .inf (xor a b)
  | .inf a, .fin b m _ => if m = 0 then .nan else .inf (xor a b)
  | .fin a m _, .inf b => if m = 0 then .nan else .inf (xor a b)
  | .fin a m e, .fin b n k => .fin (xor a b) (m * n) (e + k)

/-- Exact sum; an exact zero sum of values that are not both −0 is +0 (round to nearest even). -/
def FVal.add : FVal → FVal → FVal
  | .nan, _ => .nan
  | _, .nan => .nan
  | .inf a, .inf b => if a = b then .inf a else .nan
  | .inf a, .fin _ _ _ => .inf a
  | .fin _ _ _, .inf b => .inf b
  | .fin a m e, .fin b n k =>
    let e0 := min e k
    let i := scaled a m e e0 + scaled b n k e0
    if i = 0 then .fin (a && b && m == 0 && n == 0) 0 0
    else .fin (decide (i < 0)) i.natAbs e0

def FVal.sub (a b : FVal) : FVal := a.add b.neg

/-- a × b + c, exact. -/
def FVal.fma (a b c : FVal) : FVal := (a.mul b).add c

/-- The sign of a − b for two values that are no not-a-number: −1, 0, 1. -/
def FVal.cmp : FVal → FVal → Int
  | .inf a, .inf b => (if a then -1 else 1) - (if b then -1 else 1)
  | .inf a, _ => if a then -1 else 1
  | _, .inf b => if b then 1 else -1
  | .fin a m e, .fin b n k =>
    let e0 := min e k
    (scaled a m e e0 - scaled b n k e0).sign
  | _, _ => 0

def FVal.lt (a b : FVal) : Bool := decide (a.cmp b < 0)
def FVal.le (a b : FVal) : Bool := decide (a.cmp b ≤ 0)
def FVal.eq (a b : FVal) : Bool := decide (a.cmp b = 0)

/-- x × 2^k, exact. -/
def FVal.scale (v : FVal) (k : Int) : FVal :=
  match v with
  | .fin s m e => .fin s m (e + k)
  | v => v

def FVal.isZero : FVal → Bool
  | .fin _ m _ => m == 0
  | _ => false

/-- An integer as a value. -/
def FVal.ofInt (i : Int) : FVal := .fin (decide (i < 0)) i.natAbs 0

/-- The value rounded to the nearest integer, ties to even; 0 for what is no finite value. -/
def FVal.toIntRne : FVal → Int
  | .fin s m e => let n : Int := dyadicRne m e; if s then -n else n
  | _ => 0

/-- floor of a finite value; 0 for what is no finite value. -/
def FVal.floor : FVal → Int
  | .fin s m e =>
    if 0 ≤ e then scaled s m e 0
    else
      let d : Int := (2 ^ (-e).toNat : Nat)
      (if s then -(m : Int) else m) / d
  | _ => 0

/-- The smallest integer x with a ≤ c × 2^x, for a and c of magnitude above 0 (R237, R248). -/
def smallestExp (a c : FVal) : Int :=
  match a, c with
  | .fin _ m e, .fin _ n k =>
    let x0 := ((m.log2 : Int) + e) - ((n.log2 : Int) + k) - 1
    if (FVal.fin false m e).le (.fin false n (k + x0)) then x0
    else if (FVal.fin false m e).le (.fin false n (k + x0 + 1)) then x0 + 1
    else x0 + 2
  | _, _ => 0

/-- Newton's iteration for the integer square root, from above. -/
def isqrtLoop : Nat → Nat → Nat → Nat
  | 0, _, x => x
  | fuel + 1, n, x =>
    let y := (x + n / x) / 2
    if y < x then isqrtLoop fuel n y else x

/-- floor(√n). -/
def isqrt (n : Nat) : Nat :=
  if n = 0 then 0 else isqrtLoop 400 n (2 ^ (n.log2 / 2 + 1))

/-- A value from a truncated quotient or root q × 2^e: when the exact value is not q × 2^e, one more bit stands for
the rest, so that one rounding of the result is the rounding of the exact value. -/
def withSticky (neg : Bool) (q : Nat) (e : Int) (exact : Bool) : FVal :=
  .fin neg (2 * q + (if exact then 0 else 1)) (e - 1)

/-- 1/a (R153). -/
def FVal.rcp : FVal → FVal
  | .nan => .nan
  | .inf s => .fin s 0 0
  | .fin s m e =>
    if m = 0 then .inf s
    else
      let k := 64 + m.log2
      withSticky s (2 ^ k / m) (-(k : Int) - e) (2 ^ k % m == 0)

/-- 1/√a (R153). -/
def FVal.rsqrt : FVal → FVal
  | .nan => .nan
  | .inf s => if s then .nan else .fin false 0 0
  | .fin s m e =>
    if m = 0 then .inf s
    else if s then .nan
    else
      let m' := if e % 2 = 0 then m else 2 * m
      let e' := if e % 2 = 0 then e else e - 1
      let k := 64 + m'.log2
      let q := isqrt (2 ^ (2 * k) / m')
      withSticky false q (-(k : Int) - e' / 2) (q * q * m' == 2 ^ (2 * k))

/-- The product of the roots 2^(2^−i) that the bits of a binary fraction name, in units of 2^−160. `i` counts the bits
left, `c` is the root of the present bit. -/
def exp2Loop : Nat → Nat → Nat → Nat → Nat
  | 0, _, _, p => p
  | i + 1, f, c, p =>
    let p' := if f / 2 ^ i % 2 = 1 then p * c / 2 ^ 160 else p
    exp2Loop i f (isqrt (c * 2 ^ 160)) p'

/-- 2^a (R153). A magnitude below 2^−26 gives a result that rounds to 1; one of 512 or more leaves the range of every
format. -/
def FVal.exp2 : FVal → FVal
  | .nan => .nan
  | .inf s => if s then .fin false 0 0 else .inf false
  | .fin s m e =>
    if m = 0 then .fin false 1 0
    else if 9 ≤ (m.log2 : Int) + e then
      if s then .fin false 0 0 else .inf false
    else if (m.log2 : Int) + e < -26 then .fin false 1 0
    else
      let i := scaled s m e (-60)
      let whole := i / (2 ^ 60 : Nat)
      let f := (i % (2 ^ 60 : Nat)).toNat
      let p := exp2Loop 60 f (isqrt (2 * 2 ^ 320)) (2 ^ 160)
      withSticky false p (whole - 160) (f == 0)

/-- Bits of the binary logarithm of y ∈ [1, 2), y in units of 2^−200, by repeated squaring; `acc` holds the bits so
far. -/
def log2Loop : Nat → Nat → Nat → Nat
  | 0, _, acc => acc
  | i + 1, y, acc =>
    let z := y * y / 2 ^ 200
    if 2 ^ 201 ≤ z then log2Loop i (z / 2) (2 * acc + 1) else log2Loop i z (2 * acc)

/-- log₂ a (R153). -/
def FVal.log2 : FVal → FVal
  | .nan => .nan
  | .inf s => if s then .nan else .inf false
  | .fin s m e =>
    if m = 0 then .inf true
    else if s then .nan
    else
      let whole := (m.log2 : Int) + e
      if m = 2 ^ m.log2 then .ofInt whole
      else
        let frac := log2Loop 100 (m * 2 ^ (200 - m.log2)) 0
        let t := 2 * (whole * (2 ^ 100 : Nat) + frac) + 1
        .fin (decide (t < 0)) t.natAbs (-101)

/-- FP32 patterns. -/
abbrev F32 := BitVec 32
def f32 (x : F32) : FVal := fp32.decode x.toNat
def toF32 (v : FVal) : F32 := BitVec.ofNat 32 (fp32.roundBits v)
def toBf16 (v : FVal) : BitVec 16 := BitVec.ofNat 16 (bf16.roundBits v)
def ofBf16 (x : BitVec 16) : FVal := bf16.decode x.toNat

/-- One FP32 operation each (R15, R149). -/
def addF32 (a b : F32) : F32 := toF32 ((f32 a).add (f32 b))
def mulF32 (a b : F32) : F32 := toF32 ((f32 a).mul (f32 b))
def fmaF32 (a b c : F32) : F32 := toF32 ((f32 a).fma (f32 b) (f32 c))

/-- The pattern holds a not-a-number or an infinity. -/
def nonFiniteF32 (x : F32) : Bool := !(f32 x).isFinite

theorem toF32_one : toF32 (.fin false 1 0) = 0x3F800000 := by decide

end Sys2Proof.Machine
end

