-- ==== Sys2Proof/Machine/Operands.lean ====
section
/-! DEFINITION. Operands: the fields of bench words, drawer words and pattern sets (04), lanes of registers, and which
registers an instruction reads and writes. -/

namespace Sys2Proof.Machine

/-! ### Fields of a bench word (R132) -/

def wOp (w : Word) : Nat := fld w 58 6
def wFmt (w : Word) : Nat := fld w 56 2
def wFire (w : Word) : Nat := fld w 51 5
def wEmit (w : Word) : Nat := fld w 46 5
def wTagop (w : Word) : Nat := fld w 44 2
def wKidx (w : Word) : Nat := fld w 40 4
def wCk (w : Word) : Kind := if fld w 39 1 = 1 then .control else .data

/-- Ports of the firing mask and of the emit mask, in port order. -/
def firePorts (w : Word) : List Port := maskPorts (wFire w)
def emitPorts (w : Word) : List Port := maskPorts (wEmit w)

/-- Opcodes (R138). -/
def opQMUL : Nat := 0x01
def opQMULT : Nat := 0x02
def opLDPT : Nat := 0x03
def opACCZ : Nat := 0x04
def opACCX : Nat := 0x05
def opFMA : Nat := 0x08
def opADD : Nat := 0x09
def opMUL : Nat := 0x0A
def opMAX : Nat := 0x0B
def opCMP : Nat := 0x0C
def opSEL : Nat := 0x0D
def opRSQRT : Nat := 0x10
def opRCP : Nat := 0x11
def opEXP2 : Nat := 0x12
def opLOG2 : Nat := 0x13
def opLSUM : Nat := 0x14
def opSHUF : Nat := 0x15
def opSTEER : Nat := 0x18
def opMERGE : Nat := 0x19
def opTAGX : Nat := 0x1A
def opQNT : Nat := 0x20
def opDQT : Nat := 0x21
def opUPD : Nat := 0x22
def opUPDS : Nat := 0x23

/-- Format of an opcode (R138); none for a reserved opcode. -/
def opFormat (op : Nat) : Option Nat :=
  if 0x01 ≤ op && op ≤ 0x04 then some 0
  else if op = 0x05 || (0x08 ≤ op && op ≤ 0x0D) || (0x10 ≤ op && op ≤ 0x15) then some 1
  else if 0x18 ≤ op && op ≤ 0x1A then some 2
  else if 0x20 ≤ op && op ≤ 0x23 then some 3
  else none

/-! ### Lanes and bytes of a register -/

def lane32 (x : Row) (i : Nat) : BitVec 32 := BitVec.ofNat 32 (fld x (32 * i) 32)
def lane16 (x : Row) (i : Nat) : BitVec 16 := BitVec.ofNat 16 (fld x (16 * i) 16)
def rowByte (x : Row) (i : Nat) : Nat := fld x (8 * i) 8
/-- Byte `i` read as a signed value. -/
def rowInt8 (x : Row) (i : Nat) : Int := toSigned (rowByte x i) 8

/-- Entries of `w` bits laid one after another, entry 0 lowest. -/
def joinBits (w : Nat) : List Nat → Nat
  | [] => 0
  | v :: vs => v % 2 ^ w + (joinBits w vs) <<< w

def rowOf32 (f : Nat → BitVec 32) : Row := BitVec.ofNat 256 (joinBits 32 ((List.range 8).map (fun i => (f i).toNat)))
def rowOf16 (f : Nat → BitVec 16) : Row := BitVec.ofNat 256 (joinBits 16 ((List.range 16).map (fun i => (f i).toNat)))
def rowOf8 (f : Nat → Nat) : Row := BitVec.ofNat 256 (joinBits 8 ((List.range 32).map f))

/-- Half `h` of a row replaced by 8 lanes of 16 bits (R148). -/
def setHalf (old : Row) (h : Nat) (f : Nat → BitVec 16) : Row :=
  setFld old (128 * h) 128 (joinBits 16 ((List.range 8).map (fun i => (f i).toNat)))

/-! ### Registers -/

def Regs.vr (r : Regs) (i : Nat) : Row := sget 0 r.v i
def Regs.setV (r : Regs) (i : Nat) (x : Row) : Regs := { r with v := sset r.v i x }
def Regs.ac (r : Regs) (n : Nat) : BitVec 32 := sget 0 r.acc n
def Regs.setAc (r : Regs) (n : Nat) (x : BitVec 32) : Regs := { r with acc := sset r.acc n x }
def Regs.satBit (r : Regs) (n : Nat) : Bool := fld r.sat n 1 == 1
def Regs.setSat (r : Regs) (n : Nat) (b : Bool) : Regs := { r with sat := setFld r.sat n 1 b.toNat }
/-- The residue modulo 7 and the even parity that a table entry is written with (R471). -/
def residue (v : BitVec 16) : Nat := (toSigned v.toNat 16 % 7).toNat
def popCount (n : Nat) : Nat → Nat
  | 0 => 0
  | k + 1 => n / 2 ^ k % 2 + popCount n k
def entryParity (v : BitVec 16) (res : Nat) : Bool := (popCount v.toNat 16 + popCount res 3) % 2 == 1
def ptWrite (v : BitVec 16) : PtEntry :=
  { val := v, res := BitVec.ofNat 3 (residue v), par := entryParity v (residue v) }
def Regs.entry (r : Regs) (t e : Nat) : PtEntry := sget (ptWrite 0) r.tables (256 * t + e)
/-- Load one row of a product table, parity included (R145, R195). -/
def Regs.loadRow (r : Regs) (t row : Nat) (src : Row) : Regs :=
  { r with tables := (List.range 16).foldl (fun m i => sset m (256 * t + 16 * row + i) (ptWrite (lane16 src i))) r.tables }
def Regs.loadExp (r : Regs) (t : Nat) (src : Row) : Regs := { r with texp := sset r.texp t (BitVec.ofNat 8 (rowByte src 0)) }
def Regs.exponent (r : Regs) (t : Nat) : Int := (sget 0 r.texp t).toInt

/-! ### What a firing reads -/

/-- What a firing computes from: its word, its tag, the consumed tokens, the registers and the values of the cell and
the partition it reads (R478). -/
structure FireIn where
  g     : Nat
  idx   : Nat
  word  : Word
  tag   : BitVec 16
  toks  : Five (Option Tok)
  regs  : Regs
  k     : List (BitVec 16)
  coef  : List (BitVec 32)
  step  : BitVec 32
  jig   : BitVec 32
  epoch : Bool
  small : Bool
  qmult : Bool
deriving DecidableEq, Repr

def portOf (n : Nat) : Port := if n = 0 then .w else if n = 1 then .n else if n = 2 then .e else if n = 3 then .s else .d

/-- Payload of the token consumed on a port; zero when there is none. -/
def FireIn.payload (x : FireIn) (p : Port) : Row :=
  match fiveGet x.toks p with
  | some t => t.payload
  | none => 0

/-- A source operand: selector bit at `sel`, field at `lo` (R136). -/
def FireIn.src (x : FireIn) (sel lo : Nat) : Row :=
  if fld x.word sel 1 = 1 then x.payload (portOf (fld x.word lo 3)) else x.regs.vr (fld x.word lo 5)

/-- The tokens consumed, in port order. -/
def FireIn.consumed (x : FireIn) : List Tok := (firePorts x.word).filterMap (fun p => fiveGet x.toks p)

def FireIn.kc (x : FireIn) (i : Nat) : BitVec 16 := x.k.getD (i % 16) 0

/-- The emitted tag T′ (R134). -/
def FireIn.outTag (x : FireIn) (bubble : Bool) : BitVec 16 :=
  let k := x.kc (wKidx x.word)
  if wTagop x.word = 1 then x.tag + k
  else if wTagop x.word = 2 then BitVec.ofNat 16 (x.tag.toNat % k.toNat)
  else if wTagop x.word = 3 && !bubble then
    match x.consumed.find? (fun t => t.kind == .control) with
    | some t => BitVec.ofNat 16 (fld t.payload 16 16)
    | none => x.tag
  else x.tag

/-! ### Registers read and written, for R90, R94, R95 and R137 -/

/-- Register 32 stands for the accumulators (R94). -/
def accReg : Nat := 32

/-- The register a source operand names. -/
def srcReg (w : Word) (sel lo : Nat) : List Nat := if fld w sel 1 = 1 then [] else [fld w lo 5]

/-- Operands a, b, c a vector opcode uses (R152). -/
def usesB (op : Nat) : Bool := op ≤ opSEL || op == opSHUF
def usesC (op : Nat) : Bool := op == opFMA || op == opSEL || op == opSHUF

/-- A vector instruction that writes half of VD only (R148, R154). -/
def halfWrite (w : Word) : Bool :=
  (fld w 37 2 == 1 || fld w 37 2 == 2) && !(wOp w == opADD && fld w 11 2 == 2)

def regsFrom (r n : Nat) : List Nat := (List.range n).map (· + r)

def wordReads (w : Word) : List Nat :=
  let op := wOp w
  if op = opQMUL then srcReg w 34 29 ++ srcReg w 27 22 ++ (if fld w 35 1 = 1 then [] else [accReg])
  else if op = opQMULT then srcReg w 34 29 ++ srcReg w 27 22 ++ [accReg]
  else if op = opLDPT then srcReg w 31 26
  else if op = opACCZ then (if fld w 0 16 = 0xFFFF then [] else [accReg])
  else if op = opACCX then srcReg w 30 25 ++ [fld w 19 5, accReg]
  else if wFmt w = 1 then
    srcReg w 30 25 ++ (if usesB op then srcReg w 24 19 else []) ++ (if usesC op then srcReg w 18 13 else [])
      ++ (if halfWrite w then [fld w 31 5] else [])
  else if op = opMERGE then (if (List.range 8).any (fun i => fld w (3 * i) 3 == 5) then [fld w 28 5] else [])
  else if op = opQNT then
    regsFrom (fld w 24 5) (if fld w 34 1 = 0 then 4 else 2) ++ [fld w 19 5, fld w 14 5, fld w 9 5, fld w 29 5]
  else if op = opDQT then [fld w 24 5, fld w 19 5, fld w 14 5, fld w 9 5]
  else if op = opUPD || op = opUPDS then
    regsFrom (fld w 33 5) 4 ++ regsFrom (fld w 28 5) 2 ++ regsFrom (fld w 23 5) 2 ++ [fld w 18 5]
      ++ (if op = opUPDS then [fld w 13 5] else [])
  else []

def wordWrites (w : Word) : List Nat :=
  let op := wOp w
  if op = opQMUL || op = opQMULT || op = opACCZ then [accReg]
  else if op = opACCX then fld w 31 5 :: (if fld w 12 1 = 1 then [accReg] else [])
  else if wFmt w = 1 then [fld w 31 5]
  else if op = opMERGE || op = opTAGX then (if fld w 38 1 = 1 then [fld w 33 5] else [])
  else if op = opQNT then [fld w 29 5, fld w 14 5, fld w 9 5]
  else if op = opDQT then regsFrom (fld w 29 5) (if fld w 34 1 = 0 then 4 else 2)
  else if op = opUPD || op = opUPDS then
    regsFrom (fld w 28 5) 2 ++ regsFrom (fld w 23 5) 2 ++ [fld w 18 5] ++ (if op = opUPDS then [fld w 13 5] else [])
  else []

/-! ### Pattern sets and drawer words (R170–R182) -/

/-- Access count of a pattern set. -/
def patCount (ps : Word) : Nat := (fld ps 0 7 + 1) * (fld ps 7 7 + 1) * (fld ps 14 7 + 1) * (fld ps 21 7 + 1)

/-- Row of access `k` of an affine word with pattern set `ps`, before any check (R176). -/
def affineRow (w ps : Word) (k : Nat) : Int :=
  let n0 := fld ps 0 7 + 1
  let n1 := fld ps 7 7 + 1
  let n2 := fld ps 14 7 + 1
  let r := k / patCount ps
  let q := k % patCount ps
  let st := fun lo => toSigned (fld ps lo 9) 9
  (fld w 46 9 : Int) + r * toSigned (fld w 3 9) 9 + (q % n0 : Nat) * st 28 + (q / n0 % n1 : Nat) * st 37
    + (q / (n0 * n1) % n2 : Nat) * st 46 + (q / (n0 * n1 * n2) : Nat) * st 55

/-- Accesses of an affine word. -/
def affineCount (w ps : Word) : Nat := patCount ps * (fld w 12 12 + 1)

end Sys2Proof.Machine
end

