-- ==== Sys2Proof/Machine/Stages.lean ====
section
/-! DEFINITION. The execution stages of a bench (04, 06, 07): what each opcode computes from what it reads. -/

namespace Sys2Proof.Machine

/-- What an execution stage produces: the registers after it, the payload of the emitted tokens, the residue and parity
faults it met (kind of the report, and its detail), the counts of a quantiser (R264). -/
structure StageOut where
  regs    : Regs
  payload : Row
  nan     : Bool := false
  faults  : List (Nat × Nat) := []
  count   : Nat := 0
deriving DecidableEq, Repr

/-- Payload of the token consumed on the first port of FIRE; zero with an empty FIRE (R138). -/
def FireIn.through (x : FireIn) : Row :=
  match x.consumed with
  | t :: _ => t.payload
  | [] => 0

/-! ### Array (R139–R147) -/

/-- Code `j` of the selected half of an operand (R140). -/
def codeAt (v : Row) (h : Nat) (c2 : Bool) (j : Nat) : Nat :=
  if c2 then fld v (128 * h + 2 * j) 2 else fld v (128 * h + 4 * j) 4

/-- The table entries that unit `u` of array `a` selects (R140, R141). -/
def unitEntries (x : FireIn) (a u : Nat) : List (Nat × PtEntry) :=
  let w := x.word
  let pt := fld w 37 2
  let c2 := fld w 36 1 == 1
  let wgt := x.src 34 29
  let act := x.src 27 22
  let k := if c2 then 16 else 8
  (List.range k).map (fun j =>
    let wc := codeAt wgt (fld w 28 1) c2 (k * u + j)
    let ac := codeAt act (fld w 21 1) c2 (k * a + j)
    let e := (if c2 then 4 else 16) * ac + wc
    (e, x.regs.entry pt e))

/-- The exact sum of signed entries. -/
def treeSum (es : List (Nat × PtEntry)) : Int := (es.map (fun e => toSigned e.2.val.toNat 16)).foldl (· + ·) 0

/-- The residue fault of one unit (R471): kind 1 with the unit and the tree sum. -/
def unitFaults (n : Nat) (es : List (Nat × PtEntry)) : List (Nat × Nat) :=
  let s := treeSum es
  let r := (es.map (fun e => e.2.res.toNat)).foldl (· + ·) 0
  if (r % 7 : Nat) = s % 7 then [] else [(1, pack [(0, 4, n), (32, 32, (s % 2 ^ 32).toNat)])]

/-- The entries whose parity fails (R471). -/
def badParity (es : List (Nat × PtEntry)) : List Nat :=
  es.filterMap (fun e => if e.2.par = entryParity e.2.val e.2.res.toNat then none else some e.1)

/-- Saturation to signed 32 bits (R141). -/
def satI32 (t : Int) : Int := if t > 2 ^ 31 - 1 then 2 ^ 31 - 1 else if t < -2 ^ 31 then -2 ^ 31 else t

/-- Unit n of QMUL (R141). -/
def qmulUnit (x : FireIn) (r : Regs) (n : Nat) : Regs :=
  let za := fld x.word 35 1 == 1
  let s := treeSum (unitEntries x (n / 4) (n % 4))
  let t := (if za then 0 else (r.ac n).toInt) + s
  let v := satI32 t
  let r := if v ≠ t then r.setSat n true else if za then r.setSat n false else r
  r.setAc n (BitVec.ofInt 32 v)

/-- Unit n of QMULT (R143). -/
def qmultUnit (x : FireIn) (r : Regs) (n : Nat) : Regs :=
  r.setAc n (r.ac n + BitVec.ofInt 32 (treeSum (unitEntries x (n / 4) (n % 4))))

/-- Residue and parity faults of a firing (R471): a selected entry is one parity fault, however many units select it
(DEDUCED, log 24); its kind is 2, its detail the table and the entry. -/
def arrayFaults (x : FireIn) : List (Nat × Nat) :=
  let unit := fun n => unitEntries x (n / 4) (n % 4)
  (List.range 16).flatMap (fun n => unitFaults n (unit n))
    ++ ((List.range 16).flatMap (fun n => badParity (unit n))).eraseDups.map (fun e =>
        (2, pack [(0, 2, fld x.word 37 2), (2, 8, e)]))

def stQmul (x : FireIn) : StageOut :=
  { regs := (List.range 16).foldl (qmulUnit x) x.regs, payload := x.through, faults := arrayFaults x }

def stQmult (x : FireIn) : StageOut :=
  { regs := (List.range 16).foldl (qmultUnit x) x.regs, payload := x.through, faults := arrayFaults x }

def stLdpt (x : FireIn) : StageOut :=
  let w := x.word
  let src := x.src 31 26
  { regs := if fld w 36 1 = 1 then x.regs.loadExp (fld w 37 2) src else x.regs.loadRow (fld w 37 2) (fld w 32 4) src,
    payload := x.through }

/-- Accumulators and saturation bits of a mask set to 0. -/
def clearAcc (mask : Nat) (r : Regs) : Regs :=
  (List.range 16).foldl (fun r n => if bitsOf mask n 1 = 1 then (r.setAc n 0).setSat n false else r) r

def stAccz (x : FireIn) : StageOut := { regs := clearAcc (fld x.word 0 16) x.regs, payload := x.through }

/-- Lane i of ACCX (R156). -/
def accxLane (x : FireIn) (i : Nat) : F32 :=
  let w := x.word
  let ah := fld w 36 1
  let n := 8 * ah + i
  let vx := x.regs.vr (fld w 19 5)
  let e := x.regs.exponent (fld w 9 2) + rowInt8 vx (i % 4) + rowInt8 vx (4 + 2 * ah + i / 4)
  let acc := (x.regs.ac n).toInt
  if x.regs.satBit n && !x.qmult then toF32 (.inf (decide (acc ≤ 0)))
  else toF32 ((f32 (lane32 (x.src 30 25) i)).add ((FVal.ofInt acc).scale e))

def stAccx (x : FireIn) : StageOut :=
  let w := x.word
  let v := rowOf32 (accxLane x)
  let r := if fld w 12 1 = 1 then clearAcc (0xFF <<< (8 * fld w 36 1)) x.regs else x.regs
  { regs := r.setV (fld w 31 5) v, payload := v, nan := (List.range 8).any (fun i => nonFiniteF32 (lane32 v i)) }

/-! ### Vector (R148–R154) -/

/-- The format of TY 0, 1, 2. -/
def tyFmt (ty : Nat) : Fmt := if ty = 1 then bf16 else if ty = 2 then fp16 else fp32

/-- Lanes of a vector instruction: 8 of 32 bits, or 8 of 16 bits of half H. -/
def vlane (ty h : Nat) (v : Row) (i : Nat) : Nat :=
  if ty = 1 || ty = 2 then fld v (128 * h + 16 * i) 16 else fld v (32 * i) 32

/-- The register with 8 lanes written. -/
def vwrite (ty h : Nat) (old : Row) (f : Nat → Nat) : Row :=
  if ty = 1 || ty = 2 then setHalf old h (fun i => BitVec.ofNat 16 (f i)) else rowOf32 (fun i => BitVec.ofNat 32 (f i))

/-- max or min (R152): a not-a-number gives a not-a-number, +0 lies above −0. -/
def fmax (isMin : Bool) (a b : FVal) : FVal :=
  match a, b with
  | .nan, _ => .nan
  | _, .nan => .nan
  | a, b =>
    if a.isZero && b.isZero then
      match a, b with
      | .fin s _ _, .fin t _ _ => .fin (if isMin then s || t else s && t) 0 0
      | a, _ => a
    else if a.lt b = isMin then a else b

/-- A comparison of R152 on floating-point values. -/
def fcond (c : Nat) (a b : FVal) : Bool :=
  let un := a.isNan || b.isNan
  if c = 0 then !un && a.eq b
  else if c = 1 then un || !a.eq b
  else if c = 2 then !un && a.lt b
  else if c = 3 then !un && a.le b
  else if c = 4 then !un && b.lt a
  else if c = 5 then !un && b.le a
  else if c = 6 then un
  else false

/-- A comparison of R152 on signed integers. -/
def icond (c : Nat) (a b : Int) : Bool :=
  if c = 0 then a == b
  else if c = 1 then a != b
  else if c = 2 then a < b
  else if c = 3 then a ≤ b
  else if c = 4 then b < a
  else if c = 5 then b ≤ a
  else false

/-- The operands of a vector instruction. -/
def opA (x : FireIn) : Row := x.src 30 25
def opB (x : FireIn) : Row := x.src 24 19
def opC (x : FireIn) : Row := x.src 18 13

def vty (x : FireIn) : Nat := fld x.word 37 2
def vhalf (x : FireIn) : Nat := fld x.word 36 1
def vdst (x : FireIn) : Nat := fld x.word 31 5

/-- Write 8 lanes of type `ty` to VD; `fp` says that the result is floating point (R150). -/
def vput (x : FireIn) (ty : Nat) (fp : Bool) (f : Nat → Nat) : StageOut :=
  let v := vwrite ty (vhalf x) (x.regs.vr (vdst x)) f
  { regs := x.regs.setV (vdst x) v, payload := v,
    nan := fp && (List.range 8).any (fun i => !((tyFmt ty).decode (vlane ty (vhalf x) v i)).isFinite) }

/-- A lane-by-lane operation: `fl` on floating-point values, `int` on words modulo 2^32. -/
def vmap (x : FireIn) (fl : FVal → FVal → FVal → FVal) (int : BitVec 32 → BitVec 32 → BitVec 32 → BitVec 32) :
    StageOut :=
  let ty := vty x
  let h := vhalf x
  if ty = 3 then
    vput x 3 false (fun i => (int (lane32 (opA x) i) (lane32 (opB x) i) (lane32 (opC x) i)).toNat)
  else
    let d := fun v i => (tyFmt ty).decode (vlane ty h v i)
    vput x ty true (fun i => (tyFmt ty).roundBits (fl (d (opA x) i) (d (opB x) i) (d (opC x) i)))

def stFma (x : FireIn) : StageOut := vmap x (fun a b c => a.fma b c) (fun a b c => a * b + c)
def stMul (x : FireIn) : StageOut := vmap x (fun a b _ => a.mul b) (fun a b _ => a * b)

def stMax (x : FireIn) : StageOut :=
  let isMin := fld x.word 0 1 == 1
  vmap x (fun a b _ => fmax isMin a b) (fun a b _ => if decide (a.toInt < b.toInt) = isMin then a else b)

/-- ADD with its narrowing and widening forms (R154). -/
def stAdd (x : FireIn) : StageOut :=
  let cv := fld x.word 11 2
  let ty := vty x
  if cv = 1 then
    vput x ty true (fun i => (tyFmt ty).roundBits ((f32 (lane32 (opA x) i)).add (f32 (lane32 (opB x) i))))
  else if cv = 2 then
    let d := fun v i => (tyFmt ty).decode (vlane ty (vhalf x) v i)
    vput x 0 true (fun i => fp32.roundBits ((d (opA x) i).add (d (opB x) i)))
  else vmap x (fun a b _ => a.add b) (fun a b _ => a + b)

def stCmp (x : FireIn) : StageOut :=
  let c := fld x.word 0 3
  let ty := vty x
  let h := vhalf x
  let ones := if ty = 1 || ty = 2 then 0xFFFF else 0xFFFFFFFF
  vput x ty false (fun i =>
    let t := if ty = 3 then icond c (lane32 (opA x) i).toInt (lane32 (opB x) i).toInt
      else fcond c ((tyFmt ty).decode (vlane ty h (opA x) i)) ((tyFmt ty).decode (vlane ty h (opB x) i))
    if t then ones else 0)

/-- SEL: a lane of c that holds any bit is non-zero. -/
def stSel (x : FireIn) : StageOut :=
  let ty := vty x
  let h := vhalf x
  vput x ty false (fun i => if vlane ty h (opC x) i = 0 then vlane ty h (opB x) i else vlane ty h (opA x) i)

/-- A V2 function on FP32 lanes (R153). -/
def v2map (x : FireIn) (f : FVal → FVal) : StageOut := vput x 0 true (fun i => fp32.roundBits (f (f32 (lane32 (opA x) i))))

def stRsqrt (x : FireIn) : StageOut := v2map x FVal.rsqrt
def stRcp (x : FireIn) : StageOut := v2map x FVal.rcp
def stExp2 (x : FireIn) : StageOut := v2map x FVal.exp2
def stLog2 (x : FireIn) : StageOut := v2map x FVal.log2

def stLsum (x : FireIn) : StageOut :=
  let l := fun i => lane32 (opA x) i
  let s := addF32 (addF32 (addF32 (l 0) (l 1)) (addF32 (l 2) (l 3))) (addF32 (addF32 (l 4) (l 5)) (addF32 (l 6) (l 7)))
  vput x 0 true (fun _ => s.toNat)

def stShuf (x : FireIn) : StageOut :=
  let v := rowOf8 (fun j =>
    let c := rowByte (opC x) j
    if bitsOf c 7 1 = 1 then 0
    else if c % 64 < 32 then rowByte (opA x) (c % 64) else rowByte (opB x) (c % 64 - 32))
  { regs := x.regs.setV (vdst x) v, payload := v }

/-! ### Token (R158–R160) -/

def stSteer (x : FireIn) : StageOut :=
  { regs := x.regs, payload := match x.consumed.find? (fun t => t.kind != .control) with
      | some t => t.payload
      | none => 0 }

/-- MERGE (R159). -/
def stMerge (x : FireIn) : StageOut :=
  let w := x.word
  let v := rowOf32 (fun i =>
    let sel := fld w (3 * i) 3
    if sel ≤ 4 then lane32 (x.payload (portOf sel)) i
    else if sel = 5 then lane32 (x.regs.vr (fld w 28 5)) i else 0)
  { regs := if fld w 38 1 = 1 then x.regs.setV (fld w 33 5) v else x.regs, payload := v }

/-- TAGX (R160). -/
def stTagx (x : FireIn) : StageOut :=
  let w := x.word
  let v := rowOf32 (fun i => BitVec.ofNat 32 (if fld w 32 1 = 1 then x.tag.toNat else (x.tag.toNat + i) % 65536))
  { regs := if fld w 38 1 = 1 then x.regs.setV (fld w 33 5) v else x.regs, payload := v }

/-! ### Codes and codebooks (R161, R229–R240) -/

/-- Entries of a codebook register: 16, or the 4 of a C2 codebook (R230). -/
def codebook (vc : Row) (c2 : Bool) : List FVal :=
  (List.range (if c2 then 4 else 16)).map (fun i => ofBf16 (lane16 vc i))

/-- Indices and values of the ordinary entries (R231). -/
def ordinaryEntries (b : List FVal) : List (Nat × FVal) :=
  b.zipIdx.filterMap (fun e => if e.1.isFinite then some (e.2, e.1) else none)

/-- The escape code (R161). -/
def escapeCode (b : List FVal) : Option Nat := b.findIdx? FVal.isNan

/-- The value of largest magnitude, as a magnitude; 0 for none. -/
def largestAbs (vs : List FVal) : FVal := vs.foldl (fun a v => if a.lt v.abs then v.abs else a) (.fin false 0 0)

/-- Cmax of a codebook (R231). -/
def cmaxOf (b : List FVal) : FVal := largestAbs ((ordinaryEntries b).map (·.2))

/-- The tie rule of R238 among codes. -/
def pickCode (cs : List Nat) : Nat :=
  match cs.find? (fun c => c % 2 == 0) with
  | some c => c
  | none => cs.headD 0

/-- `nearest` (R238). -/
def nearestCode (b : List FVal) (u : FVal) : Nat :=
  let ds := (ordinaryEntries b).map (fun e => (e.1, (e.2.sub u).abs))
  match ds with
  | [] => 0
  | d :: rest =>
    let m := rest.foldl (fun m e => if e.2.lt m then e.2 else m) d.2
    pickCode ((ds.filter (fun e => e.2.eq m)).map (·.1))

/-- A finite value as a number of units 2^e0, for e0 at or below its exponent. -/
def unitsOf (e0 : Int) : FVal → Int
  | .fin s m e => scaled s m e e0
  | _ => 0

def expOf : FVal → Int
  | .fin _ _ e => e
  | _ => 0

/-- `mix` of R240. -/
def mix64 (z : Word) : Word :=
  let z := z + 0x9E3779B97F4A7C15
  let z := (z ^^^ (z >>> 30)) * 0xBF58476D1CE4E5B9
  let z := (z ^^^ (z >>> 27)) * 0x94D049BB133111EB
  z ^^^ (z >>> 31)

/-- The stochastic value of R240. -/
def stochR (jig step : BitVec 32) (g : Nat) (tag : BitVec 16) (i l k : Nat) : Nat :=
  let key := BitVec.ofNat 64 (jig.toNat * 2 ^ 32 + step.toNat)
  let ctr := BitVec.ofNat 64 (g <<< 44 ||| tag.toNat <<< 28 ||| i <<< 22 ||| l <<< 21 ||| k <<< 16)
  fld (mix64 (mix64 key ^^^ ctr)) 48 16

def FireIn.rand (x : FireIn) (l k : Nat) : Nat := stochR x.jig x.step x.g x.tag x.idx l k

/-- `stochastic` with its random value (R239). -/
def stochCode (b : List FVal) (u : FVal) (r : Nat) : Nat :=
  let os := ordinaryEntries b
  let below := os.filter (fun e => e.2.lt u)
  let above := os.filter (fun e => u.lt e.2)
  if os.any (fun e => e.2.eq u) then nearestCode b u
  else match below, above with
    | lo :: los, hi :: his =>
      let L := los.foldl (fun m e => if m.lt e.2 then e.2 else m) lo.2
      let U := his.foldl (fun m e => if e.2.lt m then e.2 else m) hi.2
      let e0 := min (min (expOf L) (expOf U)) (expOf u)
      let t := (65536 * (unitsOf e0 u - unitsOf e0 L)) / (unitsOf e0 U - unitsOf e0 L)
      let v := if (r : Int) < t then U else L
      pickCode ((os.filter (fun e => e.2.eq v)).map (·.1))
    | _, _ => nearestCode b u

/-! ### QNT and DQT (R162–R165, R237) -/

/-- Quantiser state while elements are taken in order: codes so far, records, overflows, saturations, NaN. -/
structure QState where
  codes : List Nat := []
  recs  : List Nat := []
  ovf   : Nat := 0
  sat   : Nat := 0
  nan   : Bool := false
deriving DecidableEq, Repr

/-- The exponent of R237 and the one that counts into XMAX (R271). -/
def blockExp (vs : List FVal) (cmax : FVal) (t : Int) (trued : Bool) : Int × Int :=
  let a := largestAbs (vs.filter FVal.isFinite)
  let x := if cmax.isZero then t else if a.isZero then -128 else min (max (smallestExp a cmax) (-128)) t
  (if trued then t else x, x)

/-- One element of R237; `r` is its stochastic value when RM is 1. -/
def quantOne (b : List FVal) (x : Int) (r : Option Nat) (q : QState) (v : FVal) (k : Nat) : QState :=
  let u := v.scale (-x)
  let lim := (cmaxOf b).scale x
  let put := fun (q : QState) c => { q with codes := q.codes ++ [c] }
  if !v.isFinite then put { q with nan := true } 0
  else if lim.lt v.abs then
    match escapeCode b with
    | some esc =>
      if q.recs.length < 2 && (v.round bf16).isFinite then
        put { q with recs := q.recs ++ [pack [(0, 16, (toBf16 v).toNat), (16, 5, k), (31, 1, 1)]] } esc
      else put { q with ovf := q.ovf + 1 } (nearestCode b u)
    | none => put { q with sat := q.sat + 1 } (nearestCode b u)
  else match r with
    | none => put q (nearestCode b u)
    | some r => put q (stochCode b u r)

/-- All elements in position order. -/
def quantAll (b : List FVal) (x : Int) (r : Nat → Option Nat) : List FVal → Nat → QState → QState
  | [], _, q => q
  | v :: vs, k, q => quantAll b x r vs (k + 1) (quantOne b x (r k) q v k)

/-- Add to a range counter (R258). -/
def countRange (r : Regs) (i sat ovf : Nat) (x : Int) : Regs :=
  let c := sget { sat := 0, ovf := 0, xmax := -128 } r.ranges i
  { r with ranges := sset r.ranges i { sat := c.sat + sat, ovf := c.ovf + ovf, xmax := max c.xmax x } }

/-- The 32 elements of a block: FP32 in four registers, or BF16 in two (R163). -/
def blockElems (r : Regs) (first : Nat) (half : Bool) : List FVal :=
  (List.range 32).map (fun k =>
    if half then ofBf16 (lane16 (r.vr (first + k / 16)) (k % 16)) else f32 (lane32 (r.vr (first + k / 8)) (k % 8)))

def setByte (v : Row) (i : Nat) (x : Int) : Row := setFld v (8 * i) 8 (byteOfInt x)

/-- Bits of a register that a firing writes: the register, the lowest bit, how many. -/
structure Dest where
  reg : Nat
  lo  : Nat
  n   : Nat
deriving DecidableEq, Repr

/-- The bits that two destinations share. -/
def Dest.meet (a b : Dest) : Option Dest :=
  let lo := max a.lo b.lo
  let hi := min (a.lo + a.n) (b.lo + b.n)
  if a.reg = b.reg && lo < hi then some { reg := a.reg, lo := lo, n := hi - lo } else none

/-- The bits that more than one destination of a firing names. -/
def clashes : List Dest → List Dest
  | [] => []
  | d :: ds => ds.filterMap d.meet ++ clashes ds

/-- Where two destinations of one firing name the same bits, the spec does not say what they hold: a free value (log 25). -/
def freeClashes (x : FireIn) (ds : List Dest) (r : Regs) : Regs :=
  (clashes ds).foldl (fun r c =>
    r.setV c.reg (setFld (r.vr c.reg) c.lo c.n (fld (Config.bothWritten x.word (x.regs.vr c.reg) (r.vr c.reg)) c.lo c.n))) r

def stQnt (x : FireIn) : StageOut :=
  let w := x.word
  let c2 := fld w 38 1 == 1
  let vd := fld w 29 5
  let vx := fld w 14 5
  let ve := fld w 9 5
  let sb := fld w 4 5
  let rid := fld w 0 4
  let b := codebook (x.regs.vr (fld w 19 5)) c2
  let vs := blockElems x.regs (fld w 24 5) (fld w 34 1 == 1)
  let e := blockExp vs (cmaxOf b) (rowInt8 (x.regs.vr vx) sb) (fld (x.kc rid) 15 1 == 1)
  let q := quantAll b e.1 (fun k => if fld w 35 1 = 1 then some (x.rand 0 k) else none) vs 0 {}
  let code := setFld (x.regs.vr vd) (64 * fld w 36 2) (if c2 then 64 else 128) (joinBits (if c2 then 2 else 4) q.codes)
  let recs := q.recs.getD 0 0 + (q.recs.getD 1 0) <<< 32
  let r := (x.regs.setV vd code)
  let r := r.setV ve (setFld (r.vr ve) (64 * (sb % 4)) 64 recs)
  let r := r.setV vx (setByte (r.vr vx) sb e.1)
  let r := freeClashes x [⟨vd, 64 * fld w 36 2, if c2 then 64 else 128⟩, ⟨ve, 64 * (sb % 4), 64⟩, ⟨vx, 8 * sb, 8⟩] r
  { regs := countRange r rid q.sat q.ovf e.2, payload := r.vr vd, nan := q.nan, count := q.sat + q.ovf }

def stDqt (x : FireIn) : StageOut :=
  let w := x.word
  let c2 := fld w 38 1 == 1
  let vd := fld w 29 5
  let sb := fld w 4 5
  let src := x.regs.vr (fld w 24 5)
  let b := codebook (x.regs.vr (fld w 19 5)) c2
  let e := rowInt8 (x.regs.vr (fld w 14 5)) sb
  let esc := escapeCode b
  let vev := x.regs.vr (fld w 9 5)
  let recs := [fld vev (64 * (sb % 4)) 32, fld vev (64 * (sb % 4) + 32) 32]
  let val := fun k =>
    let c := if c2 then fld src (64 * fld w 36 2 + 2 * k) 2 else fld src (64 * fld w 36 2 + 4 * k) 4
    if esc = some c then
      match recs.find? (fun r => bitsOf r 31 1 == 1 && bitsOf r 16 5 == k) with
      | some r => bf16.decode (bitsOf r 0 16)
      | none => .nan
    else (b.getD c .nan).scale e
  let f := if fld w 34 1 = 1 then bf16 else fp32
  let bits := (List.range 32).map (fun k => f.roundBits (val k))
  let regAt := fun i => if fld w 34 1 = 1 then rowOf16 (fun j => BitVec.ofNat 16 (bits.getD (16 * i + j) 0))
    else rowOf32 (fun j => BitVec.ofNat 32 (bits.getD (8 * i + j) 0))
  let n := if fld w 34 1 = 1 then 2 else 4
  let r := (List.range n).foldl (fun r i => r.setV (vd + i) (regAt i)) x.regs
  { regs := r, payload := regAt 0, nan := bits.any (fun v => !(f.decode v).isFinite) }

/-! ### UPD and UPDS (R280–R283, R288) -/

/-- `pow` of R281, over the 32 bits of n. -/
def powLoop : Nat → Nat → F32 → F32 → F32
  | 0, _, p, _ => p
  | fuel + 1, n, p, b =>
    if n = 0 then p
    else
      let p := if n % 2 = 1 then mulF32 p b else p
      powLoop fuel (n / 2) p (if n / 2 = 0 then b else mulF32 b b)
def powF32 (c : F32) (n : Nat) : F32 := powLoop 32 n 0x3F800000 c

/-- `sign` of R281. -/
def signF32 (d : F32) : F32 :=
  match f32 d with
  | .nan => BitVec.ofNat 32 fp32.nanBits
  | .inf s => if s then 0xBF800000 else 0x3F800000
  | .fin s m _ => if m = 0 then 0 else if s then 0xBF800000 else 0x3F800000

/-- k1 and k2 of R280. -/
def biasCorr (c : F32) (t : Nat) : F32 :=
  if (f32 c).isZero then 0x3F800000
  else toF32 ((f32 (toF32 ((FVal.fin false 1 0).sub (f32 (powF32 c t))))).rcp)

/-- Block-integer alignment (R248, R282): the exponent, then each code with whether it was limited; `lo` is the least
code, `r` the stochastic values. A non-finite element takes code 0. -/
def alignBlock (vs : List FVal) (N : Nat) (lo : Int) (r : Nat → Option Nat) : Int × List (Int × Bool) :=
  let a := largestAbs (vs.filter FVal.isFinite)
  let x := if a.isZero then -128 else min (max (smallestExp a (FVal.ofInt N)) (-128)) 127
  (x, vs.zipIdx.map (fun e =>
    if !e.1.isFinite then (0, false)
    else
      let u := e.1.scale (-x)
      let c := match r e.2 with
        | none => u.toIntRne
        | some r =>
          let fl := u.floor
          let fr := ((u.sub (FVal.ofInt fl)).scale 16).floor
          if (r : Int) < fr then fl + 1 else fl
      if (N : Int) < c then ((N : Int), true) else if c < lo then (lo, true) else (c, false)))

/-- What the recurrence makes of one element: new weight (BF16), s1, s2 (FP32) (R280). -/
def updOne (c : Nat → F32) (k1 k2 : F32) (sign : Bool) (g : F32) (w : FVal) (s1 s2 : FVal) : BitVec 16 × F32 × F32 :=
  let s1n := toF32 ((f32 (c 0)).fma s1 (f32 (mulF32 (c 1) g)))
  let s2n := toF32 ((f32 (c 2)).fma s2 (f32 (mulF32 (c 3) (mulF32 g g))))
  let a1 := mulF32 k1 s1n
  let q := mulF32 a1 (toF32 (f32 (fmaF32 k2 s2n (c 7))).rsqrt)
  let d := fmaF32 (c 4) g (fmaF32 (c 5) a1 (mulF32 (c 6) q))
  let d := if sign then signF32 d else d
  let wn := toBf16 (((f32 (c 8)).mul w).sub ((f32 (c 9)).mul (f32 d)))
  (if (ofBf16 wn).isFinite then wn else BitVec.ofNat 16 bf16.nanBits, s1n, s2n)

/-- The stored root of s2 (R282). -/
def rootOf (s2 : F32) : F32 := if (f32 s2).isZero then 0 else mulF32 s2 (toF32 (f32 s2).rsqrt)

/-- The update of a block (R280–R283, R288): the decay of UPDS rounds the weight to FP32; the decayed state is exact until the first
rounding of the new state (log 48). Exponent bytes `xb`, `xb + 1` of VX, coefficient row at `row`; `m` decays for
UPDS. -/
def updBlock (x : FireIn) (xb : Nat) (m : Option Nat) : StageOut :=
  let w := x.word
  let vg := fld w 33 5
  let vw := fld w 28 5
  let vs := fld w 23 5
  let vx := fld w 18 5
  let r := x.regs
  let c := fun i => x.coef.getD i 0
  let t := (x.step - c 12 + 1).toNat
  let k1 := biasCorr (c 10) t
  let k2 := biasCorr (c 11) t
  let x1 := rowInt8 (r.vr vx) xb
  let x2 := rowInt8 (r.vr vx) (xb + 1)
  let decay := fun (i : Nat) (v : FVal) => match m with
    | none => v
    | some m => v.mul (f32 (powF32 (c i) m))
  let wFp32 := fun (v : FVal) => if m.isSome then f32 (toF32 v) else v
  let es := (List.range 32).map (fun k =>
    let g := lane32 (r.vr (vg + k / 8)) (k % 8)
    let wv := ofBf16 (lane16 (r.vr (vw + k / 16)) (k % 16))
    let s1 := (FVal.ofInt (rowInt8 (r.vr vs) k)).scale x1
    let r2 := (FVal.ofInt (rowByte (r.vr (vs + 1)) k)).scale x2
    updOne c k1 k2 (fld (c 15) 0 1 == 1) g (wFp32 (decay 8 wv)) (decay 0 s1) (decay 2 (r2.mul r2)))
  let rnd := fun l k => if fld w 38 1 = 1 then some (x.rand l k) else none
  let s1s := es.map (fun e => f32 e.2.1)
  let s2s := es.map (fun e => f32 (rootOf e.2.2))
  let a1 := alignBlock s1s 127 (-127) (rnd 0)
  let a2 := alignBlock s2s 255 0 (rnd 1)
  let bad := es.any (fun e => !(ofBf16 e.1).isFinite || nonFiniteF32 e.2.1 || nonFiniteF32 e.2.2)
    || s2s.any (fun v => !v.isFinite)
  let s2c := (es.zip a2.2).map (fun e => if nonFiniteF32 e.1.2.2 then 0 else e.2.1)
  let sat := (a1.2 ++ a2.2).countP (·.2)
  let wAt := fun i => rowOf16 (fun j => (es.getD (16 * i + j) (0, 0, 0)).1)
  let r := ((r.setV vw (wAt 0)).setV (vw + 1) (wAt 1)).setV vs (rowOf8 (fun k => byteOfInt (a1.2.getD k (0, false)).1))
  let r := r.setV (vs + 1) (rowOf8 (fun k => byteOfInt (s2c.getD k 0)))
  let r := r.setV vx (setByte (setByte (r.vr vx) xb a1.1) (xb + 1) a2.1)
  { regs := countRange r (fld w 0 4) sat 0 (max a1.1 a2.1), payload := r.vr vw, nan := bad }

/-- What UPD and UPDS write (R166): the weights, the state codes, the two exponents. -/
def updDests (w : Word) (xb : Nat) : List Dest :=
  [⟨fld w 28 5, 0, 256⟩, ⟨fld w 28 5 + 1, 0, 256⟩, ⟨fld w 23 5, 0, 256⟩, ⟨fld w 23 5 + 1, 0, 256⟩, ⟨fld w 18 5, 8 * xb, 16⟩]

/-- The outcome of an update with the registers it leaves; its token carries VW. -/
def updOut (x : FireIn) (o : StageOut) (r : Regs) : StageOut := { o with regs := r, payload := r.vr (fld x.word 28 5) }

def stUpd (x : FireIn) : StageOut :=
  let xb := 2 * fld x.word 14 4
  let o := updBlock x xb none
  updOut x o (freeClashes x (updDests x.word xb) o.regs)

/-- UPDS (R168, R288): the decay of the steps since the stamp, the update, the new stamp. -/
def stUpds (x : FireIn) : StageOut :=
  let vt := fld x.word 13 5
  let n := (x.step - lane32 (x.regs.vr vt) 0).toNat
  let o := updBlock x 0 (some (n - 1))
  let r := o.regs.setV vt (setFld (o.regs.vr vt) 0 32 x.step.toNat)
  updOut x o (freeClashes x (⟨vt, 0, 32⟩ :: updDests x.word 0) r)

/-- The stage of an opcode; none for a reserved one. -/
def stageOf (x : FireIn) : Option StageOut :=
  let op := wOp x.word
  if op = opQMUL then some (stQmul x)
  else if op = opQMULT then some (stQmult x)
  else if op = opLDPT then some (stLdpt x)
  else if op = opACCZ then some (stAccz x)
  else if op = opACCX then some (stAccx x)
  else if op = opFMA then some (stFma x)
  else if op = opADD then some (stAdd x)
  else if op = opMUL then some (stMul x)
  else if op = opMAX then some (stMax x)
  else if op = opCMP then some (stCmp x)
  else if op = opSEL then some (stSel x)
  else if op = opRSQRT then some (stRsqrt x)
  else if op = opRCP then some (stRcp x)
  else if op = opEXP2 then some (stExp2 x)
  else if op = opLOG2 then some (stLog2 x)
  else if op = opLSUM then some (stLsum x)
  else if op = opSHUF then some (stShuf x)
  else if op = opSTEER then some (stSteer x)
  else if op = opMERGE then some (stMerge x)
  else if op = opTAGX then some (stTagx x)
  else if op = opQNT then some (stQnt x)
  else if op = opDQT then some (stDqt x)
  else if op = opUPD then some (stUpd x)
  else if op = opUPDS then some (stUpds x)
  else none

end Sys2Proof.Machine
end

