-- ==== Sys2Proof/Machine/Bench.lean ====
section
/-! DEFINITION. Bench firings (03, 04): when an instruction fires for a tag, what the firing consumes, emits and leaves
behind, and the 24 opcodes as commands. -/

namespace Sys2Proof.Machine

/-! ### Epochs (R118, R206, R212) -/

def jigEpoch (s : State) (p : Nat) : Bool := s.stepRf p oJigStatus 32 1 == 1
/-- What the cells of a field hold of the jig sequence. -/
def fieldJig (s : State) (f : Nat) : FieldJig := sget {} s.fields f
/-- The epoch bit of a cell (R118, R212): its own, whatever the context that runs. -/
def cellEpoch (s : State) (g : Nat) : Bool := xor (fieldJig s (g / 65536)).epoch (s.bench g).ahead
/-- The fields of a partition take the epoch of `JIG_STATUS`, as their cells take a jig (R212, R223). -/
def fieldsTake (p : Nat) (s : State) : State :=
  (List.range (partF s p)).foldl (fun s i =>
    { s with fields := sset s.fields (partFirst s p + i) { epoch := jigEpoch s p, taken := true } }) s

/-! ### Reader sets (R94, R95) -/

/-- The last instruction of the reader set of register `r` written by instruction `i`; none for an empty set. `j` counts
the instructions after `i`. -/
def lastReader (r : Nat) : List Word → Nat → Option Nat
  | [], _ => none
  | w :: ws, j =>
    let reads := (wordReads w).contains r
    if (wordWrites w).contains r then (if reads then some j else none)
    else match lastReader r ws (j + 1) with
      | some k => some k
      | none => if reads then some j else none

/-- A program that holds a QMULT: its accumulators are carried state (R144). -/
def isQmult (prog : List Word) : Bool := prog.any (fun w => wOp w == opQMULT)

/-- Registers a program reserves. -/
def reserves (prog : List Word) (r : Nat) : Bool := !(r == accReg && isQmult prog)

/-- Reservations that the firing of instruction `i` for tag `t` makes (R94, R96). -/
def newResv (prog : List Word) (i : Nat) (t : BitVec 16) (bubble : Bool) : List Resv :=
  (wordWrites (prog.getD i 0)).filterMap (fun r =>
    if reserves prog r then
      match lastReader r (prog.drop (i + 1)) (i + 1) with
      | some j => some { reg := r, tag := t, last := j, bubble := bubble }
      | none => none
    else none)

/-- Reservations after instruction `i` has fired for tag `t`. -/
def resvAfter (b : Bench) (i : Nat) (t : BitVec 16) (bubble : Bool) : List Resv :=
  let w := wordWrites (b.prog.getD i 0)
  b.resv.filter (fun r => !(r.tag == t && (r.last ≤ i || w.contains r.reg))) ++ newResv b.prog i t bubble

/-- No register that the word writes is reserved for another tag (R90, R94). -/
def resvFree (b : Bench) (w : Word) (t : BitVec 16) : Bool :=
  !b.resv.any (fun r => r.tag != t && (wordWrites w).contains r.reg)

/-- A register the word reads was written by a bubble firing of the same tag (R96). -/
def resvBubble (b : Bench) (w : Word) (t : BitVec 16) : Bool :=
  b.resv.any (fun r => r.tag == t && r.bubble && (wordReads w).contains r.reg)

/-- Instruction `i` has a carried read (R95). -/
def carriedRead (prog : List Word) (i : Nat) : Bool :=
  (wordReads (prog.getD i 0)).any (fun r =>
    reserves prog r && !(prog.take i).any (fun w => (wordWrites w).contains r))

/-- Instructions of a program that a test accepts have fired in every iteration that entered before `it`. -/
def earlierFired (b : Bench) (it : Iter) (test : Nat → Word → Bool) : Bool :=
  (b.iters.filter (fun o => o.order < it.order)).all (fun o =>
    b.prog.zipIdx.all (fun e => !test e.2 e.1 || e.2 < o.next))

def usesAcc (w : Word) : Bool := (wordReads w ++ wordWrites w).contains accReg
def orderPoint (w : Word) : Bool := wOp w == opACCZ || wOp w == opACCX

/-- The order of carried reads (R95) and of the accumulators of a QMULT program (R144). -/
def orderOk (b : Bench) (it : Iter) (w : Word) : Bool :=
  (!carriedRead b.prog it.next || earlierFired b it (fun i _ => i == it.next)) &&
    (!(isQmult b.prog && usesAcc w) ||
      earlierFired b it (fun _ v => if orderPoint w then usesAcc v else orderPoint v))

/-! ### Tokens a firing consumes (R89, R90) -/

/-- The unit instructions consume data and control tokens of the cell's epoch (R135, R208). -/
def fireable (t : Tok) : Bool := t.kind == .data || t.kind == .control

/-- The token of tag `t` that port `p` holds, in the matching store or at its head. -/
def tokenOf (b : Bench) (p : Port) (t : BitVec 16) : Option Tok :=
  match b.store.find? (fun x => x.port == p && x.tok.tag == t) with
  | some x => some x.tok
  | none =>
    match fiveGet b.inQ p with
    | h :: _ => if h.tag == t && fireable h then some h else none
    | [] => none

def tokensOf (b : Bench) (w : Word) (t : BitVec 16) : Five (Option Tok) :=
  (firePorts w).foldl (fun x p => fiveSet x p (tokenOf b p t)) ⟨none, none, none, none, none⟩

/-- The token is taken from the store, or from the port head. -/
def takeToken (t : BitVec 16) (b : Bench) (p : Port) : Bench :=
  match b.store.findIdx? (fun x => x.port == p && x.tok.tag == t) with
  | some i => { b with store := b.store.eraseIdx i }
  | none => { b with inQ := fiveSet b.inQ p ((fiveGet b.inQ p).drop 1) }

/-! ### The firing -/

/-- K[r] of a quantiser's range counter has FIT (R264). -/
def isFit (x : FireIn) : Bool := wOp x.word == opQNT && fld (x.kc (fld x.word 0 4)) 14 1 == 1
/-- An ACCX that counts toward GRAD_DONE (R157). -/
def isGd (w : Word) : Bool := wOp w == opACCX && fld w 8 1 == 1
/-- This firing brings the GRAD_DONE counter to its count. -/
def gdReached (x : FireIn) (b : Bench) (bubble : Bool) : Bool :=
  isGd x.word && !bubble && b.gd + 1 == x.kc (fld x.word 4 4)

/-- Tokens a firing places on the first port of EMIT beyond its own (R88, R157, R264). -/
def extraToks (x : FireIn) (b : Bench) (bubble : Bool) : Nat :=
  (if gdReached x b bubble then 1 else 0) + (if isFit x then 1 else 0)

/-- Every output port of EMIT has room for what the firing places on it (R88). -/
def roomOut (x : FireIn) (b : Bench) (bubble : Bool) : Bool :=
  (emitPorts x.word).zipIdx.all (fun e =>
    (fiveGet b.outQ e.1).length + (if e.2 = 0 then extraToks x b bubble else 0) < 4)

def mkTok (x : FireIn) (payload : Row) (valid : Bool) (bubble : Bool) : Tok :=
  { payload := payload, tag := x.outTag bubble, valid := valid, epoch := x.epoch, kind := wCk x.word }

/-- The control token's selection among k emit ports (R158). -/
def steerSel (x : FireIn) (k : Nat) : Nat :=
  match x.consumed.find? (fun t => t.kind == .control) with
  | some t => fld t.payload 0 3 % k
  | none => 0

/-- The tokens of a firing, by port (R96, R99, R135). -/
def fireToks (x : FireIn) (payload : Row) (bubble : Bool) : List (Port × Tok) :=
  let es := emitPorts x.word
  if wOp x.word = opSTEER && !bubble then
    es.zipIdx.map (fun e =>
      let sel := e.2 == steerSel x es.length
      (e.1, mkTok x (if sel then payload else 0) sel bubble))
  else es.map (fun p => (p, mkTok x (if bubble then 0 else payload) (!bubble) bubble))

def ctrlTok (x : FireIn) (payload : Nat) (valid bubble : Bool) : Tok :=
  { payload := BitVec.ofNat 256 payload, tag := x.outTag bubble, valid := valid, epoch := x.epoch, kind := .control }

/-- The GRAD_DONE and fit tokens that follow (R157, R264). -/
def extraEmits (x : FireIn) (b : Bench) (count : Nat) (bubble : Bool) : List (Port × Tok) :=
  let first := (emitPorts x.word).take 1
  let gd := if gdReached x b bubble then
      [ctrlTok x (x.kc (fld x.word 4 4 + 1)).toNat true bubble] else []
  let fail := !x.small && fld (x.kc (fld x.word 0 4 + 1)) 0 6 < count
  let fit := if isFit x then
      [ctrlTok x (fail.toNat + (x.outTag bubble).toNat <<< 16 + count <<< 32) (!bubble) bubble] else []
  first.flatMap (fun p => (gd ++ fit).map (fun t => (p, t)))

/-- Put tokens on output ports. -/
def emitToks (ts : List (Port × Tok)) (b : Bench) : Bench :=
  { b with outQ := ts.foldl (fun q e => fiveSet q e.1 (fiveGet q e.1 ++ [e.2])) b.outQ }

/-- The iteration after its instruction fired; it leaves with its last one (R92). -/
def advanceIter (b : Bench) (it : Iter) (w : Word) : List Iter :=
  let used := (firePorts w).foldl (fun u p => fiveSet u p (fiveGet u p + 1)) it.used
  if b.prog.length ≤ it.next + 1 then b.iters.filter (fun o => o.tag != it.tag)
  else b.iters.map (fun o => if o.tag = it.tag then { it with next := it.next + 1, used := used } else o)

/-- Values of a cell and its partition that a firing reads. -/
def fireIn (s : State) (g p : Nat) (b : Bench) (it : Iter) : FireIn :=
  let w := b.prog.getD it.next 0
  let row := if wOp w = opUPDS then fld w 5 8 else fld w 6 8
  { g := g, idx := it.next, word := w, tag := it.tag, toks := tokensOf b w it.tag, regs := b.regs, k := b.k,
    coef := if wOp w = opUPD || wOp w = opUPDS then
        (List.range 16).map (fun i => sget 0 (s.cab (g / 256)).coef (16 * row + i)) else [],
    step := BitVec.ofNat 32 (stepNumber s p), jig := BitVec.ofNat 32 (s.stepRf p oJigStatus 0 32),
    epoch := cellEpoch s g, small := partF s p ≤ 4, qmult := isQmult b.prog }

/-! ### Sampling (R475–R479) -/

/-- n of a check fraction (R475). -/
def sampleN (c : Nat) : Nat := if c = 1 then 64 else if c = 2 then 16 else if c = 3 then 4 else if c = 4 then 2 else 0

/-- The sampling key of a partition (R477). -/
def sampleKey (s : State) (p : Nat) : Nat :=
  if inStep s p then stepNumber s p else (stepNumber s p + (s.part p).goCount.toNat) % 2 ^ 32

/-- The firing of instruction `i` is selected for sampling (R477). -/
def sampled (s : State) (p : Nat) (b : Bench) (i : Nat) : Bool :=
  let n := sampleN (s.part p).check.toNat
  n ≠ 0 && (i + sget 0 b.ords i + sampleKey s p) % n == 0

/-! ### After a firing -/

/-- A counter of a bench that has reached 0x8000 flushes (R260). -/
def flushFull (g p : Nat) (s : State) : State :=
  let b := s.bench g
  let full := b.regs.ranges.filter (fun e => 0x8000 ≤ e.2.sat || 0x8000 ≤ e.2.ovf)
  if full.isEmpty then s
  else
    let fs := benchFlushes { b with regs := { b.regs with ranges := full } }
    let rest := b.regs.ranges.filter (fun e => !(0x8000 ≤ e.2.sat || 0x8000 ≤ e.2.ovf))
    let s := s.setBench g { b with regs := { b.regs with ranges := rest } }
    addFlushes p fs s

/-- Residue and parity faults of a firing (R473, R483, R494). -/
def arithFault (x : FireIn) (p : Nat) (s : State) (f : Nat × Nat) : State :=
  let s := stepCause p scResidue s
  let s := integCount p (if f.1 = 1 then 2 else 3) s
  let s := setIntegCause (if f.1 = 1 then icResidue else icParity) s
  let r : Rep := { kind := f.1, unit := .cell x.g, part := some p, stage := 2, clock := 0, opcode := wOp x.word,
                   index := x.idx, tag := x.tag.toNat, detail := f.2 }
  countFault x.g (integrityHalt r [] s)

/-- The stall count of a cabinet that fired restarts (R120). -/
def clearStall (c : Nat) (s : State) : State :=
  if (s.cab c).stall = 0 then s else s.setCab c { s.cab c with stall := 0 }

/-- The NaN flag of a bench rises; inside a step the partition learns of it (R150, R151). -/
def nanRaised (p : Nat) (s : State) : State :=
  if stepState s p = sRunning then nanArose (some p) s else s

/-- Put a capture in a free slot (R478). -/
def putCapture (c : Capture) (b : Bench) : Bench :=
  match b.cap0 with
  | none => { b with cap0 := some c }
  | some _ => { b with cap1 := some c }

/-- The bench after a firing. -/
def benchAfter (x : FireIn) (b : Bench) (it : Iter) (o : StageOut) (bubble sample : Bool) : Bench :=
  let toks := fireToks x o.payload bubble ++ extraEmits x b (if bubble then 0 else o.count) bubble
  let regs := if bubble then b.regs else { o.regs with nan := o.regs.nan || o.nan }
  let b' := (firePorts x.word).foldl (takeToken x.tag) b
  let b' := emitToks toks
    { b' with regs := regs, iters := advanceIter b it x.word, resv := resvAfter b it.next x.tag bubble,
              gd := if bubble || !isGd x.word then b.gd else if gdReached x b bubble then 0 else b.gd + 1,
              ords := if bubble then b.ords else sset b.ords it.next (sget 0 b.ords it.next + 1) }
  if sample then
    putCapture { idx := it.next, ord := sget 0 b.ords it.next, tag := x.tag, word := x.word, k := x.k, pre := x.regs,
                 toks := x.toks, coef := x.coef, step := x.step, jig := x.jig, epoch := x.epoch, small := x.small,
                 out := { regs := regs, emits := toks } } b'
  else b'

/-- A STEER whose two tokens are of one kind (R99). -/
def steerClash (x : FireIn) : Bool :=
  wOp x.word == opSTEER && x.consumed.length == 2 && (x.consumed.countP (fun t => t.kind == .control) != 1)

/-- The first port of a word's firing mask, for reports. -/
def firstPort (w : Word) : Nat := match firePorts w with
  | p :: _ => portNum p
  | [] => 0

/-- What a firing that R90 allows does. The tokens of a STEER that faults stay where they are (log 78). -/
def fireGo (g p : Nat) (b : Bench) (it : Iter) (s : State) : State :=
  let x := fireIn s g p b it
  let bubble := x.consumed.any (fun t => !t.valid) || resvBubble b x.word x.tag
  if steerClash x then fabricFault g ccPort 0x11 (opSTEER, it.next) x.tag.toNat (firstPort x.word) s
  else match stageOf x with
    | none => s
    | some o =>
      let sample := !bubble && sampled s p b it.next
      if !roomOut x b bubble || (sample && b.cap0.isSome && b.cap1.isSome) then s
      else
        let s := s.setBench g (benchAfter x b it o bubble sample)
        let s := clearStall (g / 256) (s.count (rCabCount (g / 256) (if bubble then 1 else 0)) 1)
        if bubble then s
        else
          let s := if o.nan then nanRaised p s else s
          flushFull g p (o.faults.foldl (arithFault x p) s)

/-- The conditions of R90 but for room and order of issue. -/
def fireReady (b : Bench) (it : Iter) (op : Nat) (t : BitVec 16) : Bool :=
  let w := b.prog.getD it.next 0
  it.next < b.prog.length && wOp w == op && (firePorts w).all (fun p => (tokenOf b p t).isSome)
    && resvFree b w t && orderOk b it w

/-- The bench of cell `g` fires the next instruction of tag `t`, of opcode `op`; while R90 forbids it, or issue has stopped
(R220), nothing happens. -/
def fire (op : Nat) (g : CellId) (t : BitVec 16) (s : State) : State :=
  let n := g.toNat
  if cellRuns s n && !issueStops s n then
    match partOfCell s n, (s.bench n).iters.find? (fun i => i.tag == t) with
    | some p, some it => if fireReady (s.bench n) it op t then fireGo n p (s.bench n) it s else s
    | _, _ => s
  else s

/-! ### The opcodes as commands -/

/-- QMUL (R141). -/
def execQmul (g : CellId) (t : BitVec 16) (s : State) : Host.Outcome State Fault Refusal := done s (fire opQMUL g t s)
/-- QMULT (R143, R144). -/
def execQmult (g : CellId) (t : BitVec 16) (s : State) : Host.Outcome State Fault Refusal := done s (fire opQMULT g t s)
/-- LDPT (R145, R146). -/
def execLdpt (g : CellId) (t : BitVec 16) (s : State) : Host.Outcome State Fault Refusal := done s (fire opLDPT g t s)
/-- ACCZ (R147). -/
def execAccz (g : CellId) (t : BitVec 16) (s : State) : Host.Outcome State Fault Refusal := done s (fire opACCZ g t s)
/-- ACCX (R155–R157). -/
def execAccx (g : CellId) (t : BitVec 16) (s : State) : Host.Outcome State Fault Refusal := done s (fire opACCX g t s)
/-- FMA (R152). -/
def execFma (g : CellId) (t : BitVec 16) (s : State) : Host.Outcome State Fault Refusal := done s (fire opFMA g t s)
/-- ADD (R152, R154). -/
def execAdd (g : CellId) (t : BitVec 16) (s : State) : Host.Outcome State Fault Refusal := done s (fire opADD g t s)
/-- MUL (R152). -/
def execMul (g : CellId) (t : BitVec 16) (s : State) : Host.Outcome State Fault Refusal := done s (fire opMUL g t s)
/-- MAX (R152). -/
def execMax (g : CellId) (t : BitVec 16) (s : State) : Host.Outcome State Fault Refusal := done s (fire opMAX g t s)
/-- CMP (R152). -/
def execCmp (g : CellId) (t : BitVec 16) (s : State) : Host.Outcome State Fault Refusal := done s (fire opCMP g t s)
/-- SEL (R152). -/
def execSel (g : CellId) (t : BitVec 16) (s : State) : Host.Outcome State Fault Refusal := done s (fire opSEL g t s)
/-- RSQRT (R152, R153). -/
def execRsqrt (g : CellId) (t : BitVec 16) (s : State) : Host.Outcome State Fault Refusal := done s (fire opRSQRT g t s)
/-- RCP (R152, R153). -/
def execRcp (g : CellId) (t : BitVec 16) (s : State) : Host.Outcome State Fault Refusal := done s (fire opRCP g t s)
/-- EXP2 (R152, R153). -/
def execExp2 (g : CellId) (t : BitVec 16) (s : State) : Host.Outcome State Fault Refusal := done s (fire opEXP2 g t s)
/-- LOG2 (R152, R153). -/
def execLog2 (g : CellId) (t : BitVec 16) (s : State) : Host.Outcome State Fault Refusal := done s (fire opLOG2 g t s)
/-- LSUM (R152). -/
def execLsum (g : CellId) (t : BitVec 16) (s : State) : Host.Outcome State Fault Refusal := done s (fire opLSUM g t s)
/-- SHUF (R152). -/
def execShuf (g : CellId) (t : BitVec 16) (s : State) : Host.Outcome State Fault Refusal := done s (fire opSHUF g t s)
/-- STEER (R99, R158). -/
def execSteer (g : CellId) (t : BitVec 16) (s : State) : Host.Outcome State Fault Refusal := done s (fire opSTEER g t s)
/-- MERGE (R159). -/
def execMerge (g : CellId) (t : BitVec 16) (s : State) : Host.Outcome State Fault Refusal := done s (fire opMERGE g t s)
/-- TAGX (R160). -/
def execTagx (g : CellId) (t : BitVec 16) (s : State) : Host.Outcome State Fault Refusal := done s (fire opTAGX g t s)
/-- QNT (R163, R237). -/
def execQnt (g : CellId) (t : BitVec 16) (s : State) : Host.Outcome State Fault Refusal := done s (fire opQNT g t s)
/-- DQT (R165). -/
def execDqt (g : CellId) (t : BitVec 16) (s : State) : Host.Outcome State Fault Refusal := done s (fire opDQT g t s)
/-- UPD (R167, R280). -/
def execUpd (g : CellId) (t : BitVec 16) (s : State) : Host.Outcome State Fault Refusal := done s (fire opUPD g t s)
/-- UPDS (R168, R288). -/
def execUpds (g : CellId) (t : BitVec 16) (s : State) : Host.Outcome State Fault Refusal := done s (fire opUPDS g t s)

end Sys2Proof.Machine
end

