-- ==== Sys2Proof/Machine/Image.lean ====
section
/-! DEFINITION. The Lezal image (05): its parts, and the checks of the loader (R196). -/

namespace Sys2Proof.Machine

/-! ### Parts of a cabinet image (R191–R195) -/

def cabProgs (b : List Byte) : Nat := leAt b 0 2
def cabDprogs (b : List Byte) : Nat := leAt b 2 2
def cabPool (b : List Byte) : Nat := leAt b 4 2
def cabCtrlOff (b : List Byte) : Nat := leAt b 8 4
def cabCtrlWords (b : List Byte) : Nat := leAt b 12 2
def cabInitBytes (b : List Byte) : Nat := leAt b 16 4

/-- Offset behind `n` bench programs that start at `off`. -/
def skipBench (b : List Byte) : Nat → Nat → Nat
  | 0, off => off
  | n + 1, off => skipBench b n (off + 8 + 8 * (leAt b off 1 % 128))
/-- Offset behind `n` drawer programs that start at `off`. -/
def skipDrawer (b : List Byte) : Nat → Nat → Nat
  | 0, off => off
  | n + 1, off => skipDrawer b n (off + 72 + 8 * (leAt b off 1 % 32))

def benchPool : Nat := 12320
def drawerPool (b : List Byte) : Nat := skipBench b (cabProgs b) benchPool
def regPool (b : List Byte) : Nat := skipDrawer b (cabDprogs b) (drawerPool b)
def initArea (b : List Byte) : Nat := regPool b + 32 * cabPool b

def wordAt (b : List Byte) (off : Nat) : Word := BitVec.ofNat 64 (leAt b off 8)
def wordsAt (b : List Byte) (off n : Nat) : List Word := (List.range n).map (fun i => wordAt b (off + 8 * i))

/-- Offset of bench program `i`, and its words. -/
def progOff (b : List Byte) (i : Nat) : Nat := skipBench b i benchPool
def progWords (b : List Byte) (i : Nat) : List Word := wordsAt b (progOff b i + 8) (leAt b (progOff b i) 1 % 128)

/-- An init record (R195). -/
structure InitRec where
  kind  : Nat
  index : Nat
  sub   : Nat
  data  : Row
deriving DecidableEq, Repr

/-- The configuration of one cell (R192, R194). -/
structure CellCfg where
  prog  : List Word := []
  k     : List (BitVec 16) := []
  route : BitVec 16 := 0
  pats  : List Word := []
  dprog : List Word := []
  mode  : Nat := 0
  mbase : Nat := 0
  msize : Nat := 0
  slot  : Nat := 0
  inits : List InitRec := []
deriving DecidableEq, Repr

/-- Offset of the cell table entry of cell `n`. -/
def entryOff (n : Nat) : Nat := 32 + 48 * n

/-- A cell of an image has nothing: no program, no drawer program, no route, no init record, no tag constant. -/
def entryEmpty (b : List Byte) (n : Nat) : Bool :=
  b.isEmpty || (leAt b (entryOff n) 8 == 0xFFFF && leAt b (entryOff n + 8) 40 == 0)

/-- Init record `i` of a cell whose records start at `at0` of the init area. -/
def initAt (b : List Byte) (v2 : Bool) (at0 i : Nat) : InitRec :=
  let off := initArea b + at0 + (if v2 then 8 else 40) * i
  let src := if v2 then regPool b + 32 * leAt b (off + 4) 2 else off + 8
  { kind := leAt b off 1, index := leAt b (off + 1) 1, sub := leAt b (off + 2) 2, data := BitVec.ofNat 256 (leAt b src 32) }

/-- What the drawer program pool entry at an offset gives a cell (R194). -/
def withDrawer (b : List Byte) (doff : Nat) (base : CellCfg) : CellCfg :=
  let h := leAt b doff 8
  { base with pats := wordsAt b (doff + 8) 8, dprog := wordsAt b (doff + 72) (bitsOf h 0 5), mode := bitsOf h 8 2,
              mbase := bitsOf h 16 9, msize := bitsOf h 32 10, slot := bitsOf h 48 7 }

/-- The configuration that a cabinet image gives cell `n`; an empty image gives the empty configuration (R190). -/
def cellCfg (b : List Byte) (v2 : Bool) (n : Nat) : CellCfg :=
  if b.isEmpty then {}
  else
    let e := entryOff n
    let prog := leAt b e 1
    let dprog := leAt b (e + 1) 1
    let base : CellCfg :=
      { prog := if prog = 0xFF then [] else progWords b prog,
        k := (List.range 16).map (fun i => BitVec.ofNat 16 (leAt b (e + 16 + 2 * i) 2)),
        route := BitVec.ofNat 16 (leAt b (e + 2) 2),
        inits := (List.range (leAt b (e + 4) 2)).map (initAt b v2 (leAt b (e + 8) 4)) }
    if dprog = 0xFF then base
    else withDrawer b (skipDrawer b dprog (drawerPool b)) base

/-- Configuration rows of the bench part (R204). -/
def benchRows (c : CellCfg) : Nat := 2 + (c.prog.length + 3) / 4 + c.inits.countP (fun r => r.kind ≤ 2)

/-! ### Illegal bench words (R133) -/

/-- Port field of an operand: bits [4:3] are 0, the port exists and is in FIRE (R136). -/
def portOk (w : Word) (f : Nat) : Bool := f < 5 && bitsOf (wFire w) f 1 == 1
def operandBad (w : Word) (sel lo : Nat) : Bool := fld w sel 1 == 1 && !portOk w (fld w lo 5)
/-- An operand an opcode does not use is encoded as 0 (R152). -/
def unusedBad (w : Word) (sel lo : Nat) : Bool := fld w sel 1 != 0 || fld w lo 5 != 0

def vectorBad (w : Word) : Bool :=
  let op := wOp w
  let ty := fld w 37 2
  ((ty == 0 || ty == 3) && fld w 36 1 == 1) || (opRSQRT ≤ op && ty != 0) || operandBad w 30 25
    || (if usesB op then operandBad w 24 19 else unusedBad w 24 19)
    || (if usesC op then operandBad w 18 13 else unusedBad w 18 13)
    || (if op = opADD then fld w 0 11 != 0 || fld w 11 2 == 3 || (fld w 11 2 != 0 && (ty == 0 || ty == 3))
        else if op = opMAX then fld w 1 12 != 0
        else if op = opCMP then fld w 3 10 != 0 || fld w 0 3 == 7
        else fld w 0 13 != 0)

/-- The word breaks a rule of chapter 04 that does not depend on the tag constants (R132–R168). -/
def benchWordBad (w : Word) : Bool :=
  let op := wOp w
  opFormat op != some (wFmt w) ||
    (if op = opQMUL || op = opQMULT then
      fld w 0 21 != 0 || (op == opQMULT && fld w 35 1 == 1) || operandBad w 34 29 || operandBad w 27 22
    else if op = opLDPT then fld w 0 26 != 0 || (fld w 36 1 == 1 && fld w 32 4 != 0) || operandBad w 31 26
    else if op = opACCZ then fld w 16 23 != 0 || fld w 0 16 == 0
    else if op = opACCX then
      fld w 37 2 != 0 || fld w 24 1 != 0 || fld w 13 6 != 0 || fld w 11 1 != 0 || fld w 0 4 != 0 || operandBad w 30 25
        || (fld w 8 1 == 1 && wEmit w == 0)
    else if wFmt w = 1 then vectorBad w
    else if op = opSTEER then fld w 0 39 != 0 || (firePorts w).length != 2
    else if op = opMERGE then
      fld w 24 4 != 0 || (List.range 8).any (fun i => fld w (3 * i) 3 == 7 || (fld w (3 * i) 3 ≤ 4 && !portOk w (fld w (3 * i) 3)))
    else if op = opTAGX then fld w 0 32 != 0
    else if op = opQNT then
      (fld w 38 1 == 0 && fld w 36 1 == 1) || (if fld w 34 1 = 0 then fld w 24 5 % 4 != 0 else fld w 24 5 % 2 != 0)
    else if op = opDQT then
      fld w 35 1 != 0 || fld w 0 4 != 0 || (fld w 38 1 == 0 && fld w 36 1 == 1)
        || (if fld w 34 1 = 0 then fld w 29 5 % 4 != 0 else fld w 29 5 % 2 != 0)
    else if op = opUPD || op = opUPDS then
      fld w 33 5 % 4 != 0 || fld w 28 5 % 2 != 0 || fld w 23 5 % 2 != 0
        || (if op = opUPD then fld w 4 2 != 0 else fld w 4 1 != 0)
    else false)

/-- The word breaks a rule that depends on the tag constants of the cell (R134, R157, R265). -/
def benchWordBadK (k : List (BitVec 16)) (w : Word) : Bool :=
  let kc := fun i => k.getD i 0
  let fit := fld (kc (fld w 0 4)) 14 1 == 1
  (wTagop w == 2 && kc (wKidx w) == 0) || (isGdWord w && kc (fld w 4 4) == 0)
    || (wOp w == opQNT && fit && wEmit w == 0) || ((wOp w == opUPD || wOp w == opUPDS) && fit)
where isGdWord (w : Word) : Bool := wOp w == opACCX && fld w 8 1 == 1

/-- A program that mixes QMUL and QMULT, or starts with an empty firing mask (R90, R144). -/
def benchProgBad (ws : List Word) : Bool :=
  (ws.any (fun w => wOp w == opQMUL) && ws.any (fun w => wOp w == opQMULT)) || wFire (ws.headD 0) == 0

/-! ### Illegal drawer words (R170–R182) -/

/-- Element bits of a transposed read (R177). -/
def ewBits (w : Word) : Nat := 4 * 2 ^ fld w 58 2

/-- A row outside the drawer's rows for patterns, or inside the mode region (R39, R176). -/
def rowBad (c : CellCfg) (top : Nat) (r : Int) : Bool :=
  r < 0 || (top : Int) ≤ r || (c.mode != 0 && (c.mbase : Int) ≤ r && r < (c.mbase + c.msize : Nat))

/-- The drawer word breaks a rule; `top` is 512 − STACK_ROWS. -/
def drawerWordBad (c : CellCfg) (top : Nat) (ckpt : Bool) (w : Word) : Bool :=
  let g := fld w 61 1
  let f := fld w 62 2
  if f = 0 then
    let ps := c.pats.getD (fld w 55 3) 0
    let n := affineCount w ps
    fld w 0 3 != 0 || (fld w 60 1 == 1 && g == 1) || (fld w 60 1 == 0 && fld w 58 2 != 0)
      || (fld w 60 1 == 1 && n % (256 / ewBits w) != 0) || (List.range n).any (fun k => rowBad c top (affineRow w ps k))
  else if f = 1 then
    let op := fld w 58 3
    c.mode == 0 || 4 < op || (g == 1) != (op == 0) || (op != 1 && fld w 57 1 != 0) || (2 ≤ op && fld w 45 12 != 0)
      || (op ≤ 1 && c.mode == 2 && (fld w 45 12 + 1) % c.slot != 0) || (op != 4 && fld w 22 1 != 0) || fld w 0 22 != 0
  else if f = 2 then
    let el := fld w 59 2
    let elems := (if el = 1 then 16 else 8) * (fld w 53 6 + 1)
    el == 3 || fld w 0 25 != 0 || (ckpt && el != 0 && elems % 32 != 0)
  else
    g == 0 || fld w 32 11 != 0
      || (List.range (fld w 43 9 + 1)).any (fun i => rowBad c top ((fld w 52 9 + i : Nat) : Int))

/-- The header of a drawer program breaks a rule (R194). -/
def drawerHdrBad (h top : Nat) : Bool :=
  let mode := bitsOf h 8 2
  let msize := bitsOf h 32 10
  let slot := bitsOf h 48 7
  let mbase := bitsOf h 16 9
  bitsOf h 5 3 != 0 || bitsOf h 10 6 != 0 || bitsOf h 25 7 != 0 || bitsOf h 42 6 != 0 || bitsOf h 55 9 != 0 || mode == 3
    || (mode == 0 && (mbase != 0 || msize != 0)) || (mode != 0 && (msize == 0 || 512 < msize || top < mbase + msize))
    || (if mode = 2 then slot == 0 || 64 < slot || msize % slot != 0 || msize / slot < 3 else slot != 0)

/-! ### Illegal control words (R213–R215) -/

/-- Opcodes that use XA, XB. -/
def cwUsesXa (w : Word) : Bool :=
  let op := cwOp w
  (cLDI ≤ op && op ≤ cSTX) || (op == cBR && fld w 45 3 != 0) || (op == cJIGLOAD && fld w 0 1 == 0) || op == cJIGNEXT
    || op == cSTRM || op == cWAIT || op == cCOEF || op == cSCANOUT || op == cSCANIN
def cwUsesXb (w : Word) : Bool := cADDX ≤ cwOp w && cwOp w ≤ cSTX

/-- Bits of IMM an opcode uses; none for a reserved opcode. -/
def cwImmMask (op : Nat) : Option Nat :=
  if op = cNOP || op = cSTOP || op = cJIGNEXT || op = cCOMMIT || op = cDISCARD || op = cSCANIN then some 0
  else if cLDI ≤ op && op ≤ cSTX then some 0xFFFFFFFFFFFF
  else if op = cBR then some 0xE000FFFFFFFF
  else if op = cJIGLOAD || op = cVOTE || op = cSCANOUT then some 1
  else if op = cSTRM then some 0x71F
  else if op = cWAIT || op = cBAR || op = cRED then some 0xFF
  else if op = cSIGNAL then some 0xFFFFFFFFFF
  else if op = cBEGIN then some 0xFFFF007F
  else if op = cSEMP || op = cSEMV then some 0xFFFFFFFF3F
  else if op = cCOEF then some 0xFFFF
  else none

/-- The word breaks a rule; `explicit` says which layer-table entries have KIND 1. -/
def controlBad (explicit : Nat → Bool) (w : Word) : Bool :=
  let op := cwOp w
  let writes := op == cLDI || op == cADDX || op == cLDX || (op == cBR && fld w 45 3 == 5)
  match cwImmMask op with
  | none => true
  | some m =>
    (fld w 0 48) &&& (0xFFFFFFFFFFFF - m) != 0 || (!cwUsesXa w && cwXa w != 0) || (!cwUsesXb w && cwXb w != 0)
      || (writes && 14 ≤ cwXa w) || (op == cBR && 6 ≤ fld w 45 3) || (op == cSIGNAL && fld w 8 32 == 0)
      || (op == cBEGIN && (fld w 0 7 == 0 || 64 < fld w 0 7)) || (op == cCOEF && 255 < fld w 0 8 + fld w 8 8)
      || (op == cRED && !explicit (fld w 0 8))

/-! ### The checks of R196 -/

/-- A breach: the row of R196 it belongs to, the code, the cabinet index (0xFFFF: none), the offset in the image. -/
structure Breach where
  row  : Nat
  code : Code
  cab  : Nat
  off  : Nat
deriving DecidableEq, Repr

/-- What an image is checked against. -/
structure LoadEnv where
  fields  : Nat
  top     : Nat
  inside  : Bool
  routeOk : Nat → Nat → Side → Bool
  portBad : Nat → Bool
  level   : Nat → Nat
  deadCell : Nat → Nat → Bool
  deadCab : Nat → Bool

def brk (c : Bool) (row : Nat) (code : Code) (cab off : Nat) : List Breach :=
  if c then [{ row := row, code := code, cab := cab, off := off }] else []

def rPart : Nat := 4
def rCap : Nat := 5
def rState : Nat := 6
def rIllegal : Nat := 7
def noCab : Nat := 0xFFFF

/-- Header fields (R186). -/
def hVersion (b : List Byte) : Nat := leAt b 4 2
def hJig (b : List Byte) : Nat := leAt b 8 4
def hCabs (b : List Byte) : Nat := leAt b 12 2
def hFields (b : List Byte) : Nat := leAt b 14 1
def hCkpt (b : List Byte) : Bool := leAt b 15 1 % 2 == 1
def hLayers (b : List Byte) : Nat := leAt b 16 2
def hLayerOff (b : List Byte) : Nat := leAt b 20 4
def hDirOff (b : List Byte) : Nat := leAt b 24 4
def hSize (b : List Byte) : Nat := leAt b 28 4
def hEst (b : List Byte) : Nat := leAt b 32 8
def isV2 (b : List Byte) : Bool := hVersion b == 2

/-- Directory entry `i`: CAB, OFF, SIZE (R189). -/
def dirEntry (b : List Byte) (i : Nat) : Nat × Nat × Nat :=
  let o := hDirOff b + 16 * i
  (leAt b o 2, leAt b (o + 4) 4, leAt b (o + 8) 4)

/-- The cabinet image of a cabinet index; empty without a directory entry (R190). -/
def cabImage (b : List Byte) (cab : Nat) : List Byte :=
  match ((List.range (hCabs b)).map (dirEntry b)).find? (fun d => d.1 == cab) with
  | some d => (b.drop d.2.1).take d.2.2
  | none => []

/-- Control words of a cabinet image. -/
def segWords (b ci : List Byte) : List Word := wordsAt b (cabCtrlOff ci) (cabCtrlWords ci)

def cabImages (b : List Byte) : List (List Byte) := (List.range (hCabs b)).map (fun i => cabImage b (dirEntry b i).1)

/-- The image's control segments hold a word of an opcode. -/
def imageHas (b : List Byte) (op : Nat) : Bool := (cabImages b).any (fun ci => (segWords b ci).any (fun w => cwOp w == op))

/-- Bench words and drawer words of every pool of an image. -/
def allBenchWords (b : List Byte) : List Word :=
  (cabImages b).flatMap (fun ci => (List.range (cabProgs ci)).flatMap (progWords ci))
def allDrawerWords (b : List Byte) : List Word :=
  (cabImages b).flatMap (fun ci => (List.range (cabDprogs ci)).flatMap (fun i =>
    let o := skipDrawer ci i (drawerPool ci)
    wordsAt ci (o + 72) (leAt ci o 1 % 32)))

/-- Step content (R197); `push` counts STK.PUSH words as such. -/
def stepContent (b : List Byte) (push : Bool) : Bool :=
  hLayers b != 0 || imageHas b cRED
    || (allBenchWords b).any (fun w => wOp w == opUPD || wOp w == opUPDS || (wOp w == opACCX && fld w 8 1 == 1))
    || (allDrawerWords b).any (fun w => fld w 62 2 == 2 && (push || fld w 61 1 == 0))

/-- Sections of an image: offset, bytes, which section. -/
def sections (b : List Byte) : List (Nat × Nat) :=
  let cabs := (List.range (hCabs b)).map (fun i => (dirEntry b i).2)
  let segs := ((cabImages b).filter (fun ci => cabCtrlWords ci != 0)).map (fun ci => (cabCtrlOff ci, 8 * cabCtrlWords ci))
  ([(0, 64), (hLayerOff b, 32 * hLayers b), (hDirOff b, 16 * hCabs b)] ++ cabs ++ segs).filter (fun x => x.2 != 0)

/-- A section stands before one that R185 puts ahead of it. -/
def orderBad (b : List Byte) : Bool :=
  let dirEnd := hDirOff b + 16 * hCabs b
  hLayerOff b < 64 || hDirOff b < hLayerOff b + 32 * hLayers b
    || (List.range (hCabs b)).any (fun i => (dirEntry b i).2.1 < dirEnd)
    || (cabImages b).any (fun ci => cabCtrlWords ci != 0
        && (List.range (hCabs b)).any (fun i => cabCtrlOff ci < (dirEntry b i).2.1 + (dirEntry b i).2.2))

/-- Two sections that are not one and the same overlap (R185, R189). -/
def overlapBad (ss : List (Nat × Nat)) : Bool :=
  ss.any (fun x => ss.any (fun y => x != y && x.1 < y.1 + y.2 && y.1 < x.1 + x.2))

def headerBreaches (e : LoadEnv) (b : List Byte) : List Breach :=
  let v := hVersion b
  let bad := fun c off => brk c rIllegal eRange noCab off
  bad (leAt b 0 4 != 0x474A5A4C) 0 ++ brk (v != 1 && v != 2) 2 eVersion noCab 4 ++ bad (leAt b 6 2 != 64) 6
    ++ bad (hCabs b == 0 || 4096 < hCabs b) 12 ++ brk (hFields b != e.fields) rPart ePartition noCab 14
    ++ bad (leAt b 15 1 / 2 != 0) 15 ++ bad (256 < hLayers b) 16 ++ bad (leAt b 18 2 != 0) 18
    ++ bad (hLayerOff b % 8 != 0) 20 ++ bad (hDirOff b % 8 != 0) 24
    ++ bad ((sections b).any (fun x => hSize b < x.1 + x.2) || overlapBad (sections b) || orderBad b) 28
    ++ bad (v == 1 && hEst b != 0) 32
    ++ (if v = 2 then brk (crc32c (b.take 40 ++ zeros 4 ++ b.drop 44) != BitVec.ofNat 32 (leAt b 40 4)) 3 eSignature noCab 40
        else bad (leAt b 40 4 != 0) 40)
    ++ bad (leAt b 44 20 != 0) 44

/-- Bytes of part `j` of `k` of an entry of `blocks` blocks (R372, R373). -/
def partBytes (j k blocks dtype : Nat) : Nat :=
  ((j + 1) * blocks / k - j * blocks / k) * (if dtype = 1 then 128 else 64)

/-- Layer-table entry `i` (R187, R188, R371, R373, R382, R447). -/
def layerBreaches (e : LoadEnv) (b : List Byte) (i : Nat) : List Breach :=
  let o := hLayerOff b + 32 * i
  let bad := fun c off => brk c rIllegal eRange noCab (o + off)
  let kind := leAt b (o + 2) 1
  let comp := leAt b (o + 3) 1
  let ps := (List.range 16).filter (fun n => bitsOf (leAt b (o + 6) 2) n 1 == 1)
  bad ((List.range i).any (fun j => leAt b (hLayerOff b + 32 * j) 2 == leAt b o 2)) 0 ++ bad (1 < kind) 2 ++ bad (1 < comp || (kind == 1 && comp == 1)) 3
    ++ bad (1 < leAt b (o + 4) 1) 4 ++ bad (leAt b (o + 5) 1 != 0) 5 ++ bad ps.isEmpty 6
    ++ brk (ps.any e.portBad) rPart ePartition noCab (o + 6)
    ++ brk (ps.any (fun n => e.level n < (if comp = 1 then 3 else 2))) rState eState noCab (o + 6)
    ++ brk (ps.zipIdx.any (fun x => 4194304 < partBytes x.2 ps.length (leAt b (o + 8) 4 / 32) (leAt b (o + 4) 1)))
        rCap eCapacity noCab (o + 8)
    ++ bad (leAt b (o + 8) 4 == 0 || leAt b (o + 8) 4 % 32 != 0) 8 ++ bad (comp == 0 && leAt b (o + 12) 4 != 0) 12
    ++ bad (if kind = 1 then leAt b (o + 16) 8 % 64 != 0 else leAt b (o + 16) 8 != 0) 16
    ++ bad (if kind = 1 then leAt b (o + 24) 8 % 64 != 0 else leAt b (o + 24) 8 != 0) 24

def dirBreaches (e : LoadEnv) (b : List Byte) (i : Nat) : List Breach :=
  let o := hDirOff b + 16 * i
  let d := dirEntry b i
  let bad := fun c off => brk c rIllegal eRange noCab (o + off)
  bad (i != 0 && d.1 ≤ (dirEntry b (i - 1)).1) 0 ++ brk (256 * hFields b ≤ d.1) rPart ePartition noCab o
    ++ brk (e.deadCab d.1) rCap eCapacity noCab o ++ bad (leAt b (o + 2) 2 != 0) 2 ++ bad (d.2.1 % 8 != 0) 4
    ++ bad (d.2.2 < 12320) 8 ++ brk (49152 < d.2.2) rCap eCapacity noCab (o + 8) ++ bad (leAt b (o + 12) 4 != 0) 12

/-- One init record (R195). -/
def initBad (v2 : Bool) (ci : List Byte) (top off : Nat) : Bool :=
  let kind := leAt ci off 1
  let index := leAt ci (off + 1) 1
  let sub := leAt ci (off + 2) 2
  3 < kind || (kind == 0 && (31 < index || sub != 0)) || (kind == 1 && (3 < index || 15 < sub))
    || (kind == 2 && (3 < index || sub != 0)) || (kind == 3 && (index != 0 || top ≤ sub))
    || leAt ci (off + 6) 2 != 0 || (if v2 then cabPool ci ≤ leAt ci (off + 4) 2 else leAt ci (off + 4) 2 != 0)

/-- The cell table entry of cell `n` and what it names. -/
def cellBreaches (e : LoadEnv) (b ci : List Byte) (cab base n : Nat) : List Breach :=
  let o := entryOff n
  let v2 := isV2 b
  let bad := fun c off => brk c rIllegal eRange cab (base + off)
  let cfg := cellCfg ci v2 n
  let prog := leAt ci o 1
  let dprog := leAt ci (o + 1) 1
  let recs := leAt ci (o + 4) 2
  let rsize := if v2 then 8 else 40
  let at0 := leAt ci (o + 8) 4
  let poff := progOff ci prog + 8
  bad (prog != 0xFF && cabProgs ci ≤ prog) o ++ bad (dprog != 0xFF && cabDprogs ci ≤ dprog) (o + 1)
    ++ bad (sides.any (fun d => 5 < routeOut cfg.route d || routeOut cfg.route d == 2 + sideNum d)) (o + 2)
    ++ brk (sides.any (fun d => routeOut cfg.route d != 0 && !e.routeOk cab n d)) rPart ePartition cab (base + o + 2)
    ++ brk (e.deadCell cab n && (prog != 0xFF || dprog != 0xFF || cfg.route != 0 || recs != 0)) rCap eCapacity cab (base + o)
    ++ bad (leAt ci (o + 6) 2 != 0) (o + 6) ++ bad (at0 % 8 != 0 || cabInitBytes ci < at0 + rsize * recs) (o + 8)
    ++ bad (leAt ci (o + 12) 4 != 0) (o + 12)
    ++ (if prog = 0xFF then [] else cfg.prog.zipIdx.flatMap (fun x => bad (benchWordBadK cfg.k x.1) (poff + 8 * x.2)))
    ++ (List.range recs).flatMap (fun i =>
        bad (initBad v2 ci e.top (initArea ci + at0 + rsize * i)) (initArea ci + at0 + rsize * i))

/-- A cabinet image (R191–R195) at offset `base`. -/
def cabBreaches (e : LoadEnv) (b ci : List Byte) (cab base : Nat) : List Breach :=
  let bad := fun c off => brk c rIllegal eRange cab (base + off)
  let explicit := fun i => i < hLayers b && leAt b (hLayerOff b + 32 * i + 2) 1 == 1
  bad (64 < cabProgs ci) 0 ++ bad (64 < cabDprogs ci) 2
    ++ bad (if isV2 b then 1024 < cabPool ci else cabPool ci != 0) 4 ++ bad (leAt ci 6 2 != 0) 6
    ++ bad (cabCtrlOff ci % 8 != 0 || (cabCtrlWords ci == 0 && cabCtrlOff ci != 0)) 8 ++ bad (2048 < cabCtrlWords ci) 12
    ++ bad (leAt ci 14 2 != 0) 14 ++ bad (ci.length != initArea ci + cabInitBytes ci) 16 ++ bad (leAt ci 20 12 != 0) 20
    ++ (List.range 256).flatMap (cellBreaches e b ci cab base)
    ++ (List.range (cabProgs ci)).flatMap (fun i =>
        let o := progOff ci i
        let ws := progWords ci i
        brk (64 < leAt ci o 1 % 128) rCap eCapacity cab (base + o)
          ++ bad (leAt ci o 1 % 128 == 0 || leAt ci o 8 / 128 != 0 || benchProgBad ws) o
          ++ ws.zipIdx.flatMap (fun x => bad (benchWordBad x.1) (o + 8 + 8 * x.2)))
    ++ (List.range (cabDprogs ci)).flatMap (fun i =>
        let o := skipDrawer ci i (drawerPool ci)
        brk (16 < leAt ci o 1 % 32) rCap eCapacity cab (base + o) ++ bad (drawerHdrBad (leAt ci o 8) e.top) o
          ++ (withDrawer ci o {}).dprog.zipIdx.flatMap (fun x =>
              bad (drawerWordBad (withDrawer ci o {}) e.top (hCkpt b) x.1) (o + 72 + 8 * x.2)))
    ++ (segWords b ci).zipIdx.flatMap (fun x =>
        brk (controlBad explicit x.1) rIllegal eRange cab (cabCtrlOff ci + 8 * x.2))

/-- The breach that is reported: the first of the lowest row of R196. -/
def firstBreach (bs : List Breach) : Option Breach :=
  match (List.range 8).find? (fun r => bs.any (fun x => x.row == r)) with
  | none => none
  | some r => bs.find? (fun x => x.row == r)

/-- Every check of R196 on the bytes of an image, but for its address and its access rights. -/
def imageBreach (e : LoadEnv) (b : List Byte) : Option Breach :=
  firstBreach (headerBreaches e b
    ++ brk (!(e.inside || imageHas b cBEGIN) && stepContent b true) rState eState noCab 0
    ++ (List.range (hLayers b)).flatMap (layerBreaches e b)
    ++ (List.range (hCabs b)).flatMap (dirBreaches e b)
    ++ (List.range (hCabs b)).flatMap (fun i =>
        let d := dirEntry b i
        cabBreaches e b (cabImage b d.1) d.1 d.2.1))

end Sys2Proof.Machine
end

