-- ==== Sys2Proof/Machine/Jigs.lean ====
section
/-! DEFINITION. Tokens on the rails and stiles (03), and the change of one cell from a jig to the next (05): end tokens,
configuration rows, installs. -/

namespace Sys2Proof.Machine

/-! ### Tokens at input ports (R92, R93, R97, R208) -/

/-- Ports that some instruction of a program names in its firing mask, or in its emit mask. -/
def namedPort (b : Bench) (p : Port) : Bool := b.prog.any (fun w => (firePorts w).contains p)
def emitsOn (b : Bench) (p : Port) : Bool := b.prog.any (fun w => (emitPorts w).contains p)
def endPorts (b : Bench) : List Port := ports.filter (emitsOn b)

/-- n_p of R89. -/
def portCount (b : Bench) (p : Port) : Nat := b.prog.countP (fun w => (firePorts w).contains p)

/-- Tokens of tag `t` that port `p` has received for its iteration: consumed, or in the matching store. -/
def received (b : Bench) (it : Iter) (p : Port) : Nat :=
  fiveGet it.used p + b.store.countP (fun x => x.port == p && x.tok.tag == it.tag)

def dropHead (p : Port) (b : Bench) : Bench := { b with inQ := fiveSet b.inQ p ((fiveGet b.inQ p).drop 1) }

/-- The token moves from the port head into the matching store, which has 64 places (R93). -/
def toStore (p : Port) (t : Tok) (b : Bench) : Bench :=
  if b.store.length < 64 then { dropHead p b with store := b.store ++ [{ port := p, tok := t }] } else b

/-- The head token of a named port, of the cell's epoch (R92, R93). -/
def takeHead (p : Port) (t : Tok) (b : Bench) : Bench :=
  match b.iters.find? (fun i => i.tag == t.tag) with
  | some it => if received b it p < portCount b p then toStore p t b else b
  | none =>
    if b.iters.length < 64 then
      toStore p t { b with iters := b.iters ++ [{ tag := t.tag, next := 0, used := ⟨0, 0, 0, 0, 0⟩, order := b.order }],
                           order := b.order + 1 }
    else b

/-- A token of the wrong epoch (R208). -/
def epochFault (g : Nat) (t : Tok) (s : State) : State :=
  fabricFault g ccEpoch 0x10 (0, 0) t.tag.toNat (pack [(0, 16, t.tag.toNat), (16, 2, kindNum t.kind)]) s

/-- TOKEN_ARRIVE (R92, R93, R97, R208): the token at the head of port `p` enters its iteration and the matching store, or
stays. A token that meets a fault is taken away (log 12). -/
def execTokenArrive (g : CellId) (p : Port) (s : State) : Host.Outcome State Fault Refusal :=
  let n := g.toNat
  let b := s.bench n
  match fiveGet b.inQ p with
  | [] => done s s
  | t :: _ =>
    if !cellRuns s n || !fireable t then done s s
    else if t.epoch ≠ cellEpoch s n then done s (epochFault n t (s.setBench n (dropHead p b)))
    else if !namedPort b p then
      done s (fabricFault n ccPort 0x11 (0, 0) t.tag.toNat (portNum p) (s.setBench n (dropHead p b)))
    else done s (s.setBench n (takeHead p t b))

/-- The side of a cell on which it has a gate, as a port (R365). -/
def gatePort (g : Nat) : List Port := (sides.filter (fun d => (gateOf g d).isSome)).map sidePort

/-- A port counts as passed: its end token has gone, or a gate feeds it (R201, R368). -/
def portPassed (g : Nat) (b : Bench) (p : Port) : Bool := fiveGet b.passedP p || (gatePort g).contains p

/-- An incoming channel counts as passed: its end token has gone, ROUTE connects it to no destination, or a gate feeds it
(R203, R368). -/
def chanPassed (g : Nat) (c : Cell) (d : Side) : Bool :=
  fourGet c.bench.passedC d || (!routeBench c.sw.route d && (routeFrom c.sw.route d).isEmpty) || (gateOf g d).isSome

/-- Every port the program names has passed (R201). -/
def drained (g : Nat) (b : Bench) : Bool := ports.all (fun p => !namedPort b p || portPassed g b p)

/-- END_TOKEN_ARRIVE (R201): an end token leaves the port, which counts as passed. -/
def execEndTokenArrive (g : CellId) (p : Port) (s : State) : Host.Outcome State Fault Refusal :=
  let n := g.toNat
  let b := s.bench n
  match fiveGet b.inQ p with
  | [] => done s s
  | t :: _ =>
    if !cellRuns s n || t.kind ≠ .fin then done s s
    else
      let b' := dropHead p b
      if !namedPort b p then done s (s.setBench n b')
      else if fiveGet b.passedP p then
        done s (fabricFault n ccPort 0x11 (0, 0) t.tag.toNat (portNum p) (s.setBench n b'))
      else done s (s.setBench n { b' with passedP := fiveSet b.passedP p true })

/-! ### Channels (R105, R107, R109, R203) -/

/-- The cell is between its end tokens and its install (R368). -/
def changing (b : Bench) : Bool := b.ended || b.cfg != 0

/-- The next token that arrives on an incoming channel of a cell, and the state without it at its source. -/
def incoming (s : State) (g : Nat) (side : Side) : Option (Tok × State) :=
  match chanTo s g side with
  | none => none
  | some (.inl h) =>
    (chanHead s h (opposite side)).map (fun t => (t, chanPop h (opposite side) s))
  | some (.inr (n, k)) =>
    let l := s.link n
    match sget [] l.gateOut k with
    | t :: rest =>
      if changing (s.bench g) || l.frozen then none
      else some ({ t with epoch := cellEpoch s g }, s.setLink n { l with gateOut := sset l.gateOut k rest })
    | [] => none

/-- Every destination of an incoming channel has room for a token (R107, R109). -/
def forkRoom (s : State) (g : Nat) (side : Side) : Bool :=
  let c := s.cell g
  (!routeBench c.sw.route side || (fiveGet c.bench.inQ (sidePort side)).length < 4)
    && (routeFrom c.sw.route side).all (creditLeft s g)

/-- Hand a token to every destination of its incoming channel; an end token closes the channel (R105, R203). A channel
without destination drops it (log 13). -/
def forkPass (g : Nat) (side : Side) (t : Tok) (s : State) : State :=
  let c := s.cell g
  let hop := (routeFrom c.sw.route side).foldl (fun h o => fourSet h o (fourGet h o ++ [t])) c.sw.hop
  let p := sidePort side
  let b := if routeBench c.sw.route side then { c.bench with inQ := fiveSet c.bench.inQ p (fiveGet c.bench.inQ p ++ [t]) }
    else c.bench
  let b := if t.kind = .fin then { b with passedC := fourSet b.passedC side true } else b
  s.setCell g { c with bench := b, sw := { c.sw with hop := hop } }

/-- The sender's bench puts a token into the stages of the boundary hop of an incoming channel (R107). -/
def senderEnters (g : Nat) (side : Side) (s : State) : State :=
  match chanTo s g side with
  | some (.inl h) => hopEnter h (opposite side) s
  | _ => s

/-- CHANNEL_TOKEN (R105, R107, R203, R208): a token arrives on an incoming channel and goes on, or waits there for its
fork behind those that wait already; on a boundary hop another one enters the stages. -/
def execChannelToken (g : CellId) (side : Side) (s : State) : Host.Outcome State Fault Refusal :=
  let n := g.toNat
  let v := senderEnters n side s
  if !cellRuns s n then done s s
  else if 4 ≤ (fourGet (v.sw n).wait side).length then done s v
  else match incoming v n side with
    | none => done s v
    | some (t, u) =>
      if fireable t && t.epoch != cellEpoch s n then done s (epochFault n t u)
      else if (fourGet (u.sw n).wait side).isEmpty && forkRoom u n side then done s (forkPass n side t u)
      else done s (u.setSw n { u.sw n with wait := fourSet (u.sw n).wait side (fourGet (u.sw n).wait side ++ [t]) })

/-- FORK_PASS (R109): the first token that waits at an incoming channel passes once every destination has room. -/
def execForkPass (g : CellId) (side : Side) (s : State) : Host.Outcome State Fault Refusal :=
  let n := g.toNat
  match fourGet (s.sw n).wait side with
  | t :: ts =>
    let u := s.setSw n { s.sw n with wait := fourSet (s.sw n).wait side ts }
    if cellRuns s n && forkRoom u n side then done s (forkPass n side t u) else done s s
  | [] => done s s

/-! ### QUIET, and the words of drawer generators (R118, R212) -/

def tokensAt (c : Cell) : Bool :=
  !c.bench.store.isEmpty || ports.any (fun p => !(fiveGet c.bench.inQ p).isEmpty || !(fiveGet c.bench.outQ p).isEmpty)
    || sides.any (fun d => !(fourGet c.sw.hop d).isEmpty || !(fourGet c.sw.wait d).isEmpty)

/-- QUIET of a cell (R118). -/
def cellQuiet (s : State) (e : Nat × Cell) : Bool :=
  !tokensAt e.2 && e.2.dr.reads.isEmpty && !s.dowel.any (fun k => k.writer == e.1 || k.targets.contains e.1)

/-- No row of a tile waits to be emitted (R177). -/
def Drawer.tileIdle (d : Drawer) : Bool := d.tile.isEmpty && d.tileOut.isEmpty

/-- Words of the read generator and of the write generator (R171, R172). -/
def genWords (d : Drawer) (g : Nat) : List Word := d.prog.filter (fun w => fld w 61 1 == g)
def readsDone (d : Drawer) : Bool := (genWords d 0).length ≤ d.rdW && d.tileIdle
def writesDone (d : Drawer) : Bool := (genWords d 1).length ≤ d.wrW

/-- GO has been sent for the present jig of a partition (R228). -/
def goBit (s : State) (p : Nat) : Bool := s.stepRf p oJigStatus 33 1 == 1
def gensDone (s : State) (p : Nat) (d : Drawer) : Bool := !goBit s p || d.taken || (readsDone d && writesDone d)

/-- A block list of the running context is queued or under way. -/
def listsRun (s : State) (p : Nat) : Bool :=
  let sl := (s.part p).slot
  let mine := fun (e : Nat × Eng) =>
    e.2.lists.any (fun l => l.part == p && l.slot == sl) || e.2.issued.any (fun l => l.part == p && l.slot == sl)
  s.edges.any mine || s.gathers.any mine

/-- The boundary of R220 and the first conditions of R212. -/
def partQuiet (s : State) (p : Nat) : Bool :=
  (cellsOf s p).all (fun e => cellQuiet s e && gensDone s p e.2.dr) && !listsRun s p

/-! ### Installs (R195, R206, R207) -/

/-- An init record takes effect in the registers of a bench (R195). -/
def initReg (r : Regs) (x : InitRec) : Regs :=
  if x.kind = 0 then r.setV x.index x.data
  else if x.kind = 1 then r.loadRow x.index x.sub x.data
  else if x.kind = 2 then r.loadExp x.index x.data
  else r

/-- The bench with a new bench part (R206); `inits` says whether the init records apply (R223). -/
def installBench (cfg : CellCfg) (inits : Bool) (b : Bench) : Bench :=
  { b with prog := cfg.prog, k := cfg.k, regs := if inits then cfg.inits.foldl initReg b.regs else b.regs, gd := 0,
           iters := [], resv := [], store := [], passedP := ⟨false, false, false, false, false⟩,
           passedC := ⟨false, false, false, false⟩, ended := false, cfg := 0 }

/-- The switch with a new ROUTE. A token still in an output queue leaves on the channel the old ROUTE gave it
(log 14). -/
def installSwitch (cfg : CellCfg) (c : Cell) : Cell :=
  let moved := sides.filter (fun d => routeOut c.sw.route d == 1)
  let hop := moved.foldl (fun h d => fourSet h d (fourGet h d ++ fiveGet c.bench.outQ (sidePort d))) c.sw.hop
  let out := moved.foldl (fun q d => fiveSet q (sidePort d) []) c.bench.outQ
  { c with bench := { c.bench with outQ := out }, sw := { c.sw with route := cfg.route, hop := hop } }

/-- The mode region starts empty (R207). -/
def Drawer.emptyRegion (d : Drawer) : Drawer :=
  { d with head := 0, head2 := 0, tail := 0, tail2 := 0, res := 0, mark := 0, free := 0, mvalid := false, under := false,
           qreset := false, written := [], slotCnt := [], lastRow := 0 }

/-- The drawer with a new drawer part (R207): pointers are kept when the region is the old one. -/
def installDrawer (cfg : CellCfg) (d : Drawer) : Drawer :=
  let same := d.mode == cfg.mode && d.mbase == cfg.mbase && d.msize == cfg.msize && d.slot == cfg.slot
  let d := if same then d else d.emptyRegion
  { d with prog := cfg.dprog, pats := cfg.pats, mode := cfg.mode, mbase := cfg.mbase, msize := cfg.msize, slot := cfg.slot,
           rdW := 0, rdA := 0, wrW := 0, wrA := 0, tagCnt := [], base := 0, tile := [], tileOut := [], started := false,
           stale := false, dry := false, framed := false, opened := [], popRows := [], popTail := [], popped := 0, endSent := false, taken := false }

/-- Rows named by the KIND 3 records (R195, R207). -/
def initRows (g : Nat) (cfg : CellCfg) (s : State) : State :=
  (cfg.inits.filter (·.kind = 3)).foldl (fun s x => drawerWrite g x.sub x.data s) s

/-- Version 2 of the image at an address. -/
def imageV2 (s : State) (a : Nat) : Bool := isV2 (s.seen a 64)

/-- What a slot holds for a cell (R190, R192). -/
def slotCfg (s : State) (x : Slot) (g : Nat) : CellCfg := cellCfg x.img (imageV2 s x.addr) (g % 256)
def nextCfg (s : State) (g : Nat) : CellCfg := slotCfg s (s.cab (g / 256)).spare g

/-! ### Exchange of slots (R184, R211) -/

/-- Control words of a slot's cabinet image. -/
def Slot.ctrlWords (x : Slot) : Nat := if x.img.isEmpty then 0 else cabCtrlWords x.img

/-- A stopped sequencer whose next jig gives it no segment takes no part in it (R217). -/
def Cab.settle (c : Cab) : Cab :=
  if c.seq.due && c.seq.wait = 5 && c.now.ctrlWords = 0 then
    { c with seq := { c.seq with due := false, was := 0 < c.seq.len, len := 0, pos := 0 } }
  else c

/-- The cabinet switches: its slots exchange roles, the new spare slot is empty, the caches are empty (R117, R184). -/
def Cab.exchange (c : Cab) : Cab :=
  let x : Cab := { c.setSlot c.cur c.now.leave with cur := !c.cur, icache := [], dcache := [], seq := { c.seq with due := true } }
  x.settle

/-- A cabinet whose cells are all changed exchanges its slots (R184). -/
def cabSettle (c : Nat) (s : State) : State :=
  if (s.cab c).nextReady && (s.cells.filter (fun e => e.1 / 256 == c)).all (fun e => e.2.bench.ahead && e.2.dr.taken) then
    s.setCab c (s.cab c).exchange
  else s

/-- A retirement or a remap of the cabinet is pending (R211, R346): a cell of it, a cabinet of its row at or west of it,
an entry of the remap directory. -/
def retirePend (s : State) (c : Nat) : Bool :=
  s.integ.pendCell.any (fun g => g / 256 == c)
    || s.integ.pendCab.any (fun d => d / 16 == c / 16 && d ≤ c)
    || (remapEntries s (c / 256)).any (fun e => fld e.2 30 1 == 1 && fld e.2 20 9 == physCab s c)

/-- The cabinet does not take configuration behind end tokens: a retirement is pending, or the jig is marked (R211,
R308). -/
def cabHeld (s : State) (p c : Nat) : Bool := retirePend s c || (s.ctx p).marked.isSome || (s.ctx p).rerun == 1

/-! ### The change of one cell -/

def endTok (e : Bool) : Tok := { payload := 0, tag := 0, valid := true, epoch := e, kind := .fin }

/-- The first end token of a switch starts its time (R228). -/
def switchBegins (p : Nat) (s : State) : State :=
  if (s.part p).swStart.isSome then s else s.setPart p { s.part p with swStart := some s.clk.cclk }

/-- DRAWER_END_TOKEN (R200): the end token of the read generator enters the D input port. -/
def execDrawerEndToken (g : CellId) (s : State) : Host.Outcome State Fault Refusal :=
  let n := g.toNat
  let b := s.bench n
  let d := s.dr n
  match partOfCell s n with
  | none => done s s
  | some p =>
    if cellRuns s n && !d.endSent && !b.ahead && goBit s p && (s.ctx p).rerun != 1 && readsDone d
        && (s.cab (n / 256)).nextReady && b.inQ.d.length < 4 then
      done s (switchBegins p (s.setCell n { s.cell n with
        bench := { b with inQ := fiveSet b.inQ .d (b.inQ.d ++ [endTok (cellEpoch s n)]) }, dr := { d with endSent := true } }))
    else done s s

/-- BENCH_END_TOKEN (R202): one end token on each output port that the program names. -/
def execBenchEndToken (g : CellId) (s : State) : Host.Outcome State Fault Refusal :=
  let n := g.toNat
  let b := s.bench n
  if cellRuns s n && !b.ended && !b.ahead && drained n b && b.iters.isEmpty && !(endPorts b).isEmpty
      && (endPorts b).all (fun p => (fiveGet b.outQ p).length < 4) then
    let q := (endPorts b).foldl (fun q p => fiveSet q p (fiveGet q p ++ [endTok (cellEpoch s n)])) b.outQ
    done s (s.setBench n { b with outQ := q, ended := true })
  else done s s

/-- The bench is ready to take configuration rows (R206). -/
def rowsReady (g : Nat) (b : Bench) : Bool := drained g b && b.iters.isEmpty && (b.ended || (endPorts b).isEmpty)

/-- Consecutive parts of `n` entries. -/
def chunks {α : Type} (n : Nat) : Nat → List α → List (List α)
  | 0, _ => []
  | k + 1, xs => xs.take n :: chunks n k (xs.drop n)

/-- Rows of bytes, the last padded with zeros. -/
def byteRows (bs : List Byte) : List Row := (chunks 32 ((bs.length + 31) / 32) bs).map (fun c => BitVec.ofNat 256 (ofBytes c))

/-- The configuration rows of a bench part (R204): ROUTE and the tag constants, the program, the init records of KIND 0, 1 or
2. How the rows are laid out inside is a choice (log 79). -/
def benchPart (c : CellCfg) : List Row :=
  (byteRows (leBytes 2 c.route.toNat ++ (List.range 31).flatMap (fun i => leBytes 2 (c.k.getD i 0).toNat)))
    ++ byteRows (c.prog.flatMap (fun w => leBytes 8 w.toNat))
    ++ (c.inits.filter (fun r => r.kind ≤ 2)).map (·.data)

/-- Configuration tokens at the D port of a bench. -/
def configsIn (b : Bench) : Nat := b.inQ.d.countP (fun t => t.kind == .config)

/-- The loader has a configuration row for cell `g` of partition `p` (R205): the drawer has emitted its end token. -/
def rowsDue (s : State) (g p : Nat) : Bool :=
  cellRuns s g && (s.dr g).endSent && !(s.bench g).ahead && !cabHeld s p (g / 256) && (s.cab (g / 256)).nextReady

/-- The loader puts the next configuration row into the D port, while that has room (R205). -/
def configSend (g : Nat) (s : State) : State :=
  let b := s.bench g
  let i := b.cfg + configsIn b
  let cfg := nextCfg s g
  if i < benchRows cfg && b.inQ.d.length < 4 then
    let t : Tok := { payload := (benchPart cfg).getD i 0, tag := 0, valid := true, epoch := !cellEpoch s g, kind := .config }
    s.setBench g { b with inQ := { b.inQ with d := b.inQ.d ++ [t] } }
  else s

/-- The bench takes the configuration row at the head of its D port; before the first one it flushes its range counters
(R206, R260). -/
def configTake (g : Nat) (s : State) : State :=
  let b := s.bench g
  if (b.inQ.d.head?).any (fun t => t.kind == .config) && rowsReady g b then
    let s := if b.cfg = 0 then flushCell g s else s
    s.setBench g { dropHead .d (s.bench g) with cfg := b.cfg + 1 }
  else s

/-- CONFIG_ROW (R204–R206): the loader delivers a configuration row behind the end token of the drawer, and the bench takes
the one at the head of its D port once it is ready. -/
def execConfigRow (g : CellId) (s : State) : Host.Outcome State Fault Refusal :=
  let n := g.toNat
  match partOfCell s n with
  | none => done s s
  | some p => if rowsDue s n p then done s (configTake n (configSend n s)) else done s s

/-- INSTALL (R206): after its last row the bench takes the new configuration and the cell's epoch inverts. -/
def execInstall (g : CellId) (s : State) : Host.Outcome State Fault Refusal :=
  let n := g.toNat
  let cfg := nextCfg s n
  if cellRuns s n && !(s.bench n).ahead && (s.cab (n / 256)).nextReady && (s.bench n).cfg = benchRows cfg then
    let c := installSwitch cfg (s.cell n)
    done s (cabSettle (n / 256) (s.setCell n { c with bench := { installBench cfg true c.bench with ahead := true } }))
  else done s s

/-- The drawer has the end token of its bench, or its bench sends none (R207). -/
def benchEnded (b : Bench) : Bool :=
  match b.outQ.d with
  | t :: _ => t.kind == .fin
  | [] => b.ahead || !emitsOn b .d

/-- DRAWER_PART (R207): the drawer takes its part straight from the loader. -/
def execDrawerPart (g : CellId) (s : State) : Host.Outcome State Fault Refusal :=
  let n := g.toNat
  let b := s.bench n
  let d := s.dr n
  match partOfCell s n with
  | none => done s s
  | some p =>
    if cellRuns s n && d.endSent && !d.taken && writesDone d && benchEnded b && !cabHeld s p (n / 256)
        && (s.cab (n / 256)).nextReady then
      let cfg := nextCfg s n
      let d' := { installDrawer cfg d with endSent := true, taken := true }
      let t := s.setCell n { s.cell n with bench := { b with outQ := fiveSet b.outQ .d (b.outQ.d.drop 1) }, dr := d' }
      done s (cabSettle (n / 256) (initRows n cfg t))
    else done s s

end Sys2Proof.Machine
end

