-- ==== Sys2Proof/Machine/Drawers.lean ====
section
/-! DEFINITION. Drawers: the words of the two generators (R169–R182), mode regions (R332–R337), the checkpoint stack with
its spill slice (R39–R45, R340–R342), and the dowel network's remote accesses (R113–R116). One command is one access. -/

namespace Sys2Proof.Machine

/-! ### Words of the generators -/

/-- The generators of a cell run: its jig has its GO, the cell works, the next drawer part is not yet taken. -/
def genRuns (s : State) (g p : Nat) : Bool := cellRuns s g && !issueStops s g && goBit s p && !(s.dr g).taken

/-- The present word of the read and of the write generator. -/
def readWord (d : Drawer) : Option Word := (genWords d 0)[d.rdW]?
def writeWord (d : Drawer) : Option Word := (genWords d 1)[d.wrW]?

/-- The read generator starts its next word: the present one is complete with its last access, though tokens of its tiles may
still have to enter the D input port (R170, R177). -/
def nextRead (d : Drawer) : Drawer := { d with rdW := d.rdW + 1, rdA := 0 }

/-- The write generator starts its next word. -/
def nextWrite (d : Drawer) : Drawer :=
  { d with wrW := d.wrW + 1, wrA := 0, tagCnt := [], opened := [], started := false, stale := false }

/-- Another access of the read word is issued, of `n`. -/
def readStep (n : Nat) (d : Drawer) : Drawer := if n ≤ d.rdA + 1 then nextRead d else { d with rdA := d.rdA + 1 }

/-- Another access of the write word is done, of `n`. -/
def writeStep (n : Nat) (d : Drawer) : Drawer := if n ≤ d.wrA + 1 then nextWrite d else { d with wrA := d.wrA + 1 }

/-- Tag of token `k` of a word with tag base `tb` and `per` tokens a tag (R172). -/
def genTag (tb per k : Nat) : BitVec 16 := BitVec.ofNat 16 (tb + k / per)

/-- The D input queue has room (R171). -/
def dRoom (b : Bench) : Bool := b.inQ.d.length < 4

/-- A token of the read generator enters the D input port (R171, R172). -/
def dPut (g : Nat) (tag : BitVec 16) (v : Row) (valid : Bool) (s : State) : State :=
  let b := s.bench g
  let t : Tok := { payload := v, tag := tag, valid := valid, epoch := cellEpoch s g, kind := .data }
  s.setBench g { b with inQ := { b.inQ with d := b.inQ.d ++ [t] } }

/-- The head of the D output queue, when it is a token for the write generator. -/
def dHead (b : Bench) : Option Tok :=
  match b.outQ.d with
  | t :: _ => if t.kind = .fin then none else some t
  | [] => none

def dTake (g : Nat) (s : State) : State :=
  let b := s.bench g
  s.setBench g { b with outQ := { b.outQ with d := b.outQ.d.drop 1 } }

/-- Index of an incoming token of a word with tag base `tb` and `per` tokens a tag (R172). -/
def tokIndex (d : Drawer) (tb per : Nat) (t : Tok) : Nat :=
  (t.tag - BitVec.ofNat 16 tb).toNat * per + sget 0 d.tagCnt t.tag.toNat

/-- A write count is held for the tag already, or one of the 64 is free for it (R169). -/
def tagRoom (d : Drawer) (t : Tok) : Bool := sget 0 d.tagCnt t.tag.toNat != 0 || d.tagCnt.length < 64

/-- The count of a tag advances, of `per` tokens a tag; with the last of them the count is free again (R169, log 74). -/
def countTag (per : Nat) (t : Tok) (d : Drawer) : Drawer :=
  let n := sget 0 d.tagCnt t.tag.toNat + 1
  { d with tagCnt := if per ≤ n then sfilter d.tagCnt (· != t.tag.toNat) else sset d.tagCnt t.tag.toNat n }

/-! ### Affine words (R175–R177) -/

def patOf (d : Drawer) (w : Word) : Word := d.pats.getD (fld w 55 3) 0

/-- Rows of a tile: 256 / element width (R177). -/
def tileRows (w : Word) : Nat := 256 / ewBits w

/-- Output token `t` of a tile holds element `t` of each of its rows (R177). -/
def transposeTok (w : Nat) (rows : List Row) (t : Nat) : Row :=
  BitVec.ofNat 256 (joinBits w (rows.map (fun r => fld r (w * t) w)))

/-- The word of the read generator that a tile belongs to. -/
def tileWord (d : Drawer) (x : Nat × Nat) : Word := (genWords d 0).getD x.1 0

/-- A full tile moves to the output buffer when that is empty. -/
def tileFlip (d : Drawer) : Drawer :=
  let w := tileWord d d.tileFrom
  if d.tile.length = tileRows w && d.tileOut.isEmpty then
    { d with tile := [], tileOut := (List.range (tileRows w)).map (transposeTok (ewBits w) d.tile), outFrom := d.tileFrom }
  else d

/-- Row of access `k` of an affine word. -/
def affineAt (d : Drawer) (w : Word) (k : Nat) : Nat := (affineRow w (patOf d w) k).toNat

/-- One access of a plain affine read. -/
def affinePlain (g : Nat) (w : Word) (s : State) : State :=
  let d := s.dr g
  if dRoom (s.bench g) then
    let r := drawerRead g (affineAt d w d.rdA) s
    let s := dPut g (genTag (fld w 24 16) (fld w 40 6 + 1) d.rdA) r.1 true r.2
    s.setDr g (readStep (affineCount w (patOf d w)) (s.dr g))
  else s

/-- A token of the tile that is emitted enters the D input port, when there is one and room for it. -/
def tileEmit (g : Nat) (s : State) : State :=
  let d := s.dr g
  match d.tileOut with
  | v :: rest =>
    if dRoom (s.bench g) then
      let w := tileWord d d.outFrom
      let s := dPut g (genTag (fld w 24 16) (fld w 40 6 + 1) d.outFrom.2) v true s
      s.setDr g { s.dr g with tileOut := rest, outFrom := (d.outFrom.1, d.outFrom.2 + 1) }
    else s
  | [] => s

/-- A row of the next tile of the present word is read, while the tile buffer has room and the D input queue would have room
for a token (R171). -/
def tileRead (g : Nat) (w : Word) (s : State) : State :=
  let d := s.dr g
  let own := d.tile.isEmpty || d.tileFrom.1 == d.rdW
  if own && d.tile.length < tileRows w && dRoom (s.bench g) then
    let r := drawerRead g (affineAt d w d.rdA) s
    let x := r.2.dr g
    r.2.setDr g (readStep (affineCount w (patOf d w))
      { x with tile := d.tile ++ [r.1], tileFrom := if d.tile.isEmpty then (d.rdW, d.rdA) else d.tileFrom })
  else s

/-- Tiles that have been read go on into the D input port. -/
def tileStep (g : Nat) (s : State) : State :=
  if (s.dr g).tileIdle then s else tileEmit g (s.setDr g (tileFlip (s.dr g)))

/-- AFFINE_READ (R170–R172, R175–R177): one FCLK cycle of an affine read. Tiles that complete words have read are emitted first,
and a plain access waits for the last of their tokens (log 74). -/
def execAffineRead (g : CellId) (s : State) : Host.Outcome State Fault Refusal :=
  let n := g.toNat
  match partOfCell s n with
  | none => done s s
  | some p =>
    if genRuns s n p then
      match (readWord (s.dr n)).filter (fun w => fld w 62 2 == 0) with
      | none => done s (tileStep n s)
      | some w =>
        done s (if fld w 60 1 = 1 then tileRead n w (tileStep n s)
          else if (s.dr n).tileIdle then affinePlain n w s else tileStep n s)
    else done s s

/-- AFFINE_WRITE (R172, R176): the token at the head of the D output queue is written to the row its tag selects; one
beyond the word's accesses stays; a bubble writes nothing (R96). -/
def execAffineWrite (g : CellId) (s : State) : Host.Outcome State Fault Refusal :=
  let n := g.toNat
  let d := s.dr n
  match partOfCell s n, writeWord d, dHead (s.bench n) with
  | some p, some w, some t =>
    if genRuns s n p && fld w 62 2 = 0 then
      let count := affineCount w (patOf d w)
      let k := tokIndex d (fld w 24 16) (fld w 40 6 + 1) t
      if count ≤ k || !tagRoom d t then done s s
      else
        let u := dTake n s
        let u := if t.valid then drawerWrite n (affineAt d w k) t.payload u else u
        done s (u.setDr n (writeStep count (countTag (fld w 40 6 + 1) t (u.dr n))))
    else done s s
  | _, _, _ => done s s

/-- DRAWER_FILL (R182): one row of a fill word. -/
def execDrawerFill (g : CellId) (s : State) : Host.Outcome State Fault Refusal :=
  let n := g.toNat
  let d := s.dr n
  match partOfCell s n, writeWord d with
  | some p, some w =>
    if genRuns s n p && fld w 62 2 = 3 then
      let u := drawerWrite n (fld w 52 9 + d.wrA) (rowOf32 (fun _ => BitVec.ofNat 32 (fld w 0 32))) s
      done s (u.setDr n (writeStep (fld w 43 9 + 1) (u.dr n)))
    else done s s
  | _, _ => done s s

/-! ### Mode regions (R332–R337) -/

/-- Positions of the region. -/
def Drawer.regionN (d : Drawer) : Nat := if d.mode = 2 then d.msize / d.slot else d.msize
/-- Rows of a position. -/
def Drawer.perPos (d : Drawer) : Nat := if d.mode = 2 then d.slot else 1
/-- Distance from `q` to `p`. -/
def Drawer.dist (d : Drawer) (q p : Nat) : Nat := (p + 2 * d.regionN - q % (2 * d.regionN)) % (2 * d.regionN)
/-- A position advanced by `k`. -/
def Drawer.adv (d : Drawer) (p k : Nat) : Nat := (p + k) % (2 * d.regionN)
def Drawer.qCount (d : Drawer) : Nat := d.dist d.head d.tail
/-- Row `sub` of position `p` (R332). -/
def Drawer.posRow (d : Drawer) (p sub : Nat) : Nat := d.mbase + p % d.regionN * d.perPos + sub
/-- Position `p` may be written (R333). -/
def Drawer.posFree (d : Drawer) (p : Nat) : Bool := d.dist d.free p < d.regionN
/-- A position behind HEAD: its rows are discarded (R337). -/
def Drawer.posGone (d : Drawer) (p : Nat) : Bool := d.regionN ≤ d.dist d.head p
/-- `MQ_PTR` and `MQ_STAT` (R355). -/
def mqPtr (d : Drawer) : Word := BitVec.ofNat 64 (pack [(0, 16, d.head), (16, 16, d.tail), (32, 16, d.mark), (48, 16, d.free)])
def mqStat (d : Drawer) : Word :=
  BitVec.ofNat 64 (pack [(0, 10, d.qCount), (10, 1, if d.qCount = 0 then 1 else 0), (11, 1, d.under.toNat),
    (12, 1, d.qreset.toNat), (13, 2, d.mode), (15, 1, d.mvalid.toNat)])

/-- TAIL advances over the written positions; passing RES it raises RES (R333). -/
def tailAdvance : Nat → Drawer → Drawer
  | 0, d => d
  | fuel + 1, d =>
    if d.written.contains (d.tail % d.regionN) && d.qCount < d.regionN then
      let t := d.adv d.tail 1
      tailAdvance fuel { d with written := d.written.filter (· != d.tail % d.regionN), tail := t, tail2 := t,
                                res := if d.tail = d.res then t else d.res }
    else d

/-- A row of position `p` has landed (R333, R334). -/
def rowLanded (p : Nat) (d : Drawer) : Drawer :=
  let n := sget 0 d.slotCnt p + 1
  if n < d.perPos then { d with slotCnt := sset d.slotCnt p n }
  else tailAdvance d.regionN { d with slotCnt := sfilter d.slotCnt (· != p), written := d.written ++ [p % d.regionN] }

/-- The queue is reset (R337). -/
def Drawer.qResetState (d : Drawer) : Drawer :=
  { d with head := d.res, head2 := d.res, tail := d.res, tail2 := d.res, mark := d.res, free := d.res, mvalid := false,
           written := [], slotCnt := [], lastRow := 0, qreset := true, stale := d.started }

/-- Compare the copies of HEAD and TAIL, as every access to the region does (R337). -/
def queueCheck (g : Nat) (s : State) : State :=
  let d := s.dr g
  if d.head = d.head2 && d.tail = d.tail2 then s
  else
    let who := partOfCell s g
    let s := stepCauseOf who scEcc (s.setDr g d.qResetState)
    report { kind := 0x24, unit := .cell g, part := who, clock := 0, detail := (mqPtr d).toNat } [] s

/-- Put a row at position `p`, row `sub` of it; a row behind HEAD is discarded (R333, R337). -/
def posWrite (g p sub : Nat) (v : Option Row) (s : State) : State :=
  let d := s.dr g
  if d.posGone p then s
  else
    let s := match v with
      | some v => drawerWrite g (d.posRow p sub) v s
      | none => s
    s.setDr g (rowLanded p (s.dr g))

/-- A word of a generator that is a queue word with operation `op`. -/
def queueWord (w : Option Word) (op : Nat) : Option Word :=
  match w with
  | some w => if fld w 62 2 = 1 && fld w 58 3 = op then some w else none
  | none => none

/-- The PUSH word reserves its positions when it starts (R333). -/
def pushStart (w : Word) (d : Drawer) : Drawer :=
  if d.started then d
  else { d with started := true, stale := false, base := d.res, res := d.adv d.res ((fld w 45 12 + 1) / d.perPos) }

/-- PUSH (R172, R179, R333): the token at the head of the D output queue goes to its position after the reserved base, or
waits for space. -/
def execPush (g : CellId) (s : State) : Host.Outcome State Fault Refusal :=
  let n := g.toNat
  match partOfCell s n, queueWord (writeWord (s.dr n)) 0 with
  | some p, some w =>
    if genRuns s n p && (s.dr n).mode ≠ 0 then
      let u := queueCheck n s
      let u := u.setDr n (pushStart w (u.dr n))
      let d := u.dr n
      match dHead (u.bench n) with
      | none => done s u
      | some t =>
        let count := fld w 45 12 + 1
        let k := tokIndex d (fld w 23 16) (fld w 39 6 + 1) t
        let pos := d.adv d.base (k / d.perPos)
        if count ≤ k || !tagRoom d t || (!d.stale && !d.posFree pos) then done s u
        else
          let u := dTake n u
          let u := if d.stale then u else posWrite n pos (k % d.perPos) (if t.valid then some t.payload else none) u
          done s (u.setDr n (writeStep count (countTag (fld w 39 6 + 1) t (u.dr n))))
    else done s s
  | _, _ => done s s

/-- One row access of a POP (R334, R335). -/
def popRow (g : Nat) (w : Word) (s : State) : State :=
  let d := s.dr g
  let sub := d.rdA % d.perPos
  let dry := d.qCount = 0 || (sub ≠ 0 && d.dry)
  if dry && fld w 57 1 = 1 then s
  else
    let last := d.perPos ≤ sub + 1
    let r := if dry then (d.lastRow, s) else drawerRead g (d.posRow d.head sub) s
    let d := r.2.dr g
    let h := if last && !dry then d.adv d.head 1 else d.head
    let s := r.2.setDr g { d with head := h, head2 := h, dry := dry, lastRow := r.1, under := d.under || dry }
    let s := dPut g (genTag (fld w 23 16) (fld w 39 6 + 1) d.rdA) r.1 true s
    s.setDr g (readStep (fld w 45 12 + 1) (s.dr g))

/-- POP (R179, R335): one row from HEAD; on an empty region it waits, or emits the row most recently read. -/
def execPop (g : CellId) (s : State) : Host.Outcome State Fault Refusal :=
  let n := g.toNat
  match partOfCell s n, queueWord (readWord (s.dr n)) 1 with
  | some p, some w =>
    if genRuns s n p && (s.dr n).mode ≠ 0 && dRoom (s.bench n) && (s.dr n).tileIdle then done s (popRow n w (queueCheck n s)) else done s s
  | _, _ => done s s

/-- A word of the read generator that only moves pointers. -/
def pointerWord (g : CellId) (op : Nat) (f : Word → Drawer → Drawer) (s : State) : State :=
  let n := g.toNat
  match partOfCell s n, queueWord (readWord (s.dr n)) op with
  | some p, some w =>
    if genRuns s n p && (s.dr n).mode ≠ 0 then
      let u := queueCheck n s
      u.setDr n (nextRead (f w (u.dr n)))
    else s
  | _, _ => s

/-- MARK (R336). -/
def execMark (g : CellId) (s : State) : Host.Outcome State Fault Refusal :=
  done s (pointerWord g 2 (fun _ d => { d with mark := d.head, mvalid := true }) s)

/-- REWIND (R336). -/
def execRewind (g : CellId) (s : State) : Host.Outcome State Fault Refusal :=
  done s (pointerWord g 3 (fun _ d => if d.mvalid then { d with head := d.mark, head2 := d.mark } else { d with under := true }) s)

/-- What RELEASE does to the pointers: FREE moves to HEAD or to MARK, never past HEAD (R336). -/
def releaseTo (w : Word) (d : Drawer) : Drawer :=
  if fld w 22 1 = 0 then { d with free := d.head }
  else if !d.mvalid then { d with under := true }
  else { d with free := if d.dist d.mark d.head ≤ d.regionN then d.mark else d.head }

/-- RELEASE (R336). -/
def execRelease (g : CellId) (s : State) : Host.Outcome State Fault Refusal := done s (pointerWord g 4 releaseTo s)

/-! ### Checkpoint entry formats (R340–R342) -/

def elBytes (el : Nat) : Nat := if el = 1 then 2 else 4

/-- Elements of a row in the type EL. -/
def rowElems (el : Nat) (r : Row) : List Nat :=
  (List.range (32 / elBytes el)).map (fun i => fld r (8 * elBytes el * i) (8 * elBytes el))

/-- Rows from elements in the type EL. -/
def elemRows (el : Nat) (es : List Nat) : Nat → List Row
  | 0 => []
  | n + 1 =>
    let k := 32 / elBytes el
    BitVec.ofNat 256 (joinBits (8 * elBytes el) (es.take k)) :: elemRows el (es.drop k) n

def elVal (el v : Nat) : FVal := if el = 1 then bf16.decode v else fp32.decode v
def elBits (el : Nat) (v : FVal) : Nat := if el = 1 then bf16.roundBits v else fp32.roundBits v

/-- Bit j: row j is valid. -/
def rowMask (rows : List (Option Row)) : Nat := bitMask (rows.map Option.isSome)

/-- Rows by a validity mask: the given rows, one for each valid row in order. -/
def spread : List Bool → List Row → List (Option Row)
  | [], _ => []
  | true :: m, r :: rs => some r :: spread m rs
  | true :: m, [] => some 0 :: spread m []
  | false :: m, rs => none :: spread m rs

def maskBools (m n : Nat) : List Bool := (List.range n).map (fun j => bitsOf m j 1 == 1)

def rowBytes (rs : List Row) : List Byte := rs.flatMap (fun r => leBytes 32 r.toNat)

/-- The band form of a lossy entry (R340): code rows, exponents, validity mask. -/
def lossyRows (el : Nat) (rows : List (Option Row)) : List Row :=
  let es := rows.flatMap (fun r => rowElems el (r.getD 0))
  let blocks := (chunks 32 (es.length / 32) es).map (fun b => alignBlock (b.map (elVal el)) 127 (-127) (fun _ => none))
  let codes := blocks.map (fun b => rowOf8 (fun k => byteOfInt (b.2.getD k (0, false)).1))
  codes ++ byteRows (blocks.map (fun b => BitVec.ofNat 8 (byteOfInt b.1)) ++ leBytes 8 (rowMask rows))

/-- A lossy entry decoded from its band form. -/
def lossyDecode (el n : Nat) (band : List Row) : List (Option Row) :=
  let k := n * (32 / elBytes el) / 32
  let tail := rowBytes (band.drop k)
  let es := (band.take k).zipIdx.flatMap (fun b =>
    (List.range 32).map (fun i => elBits el ((FVal.ofInt (rowInt8 b.1 i)).scale (int8 (byteAt tail b.2)))))
  (elemRows el es n).zip (maskBools (leAt tail k 8) n) |>.map (fun e => if e.2 then some e.1 else none)

/-- Rows an entry takes in the band. -/
def bandLen (el n : Nat) (lossy : Bool) : Nat :=
  if lossy then
    let k := n * (32 / elBytes el) / 32
    k + (k + 8 + 31) / 32
  else n

/-- Run bytes over elements: zero runs and others (R342). -/
def runLens : List Nat → List (Bool × Nat)
  | [] => []
  | v :: vs =>
    match runLens vs with
    | (z, n) :: rs => if z = (v == 0) && n < 128 then (z, n + 1) :: rs else (v == 0, 1) :: (z, n) :: rs
    | [] => [(v == 0, 1)]

/-- Exponent field of an element. -/
def elExp (el v : Nat) : Nat := if el = 1 then bitsOf v 7 8 else bitsOf v 23 8
/-- Residual of an element: sign and mantissa. -/
def elRest (el v : Nat) : List Byte :=
  if el = 1 then leBytes 1 (bitsOf v 15 1 <<< 7 + bitsOf v 0 7) else leBytes 3 (bitsOf v 31 1 <<< 23 + bitsOf v 0 23)

/-- Nibbles packed low first. -/
def nibbleBytes : List Nat → List Byte
  | [] => []
  | [a] => [BitVec.ofNat 8 a]
  | a :: b :: ns => BitVec.ofNat 8 (a + b <<< 4) :: nibbleBytes ns

/-- The coded payload of the elements of an entry's valid rows (R342). -/
def codeElems (el : Nat) (es : List Nat) : List Byte :=
  let nz := es.filter (· != 0)
  let groups := (chunks 32 ((nz.length + 31) / 32) nz).map (fun g =>
    let xs := g.map (elExp el)
    let base := xs.foldl max 0
    (base, xs.map (fun x => if base - x ≤ 14 then base - x else 15), xs))
  (runLens es).map (fun r => BitVec.ofNat 8 ((if r.1 then 128 else 0) + r.2 - 1))
    ++ groups.flatMap (fun g => BitVec.ofNat 8 g.1 :: nibbleBytes g.2.1)
    ++ groups.flatMap (fun g => ((g.2.1.zip g.2.2).filter (fun e => e.1 == 15)).map (fun e => BitVec.ofNat 8 e.2))
    ++ nz.flatMap (elRest el)

/-- Runs that cover `n` elements, and the offset behind them. -/
def readRuns (bs : List Byte) : Nat → Nat → Nat → List (Bool × Nat) × Nat
  | 0, _, off => ([], off)
  | fuel + 1, n, off =>
    if n = 0 then ([], off)
    else
      let b := byteAt bs off
      let k := b % 128 + 1
      let r := readRuns bs fuel (n - k) (off + 1)
      ((128 ≤ b, k) :: r.1, r.2)

/-- Base and nibble of each of `n` elements, and the offset behind the plane. -/
def readPlane (bs : List Byte) : Nat → Nat → Nat → List (Nat × Nat) × Nat
  | 0, _, off => ([], off)
  | fuel + 1, n, off =>
    if n = 0 then ([], off)
    else
      let k := min n 32
      let base := byteAt bs off
      let ns := (List.range k).map (fun i => (base, bitsOf (byteAt bs (off + 1 + i / 2)) (4 * (i % 2)) 4))
      let r := readPlane bs fuel (n - k) (off + 1 + (k + 1) / 2)
      (ns ++ r.1, r.2)

/-- Exponents of a plane, with the escape bytes from `off`; and the offset behind those. -/
def readEscapes (bs : List Byte) : List (Nat × Nat) → Nat → List Nat × Nat
  | [], off => ([], off)
  | (base, nib) :: es, off =>
    if nib = 15 then
      let r := readEscapes bs es (off + 1)
      (byteAt bs off :: r.1, r.2)
    else
      let r := readEscapes bs es off
      ((base - nib) :: r.1, r.2)

/-- Elements from exponents and the residuals at `off`. -/
def readRests (el : Nat) (bs : List Byte) : List Nat → Nat → List Nat
  | [], _ => []
  | x :: xs, off =>
    if el = 1 then
      let r := leAt bs off 1
      (bitsOf r 7 1 <<< 15 + x <<< 7 + bitsOf r 0 7) :: readRests el bs xs (off + 1)
    else
      let r := leAt bs off 3
      (bitsOf r 23 1 <<< 31 + x <<< 23 + bitsOf r 0 23) :: readRests el bs xs (off + 3)

/-- Zero runs and other elements laid out in order. -/
def layRuns : List (Bool × Nat) → List Nat → List Nat
  | [], _ => []
  | (true, n) :: rs, vs => List.replicate n 0 ++ layRuns rs vs
  | (false, n) :: rs, vs => vs.take n ++ layRuns rs (vs.drop n)

/-- Elements of a coded payload (R342). -/
def decodeElems (el n : Nat) (bs : List Byte) : List Nat :=
  let r := readRuns bs n n 0
  let nz := ((r.1.filter (fun x => !x.1)).map (·.2)).foldl (· + ·) 0
  let p := readPlane bs nz nz r.2
  let e := readEscapes bs p.1 p.2
  layRuns r.1 (readRests el bs e.1 e.2)

/-- The spilled form of an entry (R341): header row and payload; `rows` is the band form of a lossy entry. -/
def spillForm (e : StkEnt) (rows : List (Option Row)) : List Byte :=
  let plain := rowBytes (rows.filterMap id)
  let coded := if !e.lossy && e.el ≠ 0 then codeElems e.el ((rows.filterMap id).flatMap (rowElems e.el)) else plain
  let code := !e.lossy && e.el ≠ 0 && coded.length < plain.length
  let data := if code then coded else plain
  let hdr := pack [(0, 16, e.tag.toNat), (16, 7, e.rows), (23, 2, e.el), (25, 1, e.lossy.toNat), (26, 1, code.toNat),
    (32, 16, data.length), (64, 64, e.vmask.toNat)]
  let body := leBytes 32 hdr ++ data
  body ++ zeros ((32 - body.length % 32) % 32)

/-- What a spilled form holds of an entry: the band form of a lossy one as it was stored (R43), or the rows by the
validity mask. -/
def spillRows (e : StkEnt) (bs : List Byte) : List (Option Row) :=
  let h := leAt bs 0 32
  let data := (bs.drop 32).take (bitsOf h 32 16)
  let mask := maskBools (bitsOf h 64 64) e.rows
  let valid := mask.countP id
  if e.lossy then (byteRows data).map some
  else if bitsOf h 26 1 = 1 then
    spread mask (elemRows e.el (decodeElems e.el (32 / elBytes e.el * valid) data) valid)
  else spread mask (byteRows data)

/-- The same of an entry whose data are replaced by zeros (R45). -/
def zeroRows (e : StkEnt) : List (Option Row) :=
  let rows := (maskBools e.vmask.toNat e.rows).map (fun v => if v then some 0 else none)
  if e.lossy then (lossyRows e.el rows).map some else rows

/-! ### The stack of a drawer (R39–R45) -/

def stackRows (s : State) (p : Nat) : Nat := s.stepRf p oStepCtrl 2 6

/-- The slice of a drawer in the spill region: its address and its bytes (R42). -/
def spillSlice (s : State) (p g : Nat) : Nat × Nat :=
  let size := (s.stepReg p oSpillSize).toNat / (65536 * partF s p) / 256 * 256
  ((s.stepReg p oSpillBase).toNat + (g - 65536 * partFirst s p) * size, size)

/-- Places of entries in a drawer's slice: offset and bytes. -/
def slicePlaces (d : Drawer) : List (Nat × Nat) :=
  d.stack.filterMap (fun e => match e.place with
    | .slice off len => some (off, len)
    | .fetching off len => some (off, len)
    | _ => none)

/-- The end byte of a drawer's slice (R339). -/
def sliceEnd (d : Drawer) : Nat := (slicePlaces d).foldl (fun m x => max m (x.1 + x.2)) 0

/-- The first byte of given places of a slice (R339); 0 of none. -/
def sliceFirst (xs : List (Nat × Nat)) : Nat := xs.foldl (fun m x => min m x.1) ((xs.headD (0, 0)).1)

/-- Bytes in use of a drawer's slice (R79). -/
def sliceUsed (d : Drawer) : Nat := (slicePlaces d).foldl (fun m x => m + x.2) 0

/-- Where `n` more bytes go in a slice of `size` bytes: at its end, else at the first gap that holds them (log 75). -/
def sliceGap (d : Drawer) (size n : Nat) : Option Nat :=
  let xs := slicePlaces d
  (sliceEnd d :: 0 :: xs.map (fun x => x.1 + x.2)).find? (fun o =>
    o + n ≤ size && xs.all (fun x => o + n ≤ x.1 || x.1 + x.2 ≤ o))

/-- `SPILL_USED` and `SPILL_PEAK` (R79). -/
def noteSpill (p : Nat) (s : State) : State :=
  let used := (cellsOf s p).foldl (fun m e => max m (sliceUsed e.2.dr)) 0
  let s := s.setStepRf p oSpillUsed 0 32 used
  s.setStepRf p oSpillPeak 0 32 (max used (s.stepRf p oSpillPeak 0 32))

/-- Rows of the band that hold an entry, and those that hold none. -/
def bandUsed (d : Drawer) : List Nat :=
  d.stack.flatMap (fun e => match e.place with
    | .band rows => rows
    | _ => [])
def bandFree (s : State) (p g : Nat) : List Nat :=
  let used := bandUsed (s.dr g)
  (List.range (stackRows s p)).filterMap (fun i =>
    let r := 512 - stackRows s p + i
    if used.contains r then none else some r)

/-- `a` stands before `b` in the order of R40. -/
def entBefore (a b : StkEnt) : Bool := a.frame < b.frame || (a.frame == b.frame && a.ord < b.ord)
def firstEnt : List StkEnt → Option StkEnt
  | [] => none
  | e :: es => match firstEnt es with
    | some x => if entBefore x e then some x else some e
    | none => some e
def lastEnt : List StkEnt → Option StkEnt
  | [] => none
  | e :: es => match lastEnt es with
    | some x => if entBefore e x then some x else some e
    | none => some e

def inBand (e : StkEnt) : Bool := match e.place with
  | .band _ => true
  | _ => false
def inSlice (e : StkEnt) : Bool := match e.place with
  | .slice _ _ => true
  | _ => false
def onWay (e : StkEnt) : Bool := match e.place with
  | .fetching _ _ => true
  | _ => false
def sameEnt (a b : StkEnt) : Bool := a.frame == b.frame && a.ord == b.ord

/-- Replace an entry, or take it away. -/
def putEnt (e : StkEnt) (d : Drawer) : Drawer := { d with stack := d.stack.map (fun x => if sameEnt x e then e else x) }
def dropEnt (e : StkEnt) (d : Drawer) : Drawer := { d with stack := d.stack.filter (fun x => !sameEnt x e) }

/-- Rows of a band entry, as stored. -/
def bandRead (g : Nat) : List Nat → State → List Row × State
  | [], s => ([], s)
  | r :: rs, s =>
    let a := drawerRead g r s
    let b := bandRead g rs a.2
    (a.1 :: b.1, b.2)

/-- Rows of an entry as they go into its spilled form: the band form, or its valid rows. -/
def formRows (e : StkEnt) (rows : List Row) : List (Option Row) :=
  if e.lossy then rows.map some
  else (rows.zip (maskBools e.vmask.toNat e.rows)).map (fun x => if x.2 then some x.1 else none)

/-- Move an entry to the slice: whether it has moved. It stays when the slice has no room or the access is denied
(R41, R44, R414). -/
def toSlice (p g : Nat) (e : StkEnt) (rows : List (Option Row)) (s : State) : Bool × State :=
  let bs := spillForm e rows
  let sl := spillSlice s p g
  match sliceGap (s.dr g) sl.2 bs.length with
  | none => (false, s)
  | some off =>
    let c := hbmDenied s (mPart s p) kWrite (sl.1 + off) bs.length
    if c.isSome then (false, noteGated c s)
    else
      let s := hbmWrite (some p) (sl.1 + off) bs s
      (true, noteSpill p (s.setDr g (putEnt { e with place := .slice off bs.length } (s.dr g))))

/-- Spill the oldest resident entries until the band has room for `n` rows (R41); whether it has. -/
def makeRoom (p g n : Nat) : Nat → State → Bool × State
  | 0, s => (n ≤ (bandFree s p g).length, s)
  | fuel + 1, s =>
    if n ≤ (bandFree s p g).length then (true, s)
    else match firstEnt ((s.dr g).stack.filter inBand) with
      | none => (false, s)
      | some e =>
        match e.place with
        | .band rs =>
          let r := bandRead g rs s
          let t := toSlice p g e (formRows e r.1) r.2
          if t.1 then makeRoom p g n fuel t.2 else t
        | _ => (false, s)

/-- Write rows to given rows of a drawer. -/
def bandWrite (g : Nat) : List Nat → List Row → State → State
  | r :: rs, v :: vs, s => bandWrite g rs vs (drawerWrite g r v s)
  | _, _, s => s

/-- An entry that finds no place is dropped, and `STEP_CAUSE.SPILL` is set (R44). -/
def dropPush (p g : Nat) (e : StkEnt) (s : State) : State :=
  let d := s.dr g
  stepCause p scSpill (s.setDr g (putEnt { e with place := .dropped } { d with full := true }))

/-- A push of an entry with its rows (R40–R44). -/
def stackPush (p g : Nat) (e : StkEnt) (rows : List (Option Row)) (s : State) : State :=
  let band := if e.lossy then lossyRows e.el rows else rows.map (·.getD 0)
  let bad := e.lossy && rows.any (fun r => (rowElems e.el (r.getD 0)).any (fun v => !(elVal e.el v).isFinite))
  let s := if bad then nanArose (some p) s else s
  let d := s.dr g
  let s := s.setDr g { d with stack := d.stack ++ [e] }
  if d.full then dropPush p g e s
  else if stackRows s p < e.len then
    let t := toSlice p g e (if e.lossy then band.map some else rows) s
    if t.1 then t.2 else dropPush p g e t.2
  else
    let r := makeRoom p g e.len 32 s
    if r.1 then
      let rs := (bandFree r.2 p g).take e.len
      let s := bandWrite g rs band r.2
      s.setDr g (putEnt { e with place := .band rs } (s.dr g))
    else dropPush p g e r.2

/-- Entries of the STK.PUSH words before the present one, which count in the order of R40. -/
def earlierEntries (d : Drawer) : Nat :=
  ((genWords d 1).take d.wrW).foldl (fun n w => if fld w 62 2 = 2 then n + fld w 41 12 + 1 else n) 0

/-- The present image selects lossy checkpoints (R43, R186). -/
def lossyJig (s : State) (p : Nat) : Bool := bitsOf (ofBytes (s.seen ((s.ctx p).jig + 15) 1)) 0 1 == 1

/-- A token joins its entry; a full entry is pushed (R181). -/
def pushTok (p g : Nat) (w : Word) (e : Nat) (t : Tok) (s : State) : State :=
  let d := s.dr g
  let n := fld w 53 6 + 1
  let rows := ((d.opened.find? (fun x => x.1 == e)).map (·.2)).getD [] ++ [if t.valid then some t.payload else none]
  let rest := d.opened.filter (fun x => x.1 != e)
  if rows.length < n then s.setDr g { d with opened := rest ++ [(e, rows)] }
  else
    let el := fld w 59 2
    let lossy := el ≠ 0 && lossyJig s p
    let frames := if d.framed then d.frames else d.frames + 1
    let x : StkEnt := { frame := frames, ord := earlierEntries d + e, tag := t.tag, el := el, lossy := lossy, rows := n,
                        vmask := BitVec.ofNat 64 (rowMask rows), len := bandLen el n lossy, place := .dropped }
    let s := stackPush p g x rows (s.setDr g { d with opened := rest, frames := frames, framed := true })
    s.setDr g (writeStep (fld w 41 12 + 1) (s.dr g))

/-- STK_PUSH (R169, R180, R181): one token of an entry; a token beyond the word's entries stays (R172), and one of a new
entry while 64 are open. -/
def execStkPush (g : CellId) (s : State) : Host.Outcome State Fault Refusal :=
  let n := g.toNat
  let d := s.dr n
  match partOfCell s n, writeWord d, dHead (s.bench n) with
  | some p, some w, some t =>
    let e := (t.tag - BitVec.ofNat 16 (fld w 25 16)).toNat
    let pushed := d.framed && d.stack.any (fun x => x.frame == d.frames && x.ord == earlierEntries d + e)
    let counted := d.opened.any (fun x => x.1 == e) || d.opened.length < 64
    if genRuns s n p && fld w 62 2 = 2 && e ≤ fld w 41 12 && !pushed && counted then done s (pushTok p n w e t (dTake n s))
    else done s s
  | _, _, _ => done s s

/-- Entries that the STK.PUSH words of the present jig push. -/
def pushTotal (d : Drawer) : Nat :=
  (genWords d 1).foldl (fun n w => if fld w 62 2 = 2 then n + fld w 41 12 + 1 else n) 0

/-- The frame of the present jig stands on top and has entries that no pop has taken yet: its tokens have begun to arrive
(R40, DEDUCED, log 54). -/
def frameForms (d : Drawer) : Bool := (d.framed || !d.opened.isEmpty) && d.popped < pushTotal d

/-- The entry that the next pop takes: the first of the last frame. Of the frame that the present jig forms it is the next in push
order, which a pop waits for (R40). -/
def nextPop (d : Drawer) : Option StkEnt :=
  if frameForms d then
    if d.framed then d.stack.find? (fun e => e.frame == d.frames && e.ord == d.popped) else none
  else match lastEnt d.stack with
    | none => none
    | some l => firstEnt (d.stack.filter (fun e => e.frame == l.frame))

/-- An entry leaves the stack by a pop. -/
def popEnt (e : StkEnt) (d : Drawer) : Drawer :=
  { dropEnt e d with popped := if d.framed && e.frame == d.frames then d.popped + 1 else d.popped, popTail := [] }

/-- The band at or below half full fetches the newest spilled entry back (R41). -/
def prefetch (p g : Nat) (s : State) : State :=
  let d := s.dr g
  if 2 * (bandUsed d).length ≤ stackRows s p && !d.stack.any onWay then
    match lastEnt (d.stack.filter inSlice) with
    | some e => if e.len ≤ (bandFree s p g).length then startFetch e d s else s
    | none => s
  else s
where startFetch (e : StkEnt) (d : Drawer) (s : State) : State :=
  match e.place with
  | .slice off len => s.setDr g (putEnt { e with place := .fetching off len } d)
  | _ => s

/-- A row that the spec leaves open, under the number of its free values. -/
def freeRow (n : Nat) : Row :=
  BitVec.ofNat 256 (joinBits 64 ((List.range 4).map (fun i => (Config.freeWord (n + i)).toNat)))

/-- `n` rows of an entry; what it does not hold is a free value (log 54). -/
def fitRows (n fresh : Nat) (rows : List (Option Row)) : List (Option Row) :=
  (List.range n).map (fun i => rows.getD i (some (freeRow (fresh + 4 * i))))

/-- ROWS and EL of a stack word. -/
def stkRows (w : Word) : Nat := fld w 53 6 + 1
def stkEl (w : Word) : Nat := fld w 59 2

/-- Rows that a STK.POP word emits of the entry on top, from what its band or spilled form holds (R180, R181). -/
def popForm (w : Word) (e : StkEnt) (form : List (Option Row)) : List (Option Row) :=
  if e.lossy then lossyDecode (stkEl w) (stkRows w) (form.map (·.getD 0)) else form

/-- The entry on top waits decoded, from the row on that is next to be emitted. -/
def popHold (g : Nat) (w : Word) (e : StkEnt) (form : List (Option Row)) (s : State) : State :=
  let d := s.dr g
  let rows := (fitRows (stkRows w) s.fresh (popForm w e form)).drop d.popIdx
  { s.setDr g { popEnt e d with popRows := rows } with fresh := s.fresh + 4 * stkRows w }

/-- Row `i` of a lossless entry in the band, by one row access; an invalid row is a bubble. -/
def bandRow (g : Nat) (e : StkEnt) (rs : List Nat) (i : Nat) (s : State) : Option Row × State :=
  match rs[i]? with
  | none => (some (freeRow s.fresh), { s with fresh := s.fresh + 4 })
  | some r =>
    if fld e.vmask i 1 = 1 then
      let a := drawerRead g r s
      (some a.1, a.2)
    else (none, s)

/-- The row of the band that holds place `i` of an entry, by one row access. -/
def bandAt (g : Nat) (rs : List Nat) (i : Nat) (s : State) : Row × State :=
  match rs[i]? with
  | none => (freeRow s.fresh, { s with fresh := s.fresh + 4 })
  | some r => drawerRead g r s

/-- Code rows of a lossy entry, which its tail rows follow (R340). -/
def codeRows (e : StkEnt) : Nat := e.rows * (32 / elBytes e.el) / 32

/-- The next row of a lossy entry in the band, with at most one row access: its tail rows come first, then each code row gives the
rows that it holds (R171, R340). -/
def popLossy (g : Nat) (w : Word) (e : StkEnt) (rs : List Nat) (s : State) : Option (Option Row) × State :=
  let d := s.dr g
  let n := codeRows e
  if n + d.popTail.length < e.len then
    let r := bandAt g rs (n + d.popTail.length) s
    (none, r.2.setDr g { r.2.dr g with popTail := d.popTail ++ [r.1] })
  else
    let per := elBytes (stkEl w)
    let b := d.popIdx / per
    let r := bandAt g rs b s
    let form := (List.range n).map (fun i => if i = b then r.1 else 0) ++ d.popTail
    let rows := ((fitRows (stkRows w) r.2.fresh (lossyDecode (stkEl w) (stkRows w) form)).drop d.popIdx).take (per - d.popIdx % per)
    let t : State := { r.2 with fresh := r.2.fresh + 4 * stkRows w }
    (some (rows.headD none), t.setDr g { t.dr g with popRows := rows.drop 1 })

/-- The next row of the entry on top, when it is at hand: decoded already, or in the band (R41, R44); else the fetch of a
spilled entry starts, or goes on. -/
def popNext (p g : Nat) (w : Word) (s : State) : Option (Option Row) × State :=
  match (s.dr g).popRows with
  | v :: rest => (some v, s.setDr g { s.dr g with popRows := rest })
  | [] =>
    let s := prefetch p g s
    match nextPop (s.dr g) with
    | none => (none, s)
    | some e =>
      match e.place with
      | .band rs =>
        if e.lossy then popLossy g w e rs s
        else
          let r := bandRow g e rs (s.dr g).popIdx s
          (some r.1, r.2)
      | .slice off len => (none, s.setDr g (putEnt { e with place := .fetching off len } (s.dr g)))
      | .fetching _ _ => (none, s)
      | .dropped =>
        let t := s.setDr g { popEnt e (s.dr g) with popRows := List.replicate (stkRows w - 1 - (s.dr g).popIdx) none }
        (some none, t)

/-- The entry that a pop reads from the band, row by row: it leaves the stack with its last row. -/
def popping (d : Drawer) : Option StkEnt := if d.popRows.isEmpty || !d.popTail.isEmpty then nextPop d else none
def popLast (e : Option StkEnt) (d : Drawer) : Drawer :=
  match e with
  | some e => if d.stack.any (sameEnt e) then popEnt e d else d
  | none => d

/-- STK_POP (R171, R180, R181): one token of the entry on top, with the tag that the word gives it; the access waits for
room at the D input port. -/
def execStkPop (g : CellId) (s : State) : Host.Outcome State Fault Refusal :=
  let n := g.toNat
  match partOfCell s n, readWord (s.dr n) with
  | some p, some w =>
    if genRuns s n p && fld w 62 2 = 2 && dRoom (s.bench n) && (s.dr n).tileIdle then
      match popNext p n w s with
      | (none, u) => done s u
      | (some v, u) =>
        let u := dPut n (BitVec.ofNat 16 (fld w 25 16 + (s.dr n).rdA)) (v.getD 0) v.isSome u
        let d := u.dr n
        done s (u.setDr n (if stkRows w ≤ d.popIdx + 1 then
            readStep (fld w 41 12 + 1) { popLast (popping (s.dr n)) d with popIdx := 0, popRows := [] }
          else { d with popIdx := d.popIdx + 1 }))
    else done s s
  | _, _ => done s s

/-- The entry whose fetch ends: the one the next pop takes, else another under way. -/
def fetchedEnt (d : Drawer) : Option StkEnt :=
  ((nextPop d).filter onWay).orElse (fun _ => d.stack.find? onWay)

/-- The STK.POP word the read generator stands at, when the entry is the one it waits for. -/
def popOwn (d : Drawer) (e : StkEnt) : Option Word :=
  if d.popRows.isEmpty && (nextPop d).any (sameEnt e) then (readWord d).filter (fun w => fld w 62 2 == 2) else none

/-- SPILL_FETCH_DONE (R41, R43, R45): a spilled entry arrives; it goes into the band as it was stored, or straight to the pop
that holds for it. -/
def execSpillFetchDone (g : CellId) (s : State) : Host.Outcome State Fault Refusal :=
  let n := g.toNat
  match partOfCell s n, fetchedEnt (s.dr n) with
  | some p, some e =>
    match e.place with
    | .fetching off len =>
      let free := bandFree s p n
      let own := popOwn (s.dr n) e
      if !fieldRuns s (n / 65536) || own.isNone && free.length < e.len then done s s
      else
        let a := (spillSlice s p n).1 + off
        let c := hbmDenied s (mPart s p) kRead a len
        let r := if c.isSome then ([], false, noteGated c s) else hbmRead (some p) a len s
        let bad := c.isSome || r.2.1
        let u := if bad then stepCause p scOchre r.2.2 else r.2.2
        let form := if bad then zeroRows e else spillRows e r.1
        let u := match own with
          | some w => popHold n w e form u
          | none =>
            let u := bandWrite n (free.take e.len) (form.map (·.getD 0)) u
            u.setDr n (putEnt { e with place := .band (free.take e.len) } (u.dr n))
        done s (noteSpill p u)
    | _ => done s s
  | _, _ => done s s

/-- A stack entry of the attempt is still held, in the band or in the slice (R46). -/
def stackHeld (s : State) (p : Nat) : Bool :=
  (cellsOf s p).any (fun e => e.2.dr.stack.any (fun x => x.place != .dropped) || !e.2.dr.popRows.isEmpty)

/-! ### The dowel network (R113–R116) -/

/-- A request for a drawer outside the partition (R116). -/
def dowelDeny (g h : Nat) (s : State) : State :=
  let who := partOfCell s g
  let s := setCabCause (g / 256) ccDowel s
  haltOf who (report { kind := 0x13, unit := .cell g, part := who, clock := 1, detail := h } [] s)

/-- Rows that a dowel access of a partition's cells may name: those below the stack band (R39, log 76). -/
def dowelRows (s : State) (p row n : Nat) : Bool := row + n ≤ 512 - stackRows s p

/-- REMOTE_READ (R39, R113, R116): the requester has room in its read return buffer, and the target serves the rows. -/
def execRemoteRead (requester target : CellId) (row : BitVec 9) (n : Nat) (s : State) : Host.Outcome State Fault Refusal :=
  let g := requester.toNat
  let h := target.toNat
  if !cellRuns s g || n = 0 || 8 < (s.dr g).reads.length + n || 512 < row.toNat + n then done s s
  else if partOfCell s h ≠ partOfCell s g then done s (dowelDeny g h s)
  else if !fieldRuns s (h / 65536) || !(partOfCell s g).any (fun p => dowelRows s p row.toNat n) then done s s
  else
    let r := drawerReads h row.toNat n s
    done s (r.2.setDr g { r.2.dr g with reads := (r.2.dr g).reads ++ r.1 })

/-- REMOTE_READ_DATA (R113): the next row of the oldest request passes to the D input port. The spec gives its token no
tag: a free value (log 6). -/
def execRemoteReadData (requester : CellId) (s : State) : Host.Outcome State Fault Refusal :=
  let g := requester.toNat
  match (s.dr g).reads with
  | v :: rest =>
    if cellRuns s g && dRoom (s.bench g) then
      let u := dPut g (BitVec.ofNat 16 (Config.freeWord s.fresh).toNat) v true s
      done s { u.setDr g { u.dr g with reads := rest } with fresh := s.fresh + 1 }
    else done s s
  | _ => done s s

/-- Rows a target's landing buffer holds for granted writes (R114). -/
def landingHeld (s : State) (h : Nat) : Nat :=
  s.dowel.foldl (fun n c => if c.granted.any (fun x => x.1 == h) then n + c.n else n) 0

/-- The row lies in the mode region of the drawer. -/
def inRegion (d : Drawer) (row : Nat) : Bool := d.mode ≠ 0 && d.mbase ≤ row && row < d.mbase + d.msize

/-- Positions that `n` rows take. -/
def posCount (d : Drawer) (n : Nat) : Nat := (n + d.perPos - 1) / d.perPos

/-- Target `h` grants `n` rows from `row` on when it has room (R114, R333): whether it does, with the granted base; the copies
of its pointers are compared in any case (R337). Rows go the way of the first of them (log 77). -/
def tryGrant (h row n : Nat) (s : State) : Option (Option Nat) × State :=
  if 8 < landingHeld s h + n || issueStops s h || !fieldRuns s (h / 65536) then (none, s)
  else if inRegion (s.dr h) row then
    let s := queueCheck h s
    let d := s.dr h
    if d.dist d.free d.res + posCount d n ≤ d.regionN then
      (some (some d.res), s.setDr h { d with res := d.adv d.res (posCount d n) })
    else (none, s)
  else (some none, s)

/-- A request waits for a grant of target `h`. -/
def Credit.waitsAt (c : Credit) (h : Nat) : Bool := c.targets.contains h && !c.granted.any (fun x => x.1 == h)

/-- Target `h` serves its requests in the order they arrived: the first that has no grant of it yet, of the requests from
number `i` on. -/
def grantAt (h : Nat) : Nat → Nat → State → State
  | 0, _, s => s
  | fuel + 1, i, s =>
    match s.dowel[i]? with
    | none => s
    | some c =>
      if c.waitsAt h then
        match tryGrant h c.row c.n s with
        | (some pos, t) =>
          grantAt h fuel (i + 1) { t with dowel := t.dowel.set i { c with granted := c.granted ++ [(h, pos)] } }
        | (none, t) => t
      else grantAt h fuel (i + 1) s

/-- Every target grants what it can. -/
def grantAll (hs : List Nat) (s : State) : State := hs.foldl (fun s h => grantAt h s.dowel.length 0 s) s

/-- The landing buffer of a drawer has room for `n` rows of a stream or of a host write, and no request waits there before
them (R114); a drawer whose issue has stopped, or whose clock has, grants none (R220, R517). -/
def landingRoom (s : State) (g n : Nat) : Bool :=
  landingHeld s g + min n 8 ≤ 8 && !s.dowel.any (fun c => c.waitsAt g) && !issueStops s g && fieldRuns s (g / 65536)

/-- Lowest and highest of some numbers. -/
def spanOf (xs : List Nat) : Nat × Nat := (xs.foldl min (xs.headD 0), xs.foldl max 0)

/-- Some cells are the cells of one rectangle within every cabinet of a rectangle of cabinets (R115). -/
def isRect (hs : List Nat) : Bool :=
  let x := spanOf (hs.map (fun h => cabX (h / 256)))
  let y := spanOf (hs.map (fun h => cabY (h / 256)))
  let cx := spanOf (hs.map (fun h => h % 16))
  let cy := spanOf (hs.map (fun h => h % 256 / 16))
  let n := (x.2 + 1 - x.1) * (y.2 + 1 - y.1) * ((cx.2 + 1 - cx.1) * (cy.2 + 1 - cy.1))
  hs.eraseDups.length == n

/-- CREDIT_REQUEST (R39, R114–R116): the request reaches the drawers of its rectangle, which grant in the order of
arrival. -/
def execCreditRequest (writer : CellId) (targets : List CellId) (row : BitVec 9) (n : Nat) (s : State) :
    Host.Outcome State Fault Refusal :=
  let g := writer.toNat
  let hs := targets.map (·.toNat)
  if !cellRuns s g || n = 0 || 8 < n || hs.isEmpty || 512 < row.toNat + n || !isRect hs then done s s
  else match hs.find? (fun h => partOfCell s h != partOfCell s g) with
    | some h => done s (dowelDeny g h s)
    | none =>
      if !(partOfCell s g).any (fun p => dowelRows s p row.toNat n) then done s s
      else
        let c : Credit := { writer := g, targets := hs.eraseDups, row := row.toNat, n := n, granted := [], arrived := false,
                            since := s.clk.cclk }
        done s (grantAll hs.eraseDups { s with dowel := s.dowel ++ [c] })

/-- Place in the list of requests of the oldest one of a writer whose joined grant has arrived. -/
def creditOf (s : State) (g : Nat) : Option Nat := s.dowel.findIdx? (fun c => c.writer == g && c.arrived)

/-- The requests of a writer whose joined grant has not arrived. -/
def asking (s : State) (g : Nat) : List Credit := s.dowel.filter (fun c => c.writer == g && !c.arrived)

/-- Every target of a request has granted it. -/
def Credit.joined (c : Credit) : Bool := c.granted.length == c.targets.length

/-- GRANT (R114, R115): the joined grant of the first request that every target has granted reaches the writer; `GRANT_WAIT`
counts. -/
def execGrant (writer : CellId) (s : State) : Host.Outcome State Fault Refusal :=
  let g := writer.toNat
  if !fieldRuns s (g / 65536) then done s s
  else
    let u := grantAll ((asking s g).flatMap (·.targets)).eraseDups s
    match u.dowel.findIdx? (fun c => c.writer == g && !c.arrived && c.joined) with
    | none => done s u
    | some i =>
      match u.dowel[i]? with
      | none => done s u
      | some c =>
        let u : State := { u with dowel := u.dowel.set i { c with arrived := true } }
        done s (u.count (rCabCount (g / 256) 4) (s.clk.cclk - c.since))

/-- Rows reach one target: its region in the order of its positions, or the rows named (R114, R333). -/
def landRows (row : Nat) (rows : List Row) (s : State) (t : Nat × Option Nat) : State :=
  match t.2 with
  | none => drawerWrites t.1 row rows s
  | some base =>
    rows.zipIdx.foldl (fun s v =>
      let d := s.dr t.1
      posWrite t.1 (d.adv base (v.2 / d.perPos)) (v.2 % d.perPos) (some v.1) s) s

/-- WRITE_DATA (R114, R115): the rows of the oldest granted request land in every target; the grant lapses. Drawers without their
clock take none (R517). -/
def execWriteData (writer : CellId) (rows : List Row) (s : State) : Host.Outcome State Fault Refusal :=
  match creditOf s writer.toNat with
  | none => done s s
  | some i =>
    match s.dowel[i]? with
    | none => done s s
    | some c =>
      if rows.length = c.n && (writer.toNat :: c.targets).all (fun h => fieldRuns s (h / 65536)) then
        let u := { s with dowel := s.dowel.eraseIdx i }
        done s (grantAll c.targets (c.granted.foldl (landRows c.row rows) u))
      else done s s

end Sys2Proof.Machine
end

