-- ==== Sys2Proof/Machine/Checks.lean ====
section
/-! DEFINITION. Sampled re-execution (12): the comparison of a capture by the partner and the referee, and the check report. -/

namespace Sys2Proof.Machine

/-- The partner and the referee of a cell (R478). -/
def partnerOf (g : Nat) : Nat := g / 256 * 256 + (g % 256 ^^^ 0x88)
def refereeOf (g : Nat) : Nat := g / 256 * 256 + (g % 256 ^^^ 0x80)

/-! ### The layout of a capture (R493) -/

/-- A list of bytes brought to `n` bytes. -/
def padTo (n : Nat) (bs : List Byte) : List Byte := (bs ++ zeros n).take n

def accBytes (r : Regs) : List Byte := (List.range 16).flatMap (fun i => leBytes 4 (r.ac i).toNat)

/-- The firing of a capture, to be executed again (R478). -/
def Capture.again (c : Capture) (g : Nat) : FireIn :=
  { g := g, idx := c.idx, word := c.word, tag := c.tag, toks := c.toks, regs := c.pre, k := c.k, coef := c.coef, step := c.step,
    jig := c.jig, epoch := c.epoch, small := c.small, qmult := wOp c.word == opQMULT }

/-- Vector registers a word reads, and those it writes. -/
def vectorReads (w : Word) : List Nat := (wordReads w).filter (fun r => r < 32)
def vectorWrites (w : Word) : List Nat := (wordWrites w).filter (fun r => r < 32)

/-- The product-table rows that a firing read, in array order then code order, and the table exponent. -/
def tableBytes (c : Capture) : List Byte :=
  let w := c.word
  if wOp w = opQMUL || wOp w = opQMULT then
    let x := c.again 0
    let pt := fld w 37 2
    let c2 := fld w 36 1 == 1
    let n := if c2 then 4 else 16
    let acts := (List.range (if c2 then 64 else 32)).map (fun i => codeAt (x.src 27 22) (fld w 21 1) c2 i)
    padTo 1024 (acts.flatMap (fun ac => (List.range n).flatMap (fun j => leBytes 2 (c.pre.entry pt (n * ac + j)).val.toNat)))
      ++ leBytes 1 (c.pre.exponent pt % 256).toNat
  else []

/-- The change of the range counters by a firing: saturations, overflows, largest exponent. -/
def rangeChange (pre out : Regs) : List Byte :=
  let sum := fun (r : Regs) (f : RangeCtr → Nat) => (r.ranges.map (fun e => f e.2)).foldl (· + ·) 0
  let top := (out.ranges.map (fun e => e.2.xmax)).foldl max (-128)
  leBytes 4 (sum out (·.sat) - sum pre (·.sat)) ++ leBytes 4 (sum out (·.ovf) - sum pre (·.ovf)) ++ leBytes 1 (byteOfInt top)

/-- The bytes that show the results of a firing: the 256 bytes of a check report (R493), then the tags of the emitted tokens,
the payloads of those behind the first, and the registers written behind the fourth, which the report has no room for
(log 28). -/
def resultBytes (c : Capture) : List Byte :=
  padTo 32 ((c.out.emits.head?.map (fun e => rowBytes [e.2.payload])).getD [])
    ++ padTo 128 ((vectorWrites c.word).flatMap (fun r => rowBytes [c.out.regs.vr r]))
    ++ accBytes c.out.regs
    ++ padTo 32 (leBytes 2 c.out.regs.sat.toNat ++ leBytes 2 c.out.regs.nan.toNat ++ rangeChange c.pre c.out.regs)
    ++ c.out.emits.flatMap (fun e => leBytes 2 e.2.tag.toNat)
    ++ c.out.emits.tail.flatMap (fun e => rowBytes [e.2.payload])
    ++ ((vectorWrites c.word).drop 4).flatMap (fun r => rowBytes [c.out.regs.vr r])

/-- The bits of `resultBytes` that the firing produced (R478): emitted payloads and tags, registers and accumulators written,
saturation bits, NaN flag and range-counter increments. -/
def producedBits (c : Capture) : List Byte :=
  let ones := fun n => List.replicate n (0xFF : Byte)
  padTo 32 (if c.out.emits.isEmpty then [] else ones 32)
    ++ padTo 128 (ones (32 * (vectorWrites c.word).length))
    ++ padTo 64 (if (wordWrites c.word).contains accReg then ones 64 else [])
    ++ padTo 32 (ones 2 ++ [1, 0] ++ ones 9)
    ++ ones (2 * c.out.emits.length) ++ ones (32 * (c.out.emits.length - 1))
    ++ ones (32 * ((vectorWrites c.word).length - 4))

/-- What stages that get the bits of a mask wrong obtain: a bit that the firing did not produce stays. -/
def spoil (c : Capture) (err : List Byte) : List Byte :=
  let bs := resultBytes c
  (bs.zip ((producedBits c).zip (padTo bs.length err))).map (fun e => e.1 ^^^ (e.2.1 &&& e.2.2))

/-- What was consumed on one port. -/
def portByte (t : Option Tok) : Nat :=
  match t with
  | some t => 1 + 2 * t.valid.toNat + 4 * kindNum t.kind
  | none => 0

/-- The bytes of a capture behind its report, from 0x040 to 0xA00. -/
def captureBytes (c : Capture) (g : Nat) (partner referee : List Byte) : List Byte :=
  let toks := ports.map (fiveGet c.toks)
  let tag := (c.out.emits.head?.map (fun e => e.2.tag.toNat)).getD 0
  padTo 64 (leBytes 8 c.word.toNat ++ leBytes 2 c.tag.toNat ++ leBytes 2 tag ++ leBytes 4 g ++ leBytes 1 c.idx ++ leBytes 4 c.ord)
    ++ padTo 160 (toks.flatMap (fun t => (t.map (fun t => rowBytes [t.payload])).getD (zeros 32)))
    ++ padTo 32 (padTo 8 (toks.map (fun t => BitVec.ofNat 8 (portByte t))) ++ leBytes 2 c.pre.sat.toNat)
    ++ padTo 128 ((vectorReads c.word).flatMap (fun r => rowBytes [c.pre.vr r]))
    ++ accBytes c.pre
    ++ padTo 1088 (tableBytes c)
    ++ padTo 64 (c.coef.flatMap (fun v => leBytes 4 v.toNat))
    ++ padTo 256 (resultBytes c) ++ padTo 256 partner ++ padTo 384 (padTo 256 referee)

/-- Cut a list of bytes into entries of 64. -/
def entries64 : Nat → List Byte → List (List Byte)
  | 0, _ => []
  | n + 1, bs => bs.take 64 :: entries64 n (bs.drop 64)

/-! ### The comparison (R478–R480) -/

/-- A capture slot of a bench, and the bench without it. -/
def capAt (b : Bench) (slot : Bool) : Option Capture := if slot then b.cap1 else b.cap0
def capDrop (b : Bench) (slot : Bool) : Bench := if slot then { b with cap1 := none } else { b with cap0 := none }

/-- A mismatch (R480): the cells named as faulty, the unit of the report, and ATTRIB. -/
def blame (g : Nat) (refOwn refPartner : Bool) : List Nat × Nat × Nat :=
  if refOwn then ([partnerOf g], partnerOf g, 1) else if refPartner then ([g], g, 1) else ([g, partnerOf g], g, 0)

/-- The check report of a mismatch, with what it sets off. -/
def checkFault (g p : Nat) (c : Capture) (partner referee : List Byte) (s : State) : State :=
  let w := blame g (referee == resultBytes c) (referee == partner)
  let s := setIntegCause icCheck (integCount p 1 (stepCause p scCheck s))
  let r : Rep := { kind := 3, unit := .cell w.2.1, part := some p, clock := 0, opcode := wOp c.word, index := c.idx,
                   tag := c.tag.toNat,
                   detail := pack [(0, 1, w.2.2), (8, 8, partnerOf g % 256), (16, 8, refereeOf g % 256)] }
  w.1.foldl (fun s h => countFault h s) (integrityHalt r (entries64 39 (captureBytes c g partner referee)) s)

/-- CHECK_EXECUTION (R478–R480): the partner executes a capture and compares; on a difference the referee does. The operands
say which bits of the results the stages of either get wrong; without faults they get what the bench got. -/
def execCheckExecution (g : CellId) (slot : Bool) (partnerErr refereeErr : List Byte) (s : State) :
    Host.Outcome State Fault Refusal :=
  let n := g.toNat
  match capAt (s.bench n) slot, partOfCell s n with
  | some c, some p =>
    if cellRuns s n then
      let t := integCount p 0 (s.setBench n (capDrop (s.bench n) slot))
      let found := spoil c partnerErr
      if found = resultBytes c then done s t else done s (checkFault n p c found (spoil c refereeErr) t)
    else done s s
  | _, _ => done s s

end Sys2Proof.Machine
end

