-- ==== Sys2Proof/Machine/Access.lean ====
section
/-! DEFINITION. What stands against a register write: the checks of each register, by the order of R561. -/

namespace Sys2Proof.Machine

/-- Index of a register in a row of registers `stride` bytes apart. -/
def indexAt (a base stride n : Nat) : Option Nat :=
  if base ≤ a ∧ (a - base) % stride = 0 ∧ (a - base) / stride < n then some ((a - base) / stride) else none

/-- The first code whose condition holds. -/
def firstOf : List (Bool × Code) → Option Code
  | [] => none
  | (c, code) :: cs => if c then some code else firstOf cs

/-- The order of R561 among the codes that apply. -/
def codeOrder : List Code := [eAccess, eBusy, eState, ePartition, eRange, eAlign, eCapacity, eVersion, eSignature]

/-- The code that is reported when several apply (R561); a code outside the list of R561 comes last. -/
def firstCode (cs : List (Bool × Code)) : Option Code :=
  let hit := cs.filter (·.1)
  match codeOrder.find? (fun c => hit.any (fun h => h.2 == c)) with
  | some c => some c
  | none => firstOf hit

/-- A region that a base and a size describe breaks its rule: its class or its end (R558). -/
def regionBad (s : State) (base size : Nat) (ok : Nat → Bool) : Bool :=
  size != 0 && (hbmEnd < base + size || !classAll s base size ok)

def isUmber (c : Nat) : Bool := c == 1
def isOchre (c : Nat) : Bool := c == 2
def isClassed (c : Nat) : Bool := c != 0

/-- The step registers an address shows: partition, context slot, offset (R446, R467). -/
def stepPlace (s : State) (a : Nat) : Option (Nat × Nat × Nat) :=
  if rStepPage 0 0 ≤ a && a < rStepPage 16 0 then
    let d := a - rStepPage 0 0
    some (d / 0x1000, (s.part (d / 0x1000)).slot, d % 0x1000)
  else if rStep 0 0 0 ≤ a && a < rStep 16 0 0 then
    let d := a - rStep 0 0 0
    some (d / 0x8000, d % 0x8000 / 0x1000, d % 0x1000)
  else none

/-- The address under which the model keeps a register: a step-page register lies in the view of its context, and a
register of every LINK page in the first (R555). -/
def homeAddr (s : State) (a : Nat) : Nat :=
  match stepPlace s a with
  | some (p, sl, off) => rStep p sl off
  | none => if bLINK ≤ a && a < bMEM && (a - bLINK) % 0x100000 = 0xF0 then rPortPending 0 else a

/-- STATE of the context of a slot. -/
def slotState (s : State) (p sl : Nat) : Nat := s.rf (rStep p sl oStepStatus) 0 3

/-- Ports a write to VOTE_CTRL names: the down ports, and the up port unless ROOT is 1 (R392). -/
def voteNames (v : Word) : List Nat :=
  portsOf (fld v 16 16) ++ (if fld v 4 1 = 1 then [] else [fld v 0 4])

/-- Writes to the step registers of a context (R71–R79, R267, R293, R354, R392, R447). -/
def stepWriteBad (p sl off : Nat) (v : Word) (s : State) : List (Bool × Code) :=
  let r := fun o => rStep p sl o
  let busy := slotState s p sl ≠ sIdle
  let page := v.toNat &&& pageMask
  let old := fun o => (s.reg (r o)).toNat
  let ports := (s.ctxAt p sl).ports
  if off = oStepCtrl then [(busy, eState), (32 < fld v 2 6, eRange)]
  else if off = oStepNumber then [(busy, eState)]
  else if off = oLeafBase then [(busy, eState), (regionBad s page (2 * old oLeafSize) isUmber, eRange)]
  else if off = oLeafSize then [(busy, eState), (regionBad s (old oLeafBase) (2 * page) isUmber, eRange)]
  else if off = oSpillBase then [(busy, eState), (regionBad s page (old oSpillSize) isOchre, eRange)]
  else if off = oSpillSize then [(busy, eState), (regionBad s (old oSpillBase) page isOchre, eRange)]
  else if off = oTensorBase then
    [(busy, eState), (regionBad s page (32 * fld (s.reg (r oTensorCtrl)) 0 13) isUmber, eRange)]
  else if off = oTensorCtrl then
    [(busy, eState), (4096 < fld v 0 13 || regionBad s (old oTensorBase) (32 * fld v 0 13) isUmber, eRange)]
  else if off = oJournalBase then [(busy, eState), (regionBad s page (old oJournalSize) isUmber, eRange)]
  else if off = oJournalSize then [(busy, eState), (regionBad s (old oJournalBase) page isUmber, eRange)]
  else if off = oRegenBase then
    [(busy, eState), (regionBad s page (16 * fld (s.reg (r oRegenCtrl)) 8 8) isUmber, eRange)]
  else if off = oRegenCtrl then [(busy, eState), (regionBad s (old oRegenBase) (16 * fld v 8 8) isUmber, eRange)]
  else if off = oVoteCtrl then
    [(busy || (voteNames v).any (fun n => !portLevel s n 3), eState),
     ((voteNames v).any (fun n => !holdsField s p (portField n) || fld ports n 1 != 1), ePartition)]
  else if off = oStepResolve then
    [(slotState s p sl ≠ sVoting || (s.ctxAt p sl).held.isSome || (s.ctxAt p sl).resolve.isSome || fld v 32 32 ≠ fld (s.reg (r oStepNumber)) 0 32, eState),
     (fld v 0 2 = 0 || fld v 0 2 = 3, eRange)]
  else []

/-- Writes to the CLK block (R507, R510–R515, R528). -/
def domainBad (d i : Nat) : Bool :=
  8 < d || (if d = 0 || d = 4 then 15 < i else if d = 3 then 7 < i else i ≠ 0)

/-- Frequency of a clock domain in kHz (R503). -/
def domainKhz (s : State) (d i : Nat) : Nat :=
  if d = 0 then 1000 * s.rf (rFclkStatus i) 0 12
  else if d = 1 then 1000 * s.rf rCclkCtrl 0 11
  else if d = 2 then 250000
  else if d = 3 then 1500000
  else if d = 4 then
    let r := s.rf (rPortStatus i) 3 2
    if r = 2 then 1562500 else if r = 1 then 781250 else 390625
  else if d = 5 then 1562500
  else if d = 6 then 250000
  else if d = 7 then 100000
  else 156250

/-- A write that clears an enable bit against R515. -/
def enableBad (old new : Word) (s : State) : Bool :=
  let clears := fun b => fld old b 1 = 1 && fld new b 1 = 0
  (List.range 16).any (fun f => clears f && (partOfField s f).isSome)
    || (anyPartOn s && ((List.range 16).any (fun i => clears (16 + i)) || clears 55 || clears 56))
    || (List.range 16).any (fun n => clears (32 + n) && s.rf (rPortCtrl n) 0 1 = 1)
    || (List.range 4).any (fun n => clears (48 + n) && s.rf (rEthCtrl n) 0 1 = 1)
    || clears 52 || clears 53 || clears 54

def clkWriteBad (a : Nat) (v : Word) (s : State) : List (Bool × Code) :=
  if a = rClkEnable0 then [(enableBad (s.reg a) v s, eState)]
  else if a = rCclkCtrl then
    [(anyPartOn s, eState), (fld v 0 11 < 500 || 1000 < fld v 0 11 || fld v 0 11 % 50 ≠ 0, eRange)]
  else if a = rSscCtrl then
    [(anyPartOn s, eState), (10 < fld v 0 4 || fld v 4 6 < 30, eRange)]
  else if a = rMeasCtrl then
    [(fld v 10 1 = 1 && s.rf rMeasCtrl 11 1 = 1, eBusy), (domainBad (fld v 0 4) (fld v 4 6) || fld v 32 24 = 0, eRange)]
  else if a = rObsCtrl then
    [(domainBad (fld v 0 4) (fld v 4 6) || 400000 * 2 ^ fld v 10 4 < domainKhz s (fld v 0 4) (fld v 4 6), eRange)]
  else if (indexAt a (rFclkSet 0) 8 16).isSome then
    [(fld v 0 12 < 1200 || 2200 < fld v 0 12 || fld v 0 12 % 25 ≠ 0, eRange)]
  else []

/-- Writes to the PWR block (R529, R556). -/
def pwrWriteBad (a : Nat) (v : Word) : List (Bool × Code) :=
  if a = rPwrCtrl then [(fld v 0 15 < 5000 || 22000 < fld v 0 15, eRange)]
  else if a = rThermCtrl then
    [(fld v 0 8 < 60 || 105 < fld v 0 8 || fld v 8 8 < 60 || 95 < fld v 8 8, eRange)]
  else []

/-- Boot has reached host-ready (R534). -/
def hostReady (s : State) : Bool := s.rf rBootStatus 0 3 == 7
def shutDown (s : State) : Bool := s.rf rPwrCause 6 1 == 1

/-! ### The boot directory (R537) -/

/-- The bytes of a copy that its CRC covers (log 9). -/
def dirBytes (d : BootDir) : List Byte := leBytes 1 d.stA ++ leBytes 1 d.stB ++ leBytes 2 d.next.toNat ++ leBytes 4 d.seq.toNat

/-- A copy passes its check. -/
def dirOk (d : BootDir) : Bool := d.crc == crc32c (dirBytes d)

/-- The copy at +0 is used: of the copies that pass it has the higher sequence number. -/
def dirFirst (f : Flash) : Bool := !dirOk f.dir1 || (dirOk f.dir0 && f.dir1.seq.toNat ≤ f.dir0.seq.toNat)

/-- The copy that is used. -/
def curDir (f : Flash) : BootDir := if dirFirst f then f.dir0 else f.dir1

/-- A change of the directory goes to the copy that is not used, with the next sequence number (log 9). -/
def putDir (d : BootDir) (f : Flash) : Flash :=
  let e := { d with seq := (curDir f).seq + 1 }
  let e := { e with crc := crc32c (dirBytes e) }
  if dirFirst f then { f with dir1 := e } else { f with dir0 := e }

/-- State of slot A (false) or B. -/
def slotIn (f : Flash) (b : Bool) : Nat := if b then (curDir f).stB else (curDir f).stA
def putSlot (b : Bool) (v : Nat) (f : Flash) : Flash :=
  putDir (if b then { curDir f with stB := v } else { curDir f with stA := v }) f

/-- Places and sizes of the areas of the flash (R537). -/
def fSlotSize : Nat := 100663296
def fStoreSize : Nat := 0x1E0000
def fCertsSize : Nat := 0x200000
def flashMap : List (Nat × Nat) :=
  [(0, 0x10000), (0x10000, 0x10000), (0x20000, fStoreSize), (0x200000, fCertsSize), (0x400000, fSlotSize), (0x6400000, fSlotSize),
   (0xC400000, 0x3C00000)]

/-- State of the inactive firmware slot (R537). -/
def otherSlot (s : State) : Nat := slotIn s.sec.flash (!s.sec.slot)

/-- Writes to the SEC block (R533, R546, R548). -/
def secWriteBad (m a : Nat) (v : Word) (s : State) : List (Bool × Code) :=
  let op := fld v 0 3
  let addr := s.rf rUpdAddr 0 39
  let len := s.rf rUpdLen 0 27
  if a = rResetCtrl then [(!hostReady s, eState)]
  else if a = rUpdCmd then
    [(s.rf rUpdStatus 0 1 = 1, eBusy),
     (op = 1 && ((hbmDenied s m kRead addr len).any (· != eGated) || !accHbm s m kRead addr len), eAccess),
     (op = 1 && hbmDenied s m kRead addr len == some eGated, eGated),
     ((op = 1 && recovery s) || (op = 2 && otherSlot s ≠ 1) || (op = 5 && s.rf rFuseInfo 7 1 = 0), eState),
     (op = 0 || 5 < op, eRange), (op = 1 && addr % 4096 ≠ 0, eAlign),
     ((op = 1 || op = 4) && fSlotSize < len, eCapacity)]
  else if a = rUpdData then [(!(s.sec.upd.any (·.stream)), eState)]
  else []

def lockAcc (s : State) : Bool := s.rf rAccCtrl 0 1 == 1
def lockClass (s : State) : Bool := s.rf rClassCtrl 0 1 == 1
def lockMgmt (s : State) : Bool := s.rf rMgmtCtrl 2 1 == 1

/-- The lock that governs the RWL fields of a register is set (R557). -/
def rwlLocked (s : State) (a : Nat) : Bool :=
  if rAccHbm 0 0 ≤ a && a < rAccCsr 128 then lockAcc s
  else if rMgmtCtrl ≤ a && a < rEvtDest then lockMgmt s
  else if rClassMap 0 ≤ a && a < rClassMap 16 then lockClass s
  else false

/-- A locked RWL field would change (R557). -/
def rwlBad (a : Nat) (v : Word) (s : State) : Bool :=
  match regRow a with
  | none => false
  | some r => rwlLocked s a && (v ^^^ s.reg a) &&& BitVec.ofNat 64 r.rwl != 0

/-- A doorbell value is accepted (R419). -/
def doorbellOk (r t : Nat) (s : State) : Bool :=
  let tail := s.rf (rRingTail r) 0 32
  let head := s.rf (rRingHead r) 0 32
  (t + 2 ^ 32 - tail) % 2 ^ 32 ≤ ringSize s r - (tail + 2 ^ 32 - head) % 2 ^ 32

/-- A CQ_HEAD value does not lower CQ_HEAD nor pass CQ_TAIL (R439). -/
def cqHeadOk (r t : Nat) (s : State) : Bool :=
  let head := (sget 0 s.cqHead r).toNat
  let tail := s.rf (rCqTail r) 0 32
  (t + 2 ^ 32 - head) % 2 ^ 32 ≤ (tail + 2 ^ 32 - head) % 2 ^ 32

/-- A queue pair may move from one STATE to another (R401). -/
def qpMove (old new : Nat) : Bool :=
  new == old || (new == old + 1 && new ≤ 3) || new == 4 || (old == 4 && new == 0)

/-- Writes to the HOST block (R401, R418–R420, R438, R439). -/
def hostWriteBad (m a : Nat) (v : Word) (s : State) : List (Bool × Code) :=
  if rRing 0 0 ≤ a && a < rRing 256 0 then
    let r := (a - rRing 0 0) / 0x100
    let off := (a - rRing 0 0) % 0x100
    let on := ringOn s r
    if off = 0x08 then
      [(on && (fld v 0 1 = 1 || fld v 1 15 ≠ fld (s.reg a) 1 15), eState), (fld v 1 5 < 6 || 16 < fld v 1 5, eRange)]
    else if off = 0x00 then [(on, eState)]
    else if off = 0x28 then [(on, eState), (v.toNat % 32 ≠ 0, eAlign)]
    else if off = 0x30 then [(on, eState), (fld v 12 4 < 6, eRange)]
    else []
  else match doorbellRing a with
    | some r =>
      let owner := m = ringDomain s r || m = mMgmt
      if (a - rDoorbell 0) % 0x1000 = 0 then
        [(!owner, eAccess), (!ringOn s r, eState), (!doorbellOk r (fld v 0 32) s, eRange)]
      else [(!owner, eAccess), (!ringOn s r, eState), (!cqHeadOk r (fld v 0 32) s, eRange)]
    | none =>
      if rQp 0 0 ≤ a && a < rQp 4096 0 then
        let q := (a - rQp 0 0) / 0x40
        let w := (a - rQp 0 0) % 0x40 / 8
        let st := s.rf (rQp q 0) 0 3
        let mask := match regRow a with
          | some r => r.rw
          | none => 0
        if w = 0 then
          [(!qpMove st (fld v 0 3) || (1 < st && (v ^^^ s.reg a).toNat &&& mask &&& (all64 - 7) ≠ 0), eState),
           (4 < fld v 0 3 || fld v 12 3 = 0 || 3 < fld v 12 3, eRange)]
        else [(1 < st && (v ^^^ s.reg a).toNat &&& mask ≠ 0, eState)]
      else []

/-- Writes to the ETH block (R440, R441). -/
def ethWriteBad (a : Nat) (v : Word) (s : State) : List (Bool × Code) :=
  match indexAt a (rEthCtrl 0) 0x100000 4 with
  | some _ =>
    [(fld (s.reg a) 0 1 = 1 && (v ^^^ s.reg a).toNat &&& 0x3FFF07FFFFFE ≠ 0, eState),
     (fld v 32 14 < 1518 || 9216 < fld v 32 14, eRange)]
  | none =>
    if (indexAt a (rPfcThr 0) 0x100000 4).isSome then [(fld v 0 16 ≤ fld v 16 16, eRange)]
    else if (indexAt a (rCcCtrl 0) 0x100000 4).isSome then [(fld v 8 4 = 0, eRange)]
    else if a = rMgmtCtrl then [(fld v 0 2 = 0 || fld v 0 2 = 3, eRange)]
    else if a = rEvtPeriod then [(fld v 0 16 = 0, eRange)]
    else []

/-- The port is one of the running context of its partition (R447). -/
def portOwned (s : State) (n : Nat) : Bool :=
  match partOfPort s n with
  | some p => fld (s.ctx p).ports n 1 == 1
  | none => false

/-- An entry of ring `n` is started and not complete, on the port or in the link state of a context that is out (R390). -/
def ringBusy (s : State) (n : Nat) : Bool :=
  let going := fun (l : Link) => l.entries.any (fun e => e.state == 2 || e.state == 3 || (e.state == 4 && !e.aborted))
  let kept := fun (x : Ctx) => x.saved.isSome && x.keepLink.any (fun l => l.1 == n && going l.2)
  going (s.link n) || s.ctxs.any (fun e => kept e.2) || s.parts.any (fun e => e.2.parked.any (fun k => kept k.ctx))

/-- Writes to the LINK block (R387, R390, R447). -/
def linkWriteBad (m a : Nat) (v : Word) (s : State) : List (Bool × Code) :=
  let n := (a - bLINK) / 0x100000
  let off := (a - bLINK) % 0x100000
  if off = 0x00 then [(fld v 1 2 = 3 || fld v 3 2 = 0, eRange)]
  else if off = 0x20 then
    let size := fld v 4 7
    [(ringBusy s n, eState),
     (size ≠ 0 && !(portOwned s n && portOwned s (fld v 0 4)), ePartition),
     (size = 1 || 64 < size || (size ≠ 0 && size ≤ fld v 11 6) || (size = 0 && fld v 11 6 ≠ 0), eRange)]
  else if off = 0x48 then
    if fld v 0 1 = 0 then []
    else
      let len := s.rf (rCopyLen n) 0 32
      let src := s.rf (rCopySrc n) 0 39
      [((hbmDenied s m kRead src len).any (· != eGated), eAccess), (hbmDenied s m kRead src len == some eGated, eGated), (s.rf (rCopyStatus n) 0 1 = 1, eBusy), (!portUp s n, eState),
       (len = 0 || len % 64 ≠ 0 || src % 64 ≠ 0 || s.rf (rCopyDst n) 0 39 % 64 ≠ 0, eAlign)]
  else []

/-- Raw storage of a class in units of 1/64 GiB (R299). -/
def rawUnits (c : Nat) : Nat := if c = 1 then 73 else if c = 2 then 65 else 0
def rawOfWord (v : Word) : Nat := ((List.range 32).map (fun i => rawUnits (fld v (2 * i) 2))).foldl (· + ·) 0
/-- RAW_USED (R299, R352). -/
def rawUsed (s : State) : Nat := ((List.range 16).map (fun k => rawOfWord (s.reg (rClassMap k)))).foldl (· + ·) 0

/-- Writes to the MEM block (R299, R329, R331). -/
def memWriteBad (a : Nat) (v : Word) (s : State) : List (Bool × Code) :=
  match indexAt a (rClassMap 0) 8 16 with
  | some _ =>
    [((List.range 32).any (fun i => fld v (2 * i) 2 = 3), eRange),
     (32768 < rawUsed s - rawOfWord (s.reg a) + rawOfWord v, eCapacity)]
  | none =>
    if rIstr 0 0 0 ≤ a && a < rIstr 16 0 0 then
      let p := (a - rIstr 0 0 0) / 0x1000
      let i := (a - rIstr 0 0 0) % 0x1000 / 0x40
      let off := (a - rIstr 0 0 0) % 0x40
      let busy := stepState s p ≠ sIdle
      let page := v.toNat &&& pageMask
      let size := (s.reg (rIstrSize p i)).toNat
      let released := istrPos s (rIstrReleased p i)
      let wr := istrPos s (rIstrWrite p i)
      if off = 0x00 then [(busy, eState), (regionBad s page size isClassed, eRange)]
      else if off = 0x08 then [(busy, eState), (regionBad s (s.reg (rIstrBase p i)).toNat page isClassed, eRange)]
      else if off = 0x10 then [(fld v 0 56 < wr || released + size < fld v 0 56, eRange)]
      else if off = 0x30 then [(busy, eState), (fld v 0 56 < released || wr < fld v 0 56, eRange)]
      else []
    else []

/-- A partition has a resident or a parked context. -/
def hasContext (s : State) (p : Nat) : Bool :=
  (List.range 8).any (fun sl => (s.ctxAt p sl).alive) || !(s.part p).parked.isEmpty

/-- Fields that a PART_CFG word gives. -/
def cfgFields (v : Word) : List Nat := (List.range (2 ^ fld v 4 3)).map (· + fld v 0 4)

/-- Writes to the SCHED block (R468, R469, R515); a module with a failed stack, which stays gated, accepts no partition (R535). -/
def schedWriteBad (a : Nat) (v : Word) (s : State) : List (Bool × Code) :=
  match indexAt a (rPartCfg 0) 8 16 with
  | some p =>
    let on := fld v 7 1 = 1
    let others := fun f => (List.range 16).any (fun q => q != p && holdsField s q f)
    [(hasContext s p, eState), (on && fld v 4 3 ≤ 4 && (cfgFields v).any others, ePartition),
     (4 < fld v 4 3 || fld v 0 4 % 2 ^ fld v 4 3 ≠ 0, eRange),
     (on && ((cfgFields v).any (fun f => s.rf rClkEnable0 f 1 = 0) || s.rf rClkEnable0 16 16 ≠ 0xFFFF
        || s.rf rClkEnable0 55 2 ≠ 3 || s.rf rBootStatus 3 8 ≠ 0), eGated)]
  | none =>
    match indexAt a (rPartSched 0) 0x1000 16 with
    | some _ =>
      [(fld v 0 20 = 0 || 1000000 < fld v 0 20 || fld v 20 20 = 0 || 1000000 < fld v 20 20, eRange)]
    | none =>
      match stepPlace s a with
      | some (p, sl, off) => stepWriteBad p sl off v s
      | none => []

/-- Writes to the INTEG block (R475, R486, R489, R501). -/
def integWriteBad (a : Nat) (v : Word) (s : State) : List (Bool × Code) :=
  let page := v.toNat &&& pageMask
  if a = rLogBase then [(regionBad s page (s.reg rLogSize).toNat isUmber, eRange)]
  else if a = rLogSize then [(regionBad s (s.reg rLogBase).toNat page isUmber, eRange)]
  else if a = rLogTail then
    let d := (fld v 0 32 + 2 ^ 32 - s.rf rLogHead 0 32) % 2 ^ 32
    [(d ≠ 0 && d < 2 ^ 31, eRange)]
  else if a = rTestBase then
    [(!s.integ.pkgs.isEmpty, eState), (regionBad s page (s.reg rTestSize).toNat isUmber, eRange)]
  else if a = rTestSize then
    [(!s.integ.pkgs.isEmpty, eState), (regionBad s (s.reg rTestBase).toNat page isUmber, eRange)]
  else match indexAt a (rPartCtrl 0) 0x100 16 with
    | some p => [(fld v 3 1 = 1 && stepState s p ≠ sHalted, eState), (4 < fld v 0 3, eRange)]
    | none => []

/-- Writes to the FABRIC block (R345). -/
def fabricWriteBad (a : Nat) (v : Word) (s : State) : List (Bool × Code) :=
  if a = rRemapReq then
    [((remapRequest (fld v 24 12 * 256 + fld v 16 8) (fld v 0 9) s).isNone, eCapacity)]
  else []

/-- What the register at `a` has against a write of `v` by master `m`. -/
def regWriteBad (m a : Nat) (v : Word) (s : State) : List (Bool × Code) :=
  (rwlBad a v s, eAccess) ::
    match blockOf a with
    | some 1 => clkWriteBad a v s
    | some 2 => pwrWriteBad a v
    | some 3 => secWriteBad m a v s
    | some 4 => hostWriteBad m a v s
    | some 5 => ethWriteBad a v s
    | some 6 => linkWriteBad m a v s
    | some 7 => memWriteBad a v s
    | some 8 => schedWriteBad a v s
    | some 9 => integWriteBad a v s
    | some 10 => fabricWriteBad a v s
    | _ => []

/-- The checks that precede every other one, in the order of R551: alignment, gate, access table, offset. -/
def csrDenied (m a : Nat) (write : Bool) (s : State) : Option Code :=
  if a % 8 ≠ 0 then some eAlign
  else if pageGated s a then some eGated
  else if (blockOf a).isSome && !accCsr s m a write then some eAccess
  else if (regRow a).isNone then some eRange
  else none

/-- The code with which a write is rejected (R551, R561). -/
def csrWriteCode (m a : Nat) (v : Word) (s : State) : Option Code :=
  match csrDenied m a true s with
  | some c => some c
  | none => firstCode (regWriteBad m a v s)

/-- The lock bits that a write of 0 does not clear (R412, R352, R441). -/
def stickyBits (a : Nat) : Nat :=
  if a = rAccCtrl then 1 else if a = rClassCtrl then 1 else if a = rMgmtCtrl then 4 else 0

/-- The value a register holds after a write that is taken (R9): RW and RWL bits as written, W1C bits cleared where 1 is
written, lock bits kept. -/
def regStored (a : Nat) (old v : Word) : Word :=
  match regRow a with
  | none => old
  | some r =>
    let w := BitVec.ofNat 64 (r.rw ||| r.rwl)
    let c := BitVec.ofNat 64 r.w1c
    (((old &&& ~~~w) ||| (v &&& w)) &&& ~~~(v &&& c)) ||| (old &&& BitVec.ofNat 64 (stickyBits a))

/-- Record a rejected register access (R435, R438): `HOST_ERR`, the cause bits of HOST_CAUSE. -/
def csrReject (code : Code) (m : Nat) (write : Bool) (a : Nat) (s : State) : State :=
  let s := setHostCause hcRegErr (hostErr code m write a s)
  let s := if code = eGated then setHostCause hcGated s else s
  if write && (doorbellRing a).isSome then setHostCause hcDoorbell s else s

end Sys2Proof.Machine
end

