-- ==== Sys2Proof/Machine/Clocks.lean ====
section
/-! DEFINITION. Clocks, throttling, power, sensors and shutdown (13): what register writes set off and the meanings of
the events. -/

namespace Sys2Proof.Machine

/-! ### What writes to the CLK block set off -/

/-- Bits that a write of an enable register turns from 0 to 1, or from 1 to 0. -/
def risen (old new : Word) : List Nat := (List.range 64).filter (fun b => fld old b 1 = 0 && fld new b 1 = 1)
def fallen (old new : Word) : List Nat := (List.range 64).filter (fun b => fld old b 1 = 1 && fld new b 1 = 0)

/-- A unit whose enable bit is set accepts accesses once its PLL is locked (R516). The PLL of a field that is switched off or on
is not locked (R528). -/
def clkEnabled (old new : Word) (s : State) : State :=
  let t := (List.range 16).foldl (fun s f => if fld old f 1 = fld new f 1 then s else s.setRf (rFclkStatus f) 17 1 0) s
  { t with clk := { t.clk with
      locking := (t.clk.locking.filter (fun u => !(fallen old new).contains u)) ++ risen old new } }

/-- `FCLK_SET` of field `f`: the PLL relocks at once when no enabled partition holds the field; otherwise the new
frequency is pending, and replaces an earlier pending one (R507). -/
def fclkSet (f : Nat) (s : State) : State :=
  let mhz := s.rf (rFclkSet f) 0 12
  if (partOfField s f).isSome then
    { s.setRf (rFclkStatus f) 18 1 1 with clk := { s.clk with relock := sset s.clk.relock f mhz } }
  else (s.setRf (rFclkStatus f) 0 12 mhz).setRf (rFclkStatus f) 18 1 0

/-- Pending frequencies of a partition's fields are applied, between the last install and GO (R507). -/
def fclkRelock (p : Nat) (s : State) : State :=
  (List.range 16).foldl (fun s f =>
    if holdsField s p f && s.rf (rFclkStatus f) 18 1 = 1 then
      (s.setRf (rFclkStatus f) 0 12 (sget 0 s.clk.relock f)).setRf (rFclkStatus f) 18 1 0
    else s) s

/-- `MEAS_CTRL.START` (R511): the measurement keeps the selection and the window it is started with. -/
def measStart (v : Word) (s : State) : State :=
  if fld v 10 1 = 1 then { s.setRf rMeasCtrl 11 1 1 with clk := { s.clk with meas := some v } } else s

/-- Clock `i` of domain `d` is gated (R511, R512, R514). -/
def domainGated (s : State) (d i : Nat) : Bool :=
  if d = 0 then unitGated s i || s.clk.unlocked.contains i
  else if d = 3 then unitGated s (16 + i)
  else if d = 4 then unitGated s (32 + i)
  else false

/-! ### Shutdown and resets -/

/-- The units on the service die, whose registers outlive a shutdown (R524, R529; log 8). -/
def serviceReg (a : Nat) : Bool := a < bETH || (rMgmtCtrl ≤ a && a < bLINK)

/-- The bytes of the remap and retirement store that its CRC covers (log 9). -/
def storeBytes (f : Flash) : List Byte :=
  (f.remap.map (·.toNat) ++ f.retired.flatMap (fun r => [r.1, r.2]) ++ f.faults.flatMap (fun e => [e.1, e.2])).flatMap (leBytes 8)

/-- The store is written anew, with its CRC-32C (R537). -/
def sealStore (f : Flash) : Flash := { f with storeCrc := crc32c (storeBytes f) }

/-- The flash with the fault counts that firmware keeps in it (R531; log 89). -/
def keptFlash (s : State) : Flash :=
  if s.integ.faults.isEmpty then s.sec.flash
  else sealStore { s.sec.flash with faults := s.integ.faults.foldl (fun m e => sset m e.1 e.2) s.sec.flash.faults }

/-- The module shuts down (R524): core, plinths and stacks lose power and contents; SHUTDOWN and REASON are set and an
attention frame is sent. -/
def shutdown (reason : Nat) (s : State) : State :=
  if shutDown s then s
  else
    let s := (s.setRf rPwrCause 6 1 1).setRf rPwrCause 8 3 reason
    let s := if s.rf rEvtDest 48 1 = 1 && mgmtFull s then attentionFrame s else s
    { s with sec := { s.sec with flash := keptFlash s },
             csr := s.csr.filter (fun e => serviceReg e.1), mem := {}, hbmErr := [], drErr := [], cells := [], dowel := [],
             cabs := [], ctxs := [], parts := [], edges := [], gathers := [], plinths := [], links := [], eths := [],
             rdma := [], rings := [], integ := {}, cqHead := [] }

/-- The outcome of a command that has taken the state from `s` to `t` and shuts the module down: the frame of R524 is that of the
attention; a module that is shut down already goes on raising causes. -/
def shutdownDone (reason : Nat) (s t : State) : Host.Outcome State Fault Refusal :=
  if shutDown s || !s.sec.powered then done s t else .next (shutdown reason t)

/-- The module right after a power-on reset, with what a reset keeps: the fuses and the module flash (R531). -/
def powerOn (s : State) : State :=
  { State.reset with sec := { flash := keptFlash s, fuses := s.sec.fuses }, sent := s.sent, fresh := s.fresh,
                     pending := s.pending }

/-- An update under way when the module resets leaves the inactive slot bad (R546). -/
def abortUpd (s : State) : State :=
  if s.sec.upd.isSome then { s with sec := { s.sec with upd := none, flash := putSlot (!s.sec.slot) 3 s.sec.flash } } else s

/-- The module loses its power (R520, R524): nothing runs before PWR_OK rises. -/
def powerLost (s : State) : State :=
  let t := powerOn (abortUpd s)
  { t with sec := { t.sec with powered := false } }

/-- The module reset (R530, R531): as a power-on reset, but the drawers keep their rows until boot overwrites them, and
HBM contents are undefined. -/
def moduleReset (s : State) : State :=
  let t := powerOn (abortUpd s)
  { t with mem := s.mem.forgetFrom 0 s.fresh, drErr := s.drErr, fresh := s.fresh + 1 }

/-! ### Meanings -/

/-- PLL_UNLOCK (R517): the field stops, `CLK_CAUSE.UNLOCK` is set, the partition that holds it halts. -/
def execPllUnlock (f : BitVec 4) (s : State) : Host.Outcome State Fault Refusal :=
  let f := f.toNat
  let t := (s.orReg rClkCause (2 ^ f)).setRf (rFclkStatus f) 17 1 0
  let t := { t with clk := { t.clk with unlocked := if t.clk.unlocked.contains f then t.clk.unlocked else f :: t.clk.unlocked } }
  done s (haltOf (partOfField t f) t)

/-- PLL_LOCK (R516, R517): the PLL of a unit is locked; its pages accept accesses, a field runs again. -/
def execPllLock (u : BitVec 6) (s : State) : Host.Outcome State Fault Refusal :=
  let u := u.toNat
  let t := { s with clk := { s.clk with locking := s.clk.locking.filter (· != u),
                                        unlocked := s.clk.unlocked.filter (· != u) } }
  done s (if u < 16 then t.setRf (rFclkStatus u) 17 1 1 else t)

/-- Duty of a field after one period of R509. -/
def nextDuty (d : Nat) (hot above cool : Bool) : Nat :=
  if hot || above then max 4 (d - 1) else if cool then min 16 (d + 1) else d

/-- A reading of a sensor in quarter °C. -/
def tempQc (s : State) (n : Nat) : Int := toSigned (s.rf (rTemp n) 0 16) 16

/-- Mean frequency of a field's PLL in units of 1/4000 MHz: below the set frequency by half the depth of the down-spread, which
`SSC_CTRL.DEPTH` counts in steps of 0.05 % (R510). -/
def meanMhz (s : State) (f : Nat) : Nat := s.rf (rFclkStatus f) 0 12 * (4000 - s.rf rSscCtrl 0 4)

/-- One field at a throttle period (R508, R509): its duty, the cycles withheld in 10 µs, with what is left of one, in
`THROT_CYC`, and `PWR_CAUSE.THROTTLE` as the duty falls below 16 (R529). -/
def throttleField (s : State) (f : Nat) : State :=
  if s.rf rClkEnable0 f 1 = 0 then s
  else
    let t : Int := 4 * s.rf rThermCtrl 0 8
    let pin := s.rf rPinAvg 0 16
    let limit := s.rf rPwrCtrl 0 15
    let d := s.rf (rFclkStatus f) 12 5
    let hot := (List.range 4).any (fun q => t ≤ tempQc s (4 * f + q))
    let cool := (List.range 4).all (fun q => tempQc s (4 * f + q) < t - 8) && pin * 16 < limit * 15
    let d' := nextDuty d hot (limit < pin) cool
    let n := sget 0 s.clk.throtRem f + (if unitGated s f then 0 else meanMhz s f * 10 * (16 - d))
    let s := { s with clk := { s.clk with throtRem := sset s.clk.throtRem f (n % 64000) } }.count (rThrotCyc f) (n / 64000)
    let s := s.setRf (rFclkStatus f) 12 5 d'
    if 16 ≤ d && d' < 16 then s.orReg rPwrCause 1 else s

/-- THROTTLE_TICK: every 10 µs the device sets the duty of each enabled field (R509). -/
def execThrottleTick (s : State) : Host.Outcome State Fault Refusal :=
  done s (if shutDown s || unitGated s 54 then s else (List.range 16).foldl throttleField s)

/-- Edges that clock `i` of domain `d` delivers in `w` MCLK cycles at its present frequency: of a field at its duty and its mean
frequency (R508, R510, R511). -/
def measEdges (s : State) (d i w : Nat) : Nat :=
  if d = 0 then meanMhz s i * s.rf (rFclkStatus i) 12 5 * w / 16000000 else domainKhz s d i * w / 250000

/-- The lowest and the highest frequency in kHz that a domain may have had during a window (R503): a field, a plinth or a port may
have stood still, a field may have run up to 2,200 MHz, a port at the full lane rate, CCLK at 500 to 1,000 MHz. -/
def domainSpan (s : State) (d i : Nat) : Nat × Nat :=
  if d = 0 then (0, 2200000) else if d = 1 then (500000, 1000000) else if d = 3 then (0, 1500000)
  else if d = 4 then (0, 1562500) else (domainKhz s d i, domainKhz s d i)

/-- The count of a window: the edges at the present frequency, and by how many the window differed from that, inside what the
domain can deliver. The references may lie 150 ppm apart (R504), and one edge is lost or gained at either end. -/
def measCount (s : State) (v : Word) (drift : Int) : Nat :=
  let d := fld v 0 4
  let i := fld v 4 6
  let w := fld v 32 24
  let k := domainSpan s d i
  let lo := k.1 * w * 999850 / 250000000000 - 1
  let hi := k.2 * w * 1000150 / 250000000000 + 1
  if domainGated s d i then 0 else min hi (max lo (measEdges s d i w + drift).toNat)

/-- MEASURE_END (R511): the count lands in `MEAS_COUNT` and BUSY returns to 0; a gated domain counts 0. `drift` is by how many
edges the window differs from one at the present frequency. -/
def execMeasureEnd (drift : Int) (s : State) : Host.Outcome State Fault Refusal :=
  match s.clk.meas with
  | some v =>
    let t := (s.setRf rMeasCount 0 32 (measCount s v drift)).setRf rMeasCtrl 11 1 0
    done s { t with clk := { t.clk with meas := none } }
  | none => done s s

/-- What the pin CLKOBS carries (R512, R525): none is a steady low; otherwise the frequency of the selected clock in kHz and the
number it is divided by. -/
def clkObs (s : State) : Option (Nat × Nat) :=
  let d := s.rf rObsCtrl 0 4
  let i := s.rf rObsCtrl 4 6
  if s.rf rClkEnable1 0 1 = 0 || !s.sec.powered || shutDown s || domainGated s d i then none
  else some (domainKhz s d i, 2 ^ s.rf rObsCtrl 10 4)

/-- REF100_LOSS (R518, R524): the cause is set and the module shuts down. -/
def execRef100Loss (s : State) : Host.Outcome State Fault Refusal :=
  shutdownDone 5 s (s.orReg rClkCause 0x10000)

/-- CALIBRATION of a channel (R513): its period calls for it, or its plinth sensor has moved by 5 °C. A failed calibration, listed
with its cycles, is repeated at once and sets `PL_CAUSE.CAL`; each takes at most 1 µs of PCLK, which `CAL_CYC` counts. -/
def execCalibration (k : CalChannel) (cycles : Fin 1501) (failed : List (Fin 1501)) (s : State) :
    Host.Outcome State Fault Refusal :=
  let n := k.stack.toNat
  let ch := k.channel.toNat
  let x := s.plinth n
  if unitGated s (16 + n) || !(k.periodic || x.calDue.contains ch) then done s s
  else
    let t := s.count (rPlCount n 5) (failed.foldl (fun m c => m + c.val) cycles.val)
    let t := t.setPlinth n { x with calTemp := sset x.calTemp ch (BitVec.ofNat 16 (t.rf (rTemp (64 + n)) 0 16)),
                                    calDue := x.calDue.filter (· != ch) }
    done s (if failed.isEmpty then t else t.orReg (rPlCause n) 8)

/-- The sensor of plinth `k` has moved by 5 °C since the last calibration of these channels (R513). -/
def calMoved (s : State) (k : Nat) : List Nat :=
  (s.plinth k).calTemp.filterMap (fun e => if 20 ≤ (tempQc s (64 + k) - e.2.toInt).natAbs then some e.1 else none)

/-- Channels of plinth `k` fall due for a calibration (R513). -/
def calTrigger (s : State) (k : Nat) : State :=
  let x := s.plinth k
  let new := (calMoved s k).filter (fun c => !x.calDue.contains c)
  if new.isEmpty then s else s.setPlinth k { x with calDue := x.calDue ++ new }

/-- Put a list of readings into registers from number `n` on. -/
def putReadings (addr : Nat → Nat) : Nat → List (BitVec 16) → State → State
  | _, [], s => s
  | n, v :: vs, s => putReadings addr (n + 1) vs (s.setReg (addr n) (BitVec.ofNat 64 v.toNat))

/-- Consecutive conversions at or above a limit, per sensor. -/
def hotCount (limit : Int) (s : State) (base count : Nat) (old : Sparse Nat) : Sparse Nat :=
  (List.range count).filterMap (fun i =>
    if 4 * limit ≤ tempQc s (base + i) then some (base + i, sget 0 old (base + i) + 1) else none)

/-- A plinth at HBM_HOT halves its request rate until it reads below HBM_HOT − 2 °C (R523). -/
def hbmHot (s : State) (k : Nat) : State :=
  let t : Int := 4 * s.rf rThermCtrl 8 8
  let q := tempQc s (64 + k)
  if t ≤ q then (s.setPlinth k { s.plinth k with hot := true }).orReg rPwrCause 4
  else if (s.plinth k).hot && q < t - 8 then s.setPlinth k { s.plinth k with hot := false }
  else s

/-- The causes of the input voltage (R519). -/
def vinCause (mv : Nat) (s : State) : State :=
  if mv < 46000 then s.orReg rPwrCause 8 else if 58000 < mv then s.orReg rPwrCause 16 else s

/-- SENSOR_CONVERSION (R519, R522–R524, R529): the readings, their causes, the shutdown on three hot conversions. -/
def execSensorConversion (temps mvs : List (BitVec 16)) (vin iin pin : BitVec 16) (mj : Nat) (s : State) :
    Host.Outcome State Fault Refusal :=
  if unitGated s 54 then done s s
  else
    let t := putReadings rVmon 0 (mvs.take 24) (putReadings rTemp 0 (temps.take 72) s)
    let t := ((t.setReg rVin (BitVec.ofNat 64 vin.toNat)).setReg rIin (BitVec.ofNat 64 iin.toNat)).setReg rPinAvg
      (BitVec.ofNat 64 pin.toNat)
    let t := vinCause vin.toNat (t.count rEnergy mj)
    let t := if t.rf rPwrCtrl 0 15 < pin.toNat then t.orReg rPwrCause 32 else t
    let hot : Int := 4 * t.rf rThermCtrl 0 8
    let t := if (List.range 64).any (fun n => hot ≤ tempQc t n) then t.orReg rPwrCause 2 else t
    let t := (List.range 8).foldl calTrigger ((List.range 8).foldl hbmHot t)
    let fh := hotCount 115 t 0 64 t.clk.fieldHot
    let ph := hotCount 105 t 64 8 t.clk.hbmHot
    let t := { t with clk := { t.clk with fieldHot := fh, hbmHot := ph } }
    if fh.any (fun e => 3 ≤ e.2) then shutdownDone 1 s t
    else if ph.any (fun e => 3 ≤ e.2) then shutdownDone 2 s t
    else done s t

/-- VIN_RANGE (R519): outside 46–58 V a cause is set; below 44 V or above 60 V for 100 µs the module shuts down; at 40 V or below
the service die loses its power as well (R524). -/
def execVinRange (mv : BitVec 16) (sustained : Bool) (s : State) : Host.Outcome State Fault Refusal :=
  let t := vinCause mv.toNat s
  if s.sec.powered && mv.toNat ≤ 40000 then .next (powerLost s)
  else if sustained && mv.toNat < 44000 then shutdownDone 3 s t
  else if sustained && 60000 < mv.toNat then shutdownDone 4 s t
  else done s t

/-- PWR_OK_RISE (R520, R530, R531): a power-on reset. -/
def execPwrOkRise (s : State) : Host.Outcome State Fault Refusal := .next (powerOn s)

/-- PWR_OK_FALL (R520): the module stops at once, as the removal of power does. -/
def execPwrOkFall (s : State) : Host.Outcome State Fault Refusal := .next (powerLost s)

/-- RST_N (R530, R533): a module reset; without effect while the module is shut down. -/
def execRstN (s : State) : Host.Outcome State Fault Refusal :=
  if shutDown s || !s.sec.powered then .next s else .next (moduleReset s)

end Sys2Proof.Machine
end

