-- ==== Sys2Proof/Machine/Convert.lean ====
section
/-! DEFINITION. Conversions of the edge engines: FP8, MX and block-integer tensors to planes of codes (R248–R254, R318,
R319), rows to FP8 and MX (R255). -/

namespace Sys2Proof.Machine

/-! ### Small formats -/

/-- A value of a format without infinity or not-a-number: `eb` exponent bits, `mb` mantissa bits. -/
def smallVal (eb mb x : Nat) : FVal :=
  let neg := bitsOf x (eb + mb) 1 == 1
  let ef := bitsOf x mb eb
  let mf := bitsOf x 0 mb
  let bias : Int := (2 ^ (eb - 1) - 1 : Nat)
  if ef = 0 then .fin neg mf (1 - bias - mb) else .fin neg (2 ^ mb + mf) (ef - bias - mb)

def e5m2 : Fmt := { eb := 5, mb := 2 }

/-- The value of an FP8 element, E5M2 or E4M3 (R253). -/
def fp8Val (e5 : Bool) (x : Nat) : FVal :=
  if e5 then e5m2.decode x else if x % 128 = 127 then .nan else smallVal 4 3 x

/-- An FP8 element from a value (R255): one rounding, a finite value saturates. An infinity in E4M3 is an open value
(log 19). -/
def toFp8 (e5 : Bool) : FVal → Nat
  | .nan => if e5 then 0x7E else 0x7F
  | .inf neg => if e5 then 0x7C + (if neg then 128 else 0) else (Config.infE4M3 neg).toNat
  | .fin neg m e =>
    -- E4M3 has the exponent fields of a format with bias 15 on values 2⁻⁸ times as large
    let b := if e5 then min (e5m2.roundBits (.fin false m e)) 0x7B
      else min (({ eb := 5, mb := 3 } : Fmt).roundBits (.fin false m (e - 8))) 0x7E
    b + (if neg then 128 else 0)

/-! ### Blocks to planes -/

/-- A converted block: its exponent, its elements as patterns, and what R254 or R253 notes of it. -/
structure CBlock where
  x    : Int
  els  : List Nat
  low  : Bool := false
  high : Bool := false
  mxNan : Bool := false
  nan  : Bool := false
deriving DecidableEq, Repr

/-- HBM bytes of a block in a conversion of a READ (R318). -/
def convBytes (conv : Nat) : Nat := if conv = 3 then 16 else if conv = 4 || conv = 5 then 24 else if conv = 10 then 64 else 32

/-- Planes of a block (R249, R319). -/
def convPlanes (conv : Nat) : Nat := if conv = 3 then 1 else if conv = 10 then 4 else 2

/-- A conversion takes bytes at AUX, one for each block. -/
def convAux (conv : Nat) : Bool := (3 ≤ conv && conv ≤ 10) || conv == 20 || conv == 21

/-- The values of a block of floating-point elements. -/
def convVals (conv : Nat) (bs : List Byte) : List FVal :=
  let bits := ofBytes bs
  (List.range 32).map (fun i =>
    if conv = 4 then smallVal 2 3 (bitsOf bits (6 * i) 6)
    else if conv = 5 then smallVal 3 2 (bitsOf bits (6 * i) 6)
    else fp8Val (conv == 2 || conv == 7) (bitsOf bits (8 * i) 8))

/-- An integer as a pattern of 8 or 16 bits. -/
def patOfInt (w : Nat) (i : Int) : Nat := (i % (2 ^ w : Nat)).toNat

/-- The block exponent limited to a signed byte, with what that does to the elements (R254). -/
def limitBlock (x : Int) (els : List Int) (nan : Bool) : CBlock :=
  if x < -128 then
    { x := -128, els := els.map (fun i => patOfInt 8 ((FVal.ofInt i).scale (x + 128)).toIntRne), low := true, nan := nan }
  else if 127 < x then { x := 127, els := els.map (fun i => patOfInt 8 (127 * i.sign)), high := true, nan := nan }
  else { x := x, els := els.map (patOfInt 8), nan := nan }

/-- One block of a conversion; `aux` is its byte at AUX. -/
def convBlock (conv : Nat) (bs : List Byte) (aux : Nat) : CBlock :=
  if conv = 9 then { x := int8 aux, els := bs.map (·.toNat) }
  else if conv = 10 then { x := int8 aux, els := (List.range 32).map (fun i => leAt bs (2 * i) 2) }
  else if conv = 1 || conv = 2 then
    let vs := convVals conv bs
    let b := alignBlock vs 127 (-127) (fun _ => none)
    { x := b.1, els := b.2.map (fun e => patOfInt 8 e.1), nan := vs.any (fun v => !v.isFinite) }
  else if aux = 0xFF then { x := -128, els := List.replicate 32 0, mxNan := true, nan := true }
  else if conv = 3 then { x := aux - 127, els := (List.range 32).map (fun i => bitsOf (ofBytes bs) (4 * i) 4) }
  else if conv = 8 then limitBlock (aux - 133) (bs.map (·.toInt)) false
  else
    let vs := convVals conv bs
    let b := alignBlock vs 127 (-127) (fun _ => none)
    limitBlock (aux - 127 + b.1) (b.2.map (·.1)) (vs.any (fun v => !v.isFinite))

/-- The 16 bytes of one plane of a block; `sh` is the place of its nibble (R232, R249). -/
def planeBytes (els : List Nat) (sh : Nat) : List Byte :=
  (List.range 16).map (fun j =>
    BitVec.ofNat 8 (bitsOf (els.getD (2 * j) 0) sh 4 + bitsOf (els.getD (2 * j + 1) 0) sh 4 <<< 4))

/-- The rows of a group of up to 64 blocks (R319). -/
def groupRows (planes : Nat) (bs : List CBlock) : List Row :=
  (List.range planes).flatMap (fun k => byteRows (bs.flatMap (fun b => planeBytes b.els (4 * (planes - 1 - k)))))
    ++ byteRows (bs.map (fun b => BitVec.ofNat 8 (byteOfInt b.x)))

/-- The blocks of an HBM byte stream, with their bytes at AUX. -/
def convBlocks (conv : Nat) (bs aux : List Byte) : List CBlock :=
  (chunks (convBytes conv) (bs.length / convBytes conv) bs).zipIdx.map (fun b => convBlock conv b.1 (byteAt aux b.2))

/-- The drawer side of a READ conversion (R319). -/
def convRows (conv : Nat) (blocks : List CBlock) : List Row :=
  (chunks 64 ((blocks.length + 63) / 64) blocks).flatMap (groupRows (convPlanes conv))

/-- Rows on the drawer side for so many bytes on the HBM side of a READ; none when they do not divide. -/
def readRows (conv bytes : Nat) : Option Nat :=
  if conv = 0 then some (bytes / 32)
  else if bytes % convBytes conv ≠ 0 then none
  else
    let b := bytes / convBytes conv
    let r := b % 64
    let p := convPlanes conv
    some (b / 64 * (p * 32 + 2) + p * ((r + 1) / 2) + (r + 31) / 32)

/-! ### Rows to FP8 and MX (R255, R318) -/

/-- Elements of a row in a conversion of a WRITE: 8 FP32 or 16 BF16. -/
def outElems (conv : Nat) : Nat := if conv = 18 || conv = 19 || conv = 21 then 16 else 8

/-- HBM bytes that `n` drawer rows become; none when they do not divide into blocks. -/
def writeBytes (conv n : Nat) : Option Nat :=
  if conv = 0 then some (32 * n)
  else if (conv = 20 || conv = 21) && n * outElems conv % 32 ≠ 0 then none
  else some (n * outElems conv)

def rowVals (conv : Nat) (r : Row) : List FVal :=
  if outElems conv = 16 then (List.range 16).map (fun i => ofBf16 (lane16 r i)) else (List.range 8).map (fun i => f32 (lane32 r i))

/-- The shared scale of a block (OCP MX v1.0): the exponent of its largest finite magnitude less 8, that of 448. -/
def mxScale (vs : List FVal) : Nat :=
  match largestAbs (vs.filter FVal.isFinite) with
  | .fin _ m e => if m = 0 then Config.mxZeroScale.toNat else (min (max ((m.log2 : Int) + e - 8 + 127) 0) 254).toNat
  | _ => 0

/-- The bytes and the scales that rows become. -/
def outBytes (conv : Nat) (rows : List Row) : List Byte × List Byte :=
  if conv = 0 then (rowBytes rows, [])
  else
    let vs := rows.flatMap (rowVals conv)
    if conv = 20 || conv = 21 then
      let blocks := chunks 32 (vs.length / 32) vs
      let xs := blocks.map mxScale
      ((blocks.zip xs).flatMap (fun b => b.1.map (fun v => BitVec.ofNat 8 (toFp8 false (v.scale (127 - b.2))))),
        xs.map (BitVec.ofNat 8))
    else (vs.map (fun v => BitVec.ofNat 8 (toFp8 (conv == 17 || conv == 19) v)), [])

end Sys2Proof.Machine
end

