-- ==== Sys2Proof/Machine/Links.lean ====
section
/-! DEFINITION. Nolosh links, gates, rings, in-link reduction, votes on the wire and transport copies (09). -/

namespace Sys2Proof.Machine

/-! ### The link layer (R357–R364) -/

def linkOn (s : State) (n : Nat) : Bool := !unitGated s (32 + n)
def portEn (s : State) (n : Nat) : Bool := s.rf (rPortCtrl n) 0 1 == 1
def portState (s : State) (n : Nat) : Nat := s.rf (rPortStatus n) 0 3
def setPortCause (n bit : Nat) (s : State) : State := s.orReg (rPortCause n) (2 ^ bit)

/-- Bits of `PORT_CAUSE` (R390). -/
def lcDown : Nat := 0
def lcCap : Nat := 1
def lcAbort : Nat := 2
def lcRing : Nat := 3
def lcGate : Nat := 4
def lcGather : Nat := 5
def lcPeerDeny : Nat := 6
def lcRedDeny : Nat := 7

/-- The port sends no flit of entries and copies: a full scan-out stops it, or its link state is saved (R388, R459). -/
def portHeld (s : State) (n : Nat) : Bool :=
  (s.link n).frozen || (match partOfPort s n with
    | some p => (s.part p).frozen
    | none => false)

/-- `k` flits of entries or copies can go out on a channel: the port is up at the lowest level of the channel (R360, R361). -/
def canSend (s : State) (n vc k : Nat) : Bool :=
  portLevel s n (if vc = 3 then 1 else 2) && !portHeld s n && k ≤ vcGet (s.link n).credit vc && (s.link n).unacked.length + k ≤ 512

/-- The next 64 bytes of the transport copy under way go out, read as they stand (R387). -/
def sendCopy (n : Nat) : Nat → State → State
  | 0, s => s
  | fuel + 1, s =>
    match (s.link n).copy with
    | none => s
    | some c =>
      if c.total ≤ c.sent || !canSend s n 3 1 then s
      else
        let r := hbmReadPlain none (c.src + c.sent) 64 s
        let t := r.2.setLink n { r.2.link n with copy := some { c with sent := c.sent + 64 } }
        sendCopy n fuel (sendFlit n 3 (.copyPart c.dst (BitVec.ofNat 32 c.total) c.sent r.1) t)

/-- Flits up to a sequence number are acknowledged (R359). -/
def ackUpTo (ack : BitVec 10) (l : Link) : Link :=
  { l with unacked := l.unacked.filter (fun u => (ack - u.1).toNat ≥ 512) }

/-- The credit and acknowledgement fields of a flit (R359, R360). -/
def takeAck (n : Nat) (ack : BitVec 10) (cvc : BitVec 2) (cc : BitVec 4) (s : State) : State :=
  let l := ackUpTo ack (s.link n)
  s.setLink n { l with credit := vcSet l.credit cvc.toNat (vcGet l.credit cvc.toNat + cc.toNat) }

/-! ### Rings and entries (R370–R372) -/

def ringSizeOf (s : State) (m : Nat) : Nat := s.rf (rRingReg m) 4 7
def ringPos (s : State) (m : Nat) : Nat := s.rf (rRingReg m) 11 6
def ringIn (s : State) (m : Nat) : Nat := s.rf (rRingReg m) 0 4
/-- The ring whose data arrives on port `n`. -/
def ringFrom (s : State) (n : Nat) : Option Nat :=
  (List.range 16).find? (fun m => ringSizeOf s m ≠ 0 && ringIn s m == n)

/-- Entry `e` of the layer table of the image at `img`, 32 bytes (R187), as the load of the image read it (log 45). -/
def layerAt (s : State) (img e : Nat) : List Byte := s.seen (img + ofBytes (s.seen (img + 20) 4) + 32 * e) 32
/-- An entry of the layer table of the present image. -/
def layerEntry (s : State) (p e : Nat) : List Byte := layerAt s (s.ctx p).jig e
def layerCount (s : State) (p : Nat) : Nat := ofBytes (s.seen ((s.ctx p).jig + 16) 2)

def leLayer (e : List Byte) : Nat := leAt e 0 2
def leKind (e : List Byte) : Nat := leAt e 2 1
def leComp (e : List Byte) : Nat := leAt e 3 1
def leDtype (e : List Byte) : Nat := leAt e 4 1
def lePorts (e : List Byte) : Nat := leAt e 6 2
def leCount (e : List Byte) : Nat := leAt e 8 4

/-- The run of blocks of an entry that travels on ring `n` (R372): first block and number of blocks. -/
def partRun (e : List Byte) (n : Nat) : Nat × Nat :=
  let b := leCount e / 32
  let ps := portsOf (lePorts e)
  let j := (ps.filter (· < n)).length
  let k := ps.length
  (j * b / k, (j + 1) * b / k - j * b / k)

/-- An entry of the layer table as it starts on port `n`. -/
def newEntry (p sl n i : Nat) (e : List Byte) : Entry :=
  let r := partRun e n
  { idx := i, layer := BitVec.ofNat 16 (leLayer e), part := p, slot := sl, kind := leKind e, comp := leComp e = 1,
    dtype := leDtype e = 1, first := r.1, blocks := r.2, kerf := leAt e 12 4, src := leAt e 16 8, dst := leAt e 24 8,
    ports := BitVec.ofNat 16 (lePorts e), state := 1, tag := 0, ch := 0, toks := [], recv := 0, locals := [], sent := 0, comb := 0, deliv := 0, taken := 0, written := 0,
    aborted := false }

def findEntry (l : Link) (i : Nat) : Option Entry := l.entries.find? (fun e => e.idx == i)

/-- An entry takes its place at a port. Outside a step a new one ends an abort of the ring before it; in a step the ring stays
aborted until the attempt ends, and the entry with it (R386, log 23). -/
def setEntry (n : Nat) (e : Entry) (s : State) : State :=
  let l := s.link n
  if l.entries.any (fun x => x.idx == e.idx && x.state != 4) then
    s.setLink n { l with entries := l.entries.map (fun x => if x.idx == e.idx then e else x) }
  else
    let still := l.aborted && stepState s e.part != sIdle
    s.setLink n { l with entries := l.entries.filter (fun x => x.idx != e.idx) ++ [{ e with aborted := e.aborted || still }],
                         aborted := still }

/-- Bytes of a block (R373). -/
def blockBytes (fp32 : Bool) : Nat := if fp32 then 128 else 64
/-- Bytes the local store of a port holds (R373). -/
def storeUsed (l : Link) : Nat :=
  (l.entries.map (fun e => e.locals.length * blockBytes e.dtype)).foldl (· + ·) 0

/-- Blocks of a part that position `pos` of a ring of `n` owns (R372). -/
def shardSize (blocks n pos : Nat) : Nat := if n = 0 then 0 else (blocks + (n - 1) - pos) / n

/-- The blocks that this device starts are those its predecessor owns (R375, R377): how many, and their numbers. -/
def startedCount (s : State) (m : Nat) (e : Entry) : Nat :=
  shardSize e.blocks (ringSizeOf s m) ((ringPos s m + ringSizeOf s m - 1) % ringSizeOf s m)
def startedBlock (s : State) (m i : Nat) : Nat := (ringPos s m + ringSizeOf s m - 1) % ringSizeOf s m + ringSizeOf s m * i

/-! ### Block arithmetic (R375, R384) -/

/-- Addition in DTYPE, one rounding (R149, R375). -/
def dtAdd (fp32 : Bool) (a b : BitVec 32) : BitVec 32 :=
  if fp32 then addF32 a b
  else BitVec.ofNat 32 (toBf16 ((ofBf16 (BitVec.ofNat 16 a.toNat)).add (ofBf16 (BitVec.ofNat 16 b.toNat)))).toNat

/-- The value of an element of DTYPE. -/
def dtVal (fp32 : Bool) (a : BitVec 32) : FVal := if fp32 then f32 a else ofBf16 (BitVec.ofNat 16 a.toNat)

def addBlock (fp32 : Bool) (a b : List (BitVec 32)) : List (BitVec 32) := List.zipWith (dtAdd fp32) a b

/-- A BF16 value as an element of DTYPE. -/
def bfElem (fp32 : Bool) (v : BitVec 16) : BitVec 32 :=
  if fp32 then toF32 (ofBf16 v) else BitVec.ofNat 32 v.toNat

/-- The compressed block of a partial with its kerf record, and the new kerf record (R384). -/
def compress (fp32 : Bool) (p : List (BitVec 32)) (kf : List (BitVec 16)) : Word × List (BitVec 16) :=
  let v := List.zipWith (fun a k => dtAdd fp32 a (bfElem fp32 k)) p kf
  let sum := v.foldl (fun s x => addF32 s (toF32 (dtVal fp32 x).abs)) 0
  let m := toBf16 ((f32 sum).scale (-5))
  let signs := v.map (fun x => (dtVal fp32 x).lt (.fin false 0 0))
  let nk := List.zipWith (fun x neg =>
    let d := bfElem fp32 (if neg then m ^^^ 0x8000 else m)
    toBf16 (dtVal fp32 (if fp32 then toF32 ((f32 x).sub (f32 d))
      else BitVec.ofNat 32 (toBf16 ((dtVal false x).sub (dtVal false d))).toNat))) v signs
  (BitVec.ofNat 64 (bitMask signs + m.toNat <<< 32), nk)

/-- A compressed block decompressed (R384). -/
def decompress (fp32 : Bool) (b : Word) : List (BitVec 32) :=
  let m := BitVec.ofNat 16 (fld b 32 16)
  (List.range 32).map (fun k => bfElem fp32 (if fld b k 1 = 1 then m ^^^ 0x8000 else m))

/-- Tokens of a block, or of a half of one: 8 FP32 or 16 BF16 elements each (R374). -/
def blockToks (fp32 : Bool) (els : List (BitVec 32)) : List Row :=
  let n := if fp32 then 8 else 16
  let w := if fp32 then 32 else 16
  (List.range (els.length / n)).map (fun t =>
    BitVec.ofNat 256 (pack ((List.range n).map (fun i => (w * i, w, (els.getD (n * t + i) 0).toNat)))))

/-- Elements of the tokens of a block. -/
def rowsBlock (fp32 : Bool) (rows : List Row) : List (BitVec 32) :=
  let n := if fp32 then 8 else 16
  let w := if fp32 then 32 else 16
  rows.flatMap (fun r => (List.range n).map (fun i => BitVec.ofNat 32 (fld r (w * i) w)))

/-- Elements of block bytes and back. -/
def bytesBlock (fp32 : Bool) (bs : List Byte) : List (BitVec 32) :=
  let n := if fp32 then 4 else 2
  (List.range 32).map (fun i => BitVec.ofNat 32 (leAt bs (n * i) n))
def blockToBytes (fp32 : Bool) (els : List (BitVec 32)) : List Byte :=
  els.flatMap (fun x => leBytes (if fp32 then 4 else 2) x.toNat)

/-! ### Abort and failure (R364, R386) -/

/-- Put tokens on an outbound gate channel (R368, R377). -/
def gatePut (n ch : Nat) (ts : List Tok) (s : State) : State :=
  let l := s.link n
  s.setLink n { l with gateOut := sset l.gateOut ch (sget [] l.gateOut ch ++ ts) }

/-- Tokens of shard block `i`: rows with the tag of R377; bubbles when the block is owed by an aborted ring. -/
def shardToks (e : Entry) (i : Nat) (rows : List Row) (valid : Bool) : List Tok :=
  rows.map (fun r => { payload := r, tag := e.tag + 1 + BitVec.ofNat 16 i, valid := valid, epoch := false, kind := .data })

/-- The shard blocks an entry still owes, as bubbles (R386). -/
def owedBubbles (n : Nat) (s : State) (e : Entry) : State :=
  if e.kind = 0 then
    let total := shardSize e.blocks (ringSizeOf s n) (ringPos s n)
    let zero := List.replicate (if e.dtype then 4 else 2) (0 : Row)
    -- of an FP32 block half delivered, the second half
    gatePut n e.ch ((List.range (total - e.deliv)).flatMap (fun i =>
      shardToks e (e.deliv + i) (if i = 0 && e.half then zero.drop 2 else zero) false)) s
  else s

/-- An entry of an aborted ring: a started one is stopped and counts as complete; one that still collects its local blocks
absorbs them, and is stopped at its GRAD_DONE. -/
def Entry.abort (e : Entry) : Entry :=
  if e.state = 1 then { e with aborted := true } else if e.state = 4 then e else { e with state := 4, aborted := true, locals := [] }

/-- The entry is started and not complete on its port. -/
def Entry.started (e : Entry) : Bool := e.state == 2 || e.state == 3

/-- Send the ring abort to the successor, where the link is up at level 2 (R360, R386). -/
def sendAbort (m : Nat) (s : State) : State := if portLevel s m 2 then sendMsg m 2 .abort s else s

/-- Abort ring `m` on this device (R386): its entries stop and count as complete, the abort goes to the successor. While the
link state of the ring's context is saved, the abort waits for it (log 23). -/
def abortRing (m : Nat) (s : State) : State :=
  let l := s.link m
  if l.frozen then sendAbort m (s.setLink m { l with aborted := true })
  else
    let s := stepCauseOf (partOfPort s m) scLink (setPortCause m lcAbort s)
    let s := (l.entries.filter Entry.started).foldl (owedBubbles m) s
    sendAbort m (s.setLink m { s.link m with entries := l.entries.map Entry.abort, comb := [], aborted := true })

/-- This device aborts ring `m` of its own accord: where both ports of the ring are up, the abort it sends comes back to it, and
stops there (R386, log 23). -/
def ownAbort (m : Nat) (s : State) : State :=
  let back := portLevel s m 2 && portUp s (ringIn s m)
  let s := abortRing m s
  s.setLink m { s.link m with abortOwn := back || (s.link m).abortOwn }

/-- Abort every ring whose out or IN port is `n`. -/
def abortPort (n : Nat) (s : State) : State :=
  (List.range 16).foldl (fun s m =>
    if ringSizeOf s m ≠ 0 && (m = n || ringIn s m = n) then ownAbort m s else s) s

/-- The port goes down (R364, R386): causes, aborts, a copy under way ends; it then trains again while EN is 1. -/
def portDrop (n : Nat) (s : State) : State :=
  let s := stepCauseOf (partOfPort s n) scLink (setPortCause n lcDown s)
  let s := (s.setReg (rPortStatus n) (if portEn s n then 1 else 0))
  let s := abortPort n s
  let s := if (s.link n).copy.isSome then s.setReg (rCopyStatus n) (BitVec.ofNat 64 (eState.toNat <<< 8)) else s
  let l := s.link n
  s.setLink n { gateOut := l.gateOut, entries := l.entries, comb := l.comb, frozen := l.frozen, aborted := l.aborted }

/-- A port fails for a cause: 0 replay, 1 lock, 2 silence (R364, R492). -/
def portFail (n cause : Nat) (s : State) : State :=
  if portState s n = 1 || portState s n = 2 then
    report { kind := 0x30, unit := .port n, part := partOfPort s n, clock := 4, detail := cause } [] (portDrop n s)
  else s

/-- What a write of `PORT_CTRL` sets off (R362, R364): training, going down, training again. -/
def portCtrl (n : Nat) (old new : Word) (s : State) : State :=
  let was := fld old 0 1
  let on := fld new 0 1
  if was = 0 && on = 1 then s.setReg (rPortStatus n) 1
  else if was = 1 && on = 0 then portDrop n s
  else if on = 1 && fld new 5 1 = 1 then portDrop n s
  else s

/-! ### Meanings: training and link errors -/

/-- The capability flit goes out (R362): CAPVER 1, what the port offers, and who sends it. -/
def sendCapability (n rate : Nat) (s : State) : State :=
  let level := min (s.rf (rPortCtrl n) 3 2) (s.rf rStepping 12 2)
  let h := pack [(0, 2, 2), (2, 4, 4)]
  let pay := [1, BitVec.ofNat 8 level, BitVec.ofNat 8 rate, BitVec.ofNat 8 n] ++ leBytes 2 (s.rf rDeviceId 0 16)
    ++ leBytes 2 (s.rf rDeviceId 16 16) ++ [BitVec.ofNat 8 (s.rf rStepping 0 8), 0] ++ leBytes 2 (s.rf (rNodeTag n) 0 16) ++ zeros 52
  s.emit (.capability (BitVec.ofNat 4 n)
    { vc := 2, type := 4, seq := 0, ack := 0, cvc := 0, ccount := 0, crc := crc32c (leBytes 4 h ++ pay) } 1 level rate
    (s.rf rDeviceId 0 16) (s.rf rDeviceId 16 16) (s.rf rStepping 0 8) (s.rf (rNodeTag n) 0 16))

/-- TRAINING (R362): the lanes have trained at a rate, or at none; a capability flit goes out. -/
def execTraining (n : BitVec 4) (lanes : Option (BitVec 2)) (s : State) : Host.Outcome State Fault Refusal :=
  let k := n.toNat
  if linkOn s k && portEn s k && portState s k = 1 && (s.link k).trained.isNone then
    match lanes with
    | none => done s (s.setReg (rPortStatus k) 3)
    | some r =>
      let rate := min r.toNat (s.rf (rPortCtrl k) 1 2)
      let l := s.link k
      let t := s.setLink k { trained := some (BitVec.ofNat 2 rate), gateOut := l.gateOut, entries := l.entries, comb := l.comb,
                             frozen := l.frozen, aborted := l.aborted }
      done s (sendCapability k rate t)
  else done s s

/-- CAPABILITY (R362, R363): the partner's offers are taken, or rejected with `PORT_CAUSE.CAP`. -/
def execCapability (n : BitVec 4) (level rate port : Byte) (vendor part : BitVec 16) (stepping : Byte) (node : BitVec 16)
    (s : State) : Host.Outcome State Fault Refusal :=
  let k := n.toNat
  match (s.link k).trained with
  | none => done s s
  | some own =>
    if !linkOn s k || portState s k ≠ 1 then done s s
    else if level = 0 || 2 < rate.toNat then done s (setPortCause k lcCap s)
    else
      let peer := min level.toNat 3
      let lvl := min peer (min (s.rf (rPortCtrl k) 3 2) (s.rf rStepping 12 2))
      let r := min own.toNat rate.toNat
      let t := s.setReg (rPortStatus k) (BitVec.ofNat 64 (pack [(0, 3, 2), (3, 2, r), (5, 2, lvl), (7, 2, peer)]))
      done s (t.setReg (rPeerId k) (BitVec.ofNat 64 (pack [(0, 16, vendor.toNat), (16, 16, part.toNat),
        (32, 8, stepping.toNat), (40, 4, port.toNat), (48, 16, node.toNat)])))

/-- LOCK_LOSS (R364). -/
def execLockLoss (n : BitVec 4) (s : State) : Host.Outcome State Fault Refusal := done s (portFail n.toNat 1 s)

/-- PARTNER_SILENCE (R364). -/
def execPartnerSilence (n : BitVec 4) (s : State) : Host.Outcome State Fault Refusal := done s (portFail n.toNat 2 s)

/-! ### Gates and reduce-scatter (R367–R377, R383, R384) -/

/-- A context of the partition of the port runs, so that its gate works (R366, R443). -/
def gateRuns (s : State) (n : Nat) : Option Nat :=
  (partOfPort s n).filter (fun p => linkOn s n && (s.part p).running && !(s.part p).halted && !testing s p)

/-- The running context holds the port, so that its rings work (R443, R447). -/
def portRuns (s : State) (n : Nat) : Option Nat := (gateRuns s n).filter (fun p => fld (s.ctx p).ports n 1 == 1)

/-- Entry `i` of the present image takes tokens at the gate of port `n`: it is below LAYERS, its PORTS names the port, and it is of
KIND 0 (R369, R382). -/
def gateEntry (s : State) (p n i : Nat) : Bool :=
  let le := layerEntry s p i
  i < layerCount s p && fld (BitVec.ofNat 16 (lePorts le)) n 1 == 1 && leKind le == 0

/-- A gate fault (R369). -/
def gateFault (n p : Nat) (t : Tok) (s : State) : State :=
  halt p (report { kind := 0x31, unit := .port n, part := some p, clock := 4, tag := t.tag.toNat,
                   detail := pack [(0, 16, t.tag.toNat), (16, 2, kindNum t.kind)] } [] (setPortCause n lcGate s))

/-- The kerf record of block `q` of an entry: its offset in a leaf (R383). -/
def kerfOff (e : Entry) (q : Nat) : Nat := e.kerf * 4096 + 64 * (e.first + q)

/-- Compress block `q` of an entry with its kerf record, which is read from the active leaf and written to the inactive one
(R383, R384). A record that the access tables deny reads as zeros, and is not written (R409, log 84). -/
def kerfBlock (m p : Nat) (e : Entry) (q : Nat) (els : List (BitVec 32)) (s : State) : Word × State :=
  let a := leafBase s p (activeLeaf s p) + kerfOff e q
  let b := leafBase s p (1 - activeLeaf s p) + kerfOff e q
  let deny := hbmDenied s (mPart s p) kRead a 64
  let r := if deny.isSome then (zeros 64, noteGated deny s) else hbmReadPlain (some p) a 64 s
  let c := compress e.dtype els ((List.range 32).map (fun i => BitVec.ofNat 16 (leAt r.1 (2 * i) 2)))
  let deny := hbmDenied r.2 (mPart s p) kWrite b 64
  let t := if deny.isSome then noteGated deny r.2 else hbmWrite (some p) b (c.2.flatMap (fun k => leBytes 2 k.toNat)) r.2
  (c.1, linkCount m 9 128 t)

/-- Compress blocks of one owner, `q`, `q` + N, and so on. -/
def kerfBlocks (m p : Nat) (e : Entry) : Nat → List (List (BitVec 32)) → State → List Word × State
  | _, [], s => ([], s)
  | q, b :: bs, s =>
    let r := kerfBlock m p e q b s
    let t := kerfBlocks m p e (q + ringSizeOf s m) bs r.2
    (r.1 :: t.1, t.2)

/-- Elements of a flit's share of a block. -/
def halfOf (fp32 : Bool) (half : Nat) (els : List (BitVec 32)) : List (BitVec 32) :=
  if fp32 then (els.drop (16 * half)).take 16 else els

/-- The flit ends its block: a BF16 block is one flit, an FP32 block two (R373). -/
def lastHalf (fp32 : Bool) (half : Nat) : Bool := !fp32 || half != 0

/-- Send blocks of one owner, `q`, `q` + N, and so on: as one flit of compressed blocks, or the first of them whole (R376,
R384). -/
def sendBlocks (m p : Nat) (e : Entry) (q : Nat) (bs : List (List (BitVec 32))) (s : State) : State :=
  let n := ringSizeOf s m
  let pos := ringPos s m
  let s := linkCount m 6 bs.length s
  if e.comp then
    let r := kerfBlocks m p e q bs s
    sendFlit m 0 (.redCompressed e.layer q pos n r.1) r.2
  else
    (if e.dtype then [0, 1] else [0]).foldl (fun s h =>
      sendFlit m 0 (.redPartial e.layer q pos n h (halfOf e.dtype h (bs.headD []))) s) s

/-- Flits and blocks that the next started blocks of an entry take. -/
def nextStarted (s : State) (m : Nat) (e : Entry) : Nat × Nat :=
  if e.comp then (1, min 8 (startedCount s m e - e.sent)) else (if e.dtype then 2 else 1, 1)

/-- The started entries send their started blocks in ascending order, as credits allow (R360, R377). -/
def sendStarted (m : Nat) : Nat → State → State
  | 0, s => s
  | fuel + 1, s =>
    match (s.link m).entries.find? (fun e => e.started && e.sent < startedCount s m e) with
    | none => s
    | some e =>
      let k := nextStarted s m e
      if !canSend s m 0 k.1 then s
      else
        let qs := (List.range k.2).map (fun i => startedBlock s m (e.sent + i))
        let bs := qs.map (fun q => sget [] e.locals q)
        let s := setEntry m { e with sent := e.sent + k.2, locals := e.locals.filter (fun b => !qs.contains b.1) } s
        sendStarted m fuel (sendBlocks m e.part e (qs.headD 0) bs s)

/-- A port sends what credits allow: what is queued, started blocks, the copy under way. -/
def pump (n : Nat) (s : State) : State := sendCopy n 512 (sendStarted n 512 (sendQueue n 512 s))

/-- The reduction of an entry starts on ring `m` (R49, R377), or ends there when the ring has been aborted (R386). -/
def startEntry (m : Nat) (e : Entry) (s : State) : State :=
  let s := setEntry m { e with state := 2 } s
  match findEntry (s.link m) e.idx with
  | none => s
  | some x => if x.aborted then setEntry m { x with state := 4, locals := [] } (owedBubbles m s x) else pump m s

/-! ### Receiving flits (R359–R361) -/

/-- The buffer a channel has for received flits (R360). -/
def rxRoom (vc : Nat) : Nat := if vc = 0 then 256 else if vc = 1 then 128 else if vc = 2 then 16 else 128

/-- A numbered flit arrives: whether it is accepted, in order and without error, else it is dropped with a replay request.
`FEC_CORR` and `FEC_UNCORR` count (R359, R361). -/
def acceptFlit (k : Nat) (f : FlitHdr) (s : State) : Bool × State :=
  let s := linkCount k 4 f.fec.2 (linkCount k 3 f.fec.1 s)
  let l := s.link k
  if f.crcOk && f.seq = l.rxSeq + 1 then (true, takeAck k f.ack f.cvc f.ccount (s.setLink k { l with rxSeq := f.seq, lost := false }))
  else if l.lost && f.crcOk then (false, s)
  else (false, emitFlit k 3 0 l.txSeq 0 0 none (s.setLink k { l with lost := true }))

/-- DATA_FLIT (R359–R361): an accepted flit waits in the buffer of its channel, and is acknowledged. -/
def execDataFlit (n : BitVec 4) (f : FlitIn) (s : State) : Host.Outcome State Fault Refusal :=
  let k := n.toNat
  if portState s k ≠ 2 || !linkOn s k then done s s
  else
    let r := acceptFlit k f.hdr s
    if !r.1 then done s r.2
    else
      let l := r.2.link k
      let vc := f.vc.toNat
      let q := vcGet l.rx vc
      let t := r.2.setLink k { l with rx := if q.length < rxRoom vc then vcSet l.rx vc (q ++ [f.msg]) else l.rx }
      done s (pump k (emitCredit k 0 0 (linkCount k 1 1 t)))

/-- A flit of VC 2 that is accepted leaves its buffer when it arrives, and its credit returns (R360, log 85). -/
def controlFlit (k : Nat) (f : FlitHdr) (act : State → State) (s : State) : State :=
  if portState s k ≠ 2 || !linkOn s k then s
  else
    let r := acceptFlit k f s
    if r.1 then pump k (act (emitCredit k 2 1 r.2)) else r.2

/-- CREDIT_FLIT (R359, R360): credits and acknowledgements return, and waiting flits go out. -/
def execCreditFlit (n : BitVec 4) (ack : BitVec 10) (cvc : BitVec 2) (cc : BitVec 4) (s : State) :
    Host.Outcome State Fault Refusal :=
  let k := n.toNat
  if portState s k ≠ 2 || !linkOn s k then done s s else done s (pump k (takeAck k ack cvc cc s))

/-- REPLAY_REQUEST (R361, R364): every unacknowledged flit is sent again; a flit sent 8 times makes the port fail. -/
def execReplayRequest (n : BitVec 4) (ack : BitVec 10) (s : State) : Host.Outcome State Fault Refusal :=
  let k := n.toNat
  if portState s k ≠ 2 || !linkOn s k then done s s
  else
    let l := ackUpTo ack (s.link k)
    if l.unacked.any (fun u => 8 ≤ u.2.2.2) then done s (portFail k 0 (s.setLink k l))
    else
      let t := s.setLink k { l with unacked := l.unacked.map (fun u => (u.1, u.2.1, u.2.2.1, u.2.2.2 + 1)) }
      let t := linkCount k 2 l.unacked.length t
      done s (l.unacked.foldl (fun t u => emitFlit k (flitType u.2.2.1) u.2.1 u.1 0 0 (some u.2.2.1) t) t)

/-! ### Gates (R365–R369, R374) -/

/-- The token at the inbound gate channel `ch` of port `n`. -/
def gateHead (s : State) (n ch : Nat) : Option Tok := (chanQueue s (gateCell n ch) (gateSide n)).head?
def gateTake (n ch : Nat) (s : State) : State := chanPop (gateCell n ch) (gateSide n) s

def isGradDone (t : Tok) : Bool := t.kind == .control && t.valid
def isGatherSource (t : Tok) : Bool := t.kind == .data && t.valid && fld t.tag 8 8 == 1

/-- GATE_GRADIENT (R367, R369, R374): a local gradient token is held in the local store; bubbles and end tokens are
absorbed; a token outside R367 is a gate fault. -/
def execGateGradient (n ch : BitVec 4) (s : State) : Host.Outcome State Fault Refusal :=
  let n := n.toNat
  let ch := ch.toNat
  match gateRuns s n, gateHead s n ch with
  | some p, some t =>
    if isGradDone t || isGatherSource t then done s s
    else if !t.valid || t.kind = .fin then done s (gateTake n ch s)
    else
      let i := fld t.tag 0 8
      let le := layerEntry s p i
      if t.kind ≠ .data || fld t.tag 8 8 ≠ 0 || !gateEntry s p n i then
        done s (gateFault n p t (gateTake n ch s))
      else
        let e := (findEntry (s.link n) i).getD (newEntry p (s.part p).slot n i le)
        if e.blocks ≤ e.recv || e.state ≠ 1 then done s (gateFault n p t (gateTake n ch s))
        else
          let toks := e.toks ++ [t.payload]
          let full := toks.length = (if e.dtype then 4 else 2)
          if full && 4194304 < storeUsed (s.link n) + blockBytes e.dtype then done s s
          else
            let e := if full then { e with toks := [], recv := e.recv + 1, ch := ch,
                                           locals := e.locals ++ [(e.recv, rowsBlock e.dtype toks)] }
              else { e with toks := toks, ch := ch }
            done s (setEntry n e (gateTake n ch s))
  | _, _ => done s s

/-- GATE_GRAD_DONE (R49, R367, R369, R377): the reduce-scatter of the entry of the layer starts. -/
def execGateGradDone (n ch : BitVec 4) (s : State) : Host.Outcome State Fault Refusal :=
  let n := n.toNat
  let ch := ch.toNat
  match gateRuns s n, gateHead s n ch with
  | some p, some t =>
    if !isGradDone t then done s s
    else
      let s' := gateTake n ch s
      match (List.range (layerCount s p)).find? (fun i =>
          leLayer (layerEntry s p i) == fld t.payload 0 32 && leKind (layerEntry s p i) == 0) with
      | none => done s (gateFault n p t s')
      | some i =>
        let le := layerEntry s p i
        let e := (findEntry (s.link n) i).getD (newEntry p (s.part p).slot n i le)
        if fld (BitVec.ofNat 16 (lePorts le)) n 1 = 0 || e.recv ≠ e.blocks || !e.toks.isEmpty || e.state ≠ 1 then
          done s (gateFault n p t s')
        else done s (startEntry n { e with tag := t.tag, ch := ch } s')
  | _, _ => done s s

/-! ### Gather writes (R378–R380) -/

/-- Put bytes into a combiner's granule. -/
def granPut (a : Nat) : List Byte → Gran → Gran
  | [], x => x
  | b :: bs, x =>
    granPut (a + 1) bs (if x.addr ≤ a && a < x.addr + 256 then { x with data := sset x.data (a - x.addr) b } else x)

/-- A granule leaves the combiner, whole or under R305 as one partial write. Its rows have passed the access check (R409). -/
def granLeave (p : Nat) (s : State) (x : Gran) : State := granuleWrite (some p) x.addr x.data s

/-- Write bytes of one granule through the combiner of port `n` (R380). -/
def combine (n p a : Nat) (bs : List Byte) (s : State) : State :=
  let l := s.link n
  let g := a / 256 * 256
  let x := granPut a bs ((l.comb.find? (fun x => x.addr == g)).getD { addr := g, data := [] })
  let rest := l.comb.filter (fun x => x.addr != g)
  if x.data.length = 256 then granLeave p (s.setLink n { l with comb := rest }) x
  else
    let s := s.setLink n { l with comb := rest ++ [x] }
    if 64 ≤ rest.length then
      match rest with
      | y :: ys => granLeave p (s.setLink n { s.link n with comb := ys ++ [x] }) y
      | [] => s
    else s

/-- Everything in the combiner leaves. -/
def combFlush (n p : Nat) (s : State) : State :=
  let l := s.link n
  l.comb.foldl (granLeave p) (s.setLink n { l with comb := [] })

/-- A gathered row is written into the inactive leaf; a byte outside the leaf forbids it (R378, R379). A row of which the access
tables deny a byte is not written either (R409, log 84). -/
def gatherWrite (n p : Nat) (r : Row) (s : State) : State :=
  let c2 := fld r 136 1 = 1
  let len := if c2 then 8 else 16
  let off := fld r 160 64
  let exp : Int := off + toSigned (fld r 224 32) 32
  let size := (s.stepReg p oLeafSize).toNat
  if size < off + len || exp < 0 || (size : Int) ≤ exp then
    let s := stepCause p scForced (setPortCause n lcGather s)
    report { kind := 0x32, unit := .port n, part := some p, clock := 4, detail := off } [] s
  else
    let base := leafBase s p (1 - activeLeaf s p)
    let codes := leBytes len (fld r 0 128)
    let a := base + off
    let deny := [hbmDenied s (mPart s p) kWrite a len, hbmDenied s (mPart s p) kWrite (base + exp.toNat) 1].filterMap id
    if !deny.isEmpty then noteGated (deny.find? (· == eGated)) s else
    let split := min len (256 - a % 256)
    let s := combine n p a (codes.take split) s
    let s := if split < len then combine n p (a + split) (codes.drop split) s else s
    linkCount n 8 1 (combine n p (base + exp.toNat) [BitVec.ofNat 8 (fld r 128 8)] s)

/-- GATE_GATHER_SOURCE (R367, R369, R378, R379): the owner writes its row and sends it round the ring. -/
def execGateGatherSource (n ch : BitVec 4) (s : State) : Host.Outcome State Fault Refusal :=
  let n := n.toNat
  let ch := ch.toNat
  match gateRuns s n, gateHead s n ch with
  | some p, some t =>
    if !isGatherSource t then done s s
    else
      let s' := gateTake n ch s
      let i := fld t.tag 0 8
      if !gateEntry s p n i then done s (gateFault n p t s') else
      match findEntry (s.link n) i with
      | none => done s (gateFault n p t s')
      | some e =>
        if e.aborted then done s s'
        else if e.state = 1 || shardSize e.blocks (ringSizeOf s n) (ringPos s n) ≤ e.taken then done s (gateFault n p t s')
        else if 1 < ringSizeOf s n && !canSend s n 1 1 then done s s
        else
          let s' := setEntry n { e with taken := e.taken + 1, state := 3 } (gatherWrite n p t.payload s')
          done s (sendFlit n 1 (.gathered e.layer (ringPos s n) t.payload) s')
  | _, _ => done s s

/-! ### Partials and rows from the ring (R375–R379, R382) -/

/-- The head of a receive buffer is taken; its credit returns (R360). -/
def rxTake (n vc : Nat) (s : State) : State :=
  let l := s.link n
  emitCredit n vc 1 (s.setLink n { l with rx := vcSet l.rx vc ((vcGet l.rx vc).drop 1) })

/-- Address of a flit's share of block `q` at DST (R382). -/
def explicitAddr (e : Entry) (q half : Nat) : Nat := e.dst + (e.first + q) * blockBytes e.dtype + 64 * half

/-- Write 64 bytes of block `q` of an explicit reduction at DST (R382); none when the access table refuses it. -/
def explicitWrite (m p : Nat) (e : Entry) (q half : Nat) (els : List (BitVec 32)) (s : State) : Option State :=
  let a := explicitAddr e q half
  if (hbmDenied s (mPart s p) kWrite a 64).isSome then none
  else some (linkCount m 8 (if lastHalf e.dtype half then 1 else 0) (hbmWrite (some p) a (blockToBytes e.dtype els) s))

/-- An access of an explicit reduction to `n` bytes is refused (R382, R414). -/
def redDeny (m p kind a n : Nat) (s : State) : State :=
  let s := noteGated (hbmDenied s (mPart s p) kind a n) s
  let s := setPortCause m lcRedDeny (ownAbort m s)
  halt p (report { kind := 0x33, unit := .port m, part := some p, clock := 4, detail := a } [] s)

/-- Blocks of a part that an entry has met with this flit: `k` combined, and delivered or written when this device owns them. -/
def Entry.meets (e : Entry) (k : Nat) (own : Bool) (qs : List Nat) : Entry :=
  { e with comb := e.comb + k, deliv := if own then e.deliv + k else e.deliv,
           written := if own && e.kind = 1 then e.written + k else e.written,
           locals := if k = 0 then e.locals else e.locals.filter (fun b => !qs.contains b.1) }

/-- A flit of a partial of block `q` meets this device on ring `m` (R375–R377, R382). -/
def partialMeets (m p : Nat) (e : Entry) (q half : Nat) (x : List (BitVec 32)) (s : State) : State :=
  let n := ringSizeOf s m
  let pos := ringPos s m
  let sum := addBlock e.dtype x (halfOf e.dtype half (sget [] e.locals q))
  let k := if lastHalf e.dtype half then 1 else 0
  let s := setEntry m { e.meets k (q % n = pos) [q] with half := if q % n = pos then k = 0 else e.half } s
  if q % n ≠ pos then sendFlit m 0 (.redPartial e.layer q pos n half sum) (linkCount m 6 k s)
  else if e.kind = 0 then gatePut m e.ch (shardToks e (q / n) (blockToks e.dtype sum) true) s
  else match explicitWrite m p e q half sum s with
    | none => redDeny m p kWrite (explicitAddr e q half) 64 s
    | some s => sendFlit m 1 (.explicitBlock e.layer q pos half sum) s

/-- A flit of compressed partials, from block `q` on, meets this device on ring `m` (R384). -/
def compressedMeets (m p : Nat) (e : Entry) (q : Nat) (ws : List Word) (s : State) : State :=
  let n := ringSizeOf s m
  let qs := (List.range ws.length).map (fun i => q + n * i)
  let sums := ws.zipIdx.map (fun b => addBlock e.dtype (decompress e.dtype b.1) (sget [] e.locals (q + n * b.2)))
  let own := q % n = ringPos s m
  let s := setEntry m (e.meets ws.length own qs) s
  if own then sums.zipIdx.foldl (fun s b => gatePut m e.ch (shardToks e (q / n + b.2) (blockToks e.dtype b.1) true) s) s
  else sendBlocks m p e q sums s

/-- The unit can take a flit of partials: no block it has delivered waits at the gate, and the forward has a credit (R285,
R360). -/
def meetRoom (s : State) (m : Nat) (e : Entry) (q : Nat) : Bool :=
  (s.link m).gateOut.all (fun c => c.2.isEmpty) &&
    (if q % ringSizeOf s m ≠ ringPos s m then canSend s m 0 1 else e.kind == 0 || canSend s m 1 1)

/-- A ring mismatch (R376). -/
def ringMismatch (m : Nat) (s : State) : State := ownAbort m (setPortCause m lcRing s)

/-- An entry of a ring by its layer, started and not complete. -/
def entryByLayer (l : Link) (layer : BitVec 16) : Option Entry := l.entries.find? (fun e => e.layer == layer && e.started)

/-- PARTIAL (R375–R377, R384): the first flit in the VC 0 receive buffer of port `n` is combined, forwarded or delivered;
one for an entry that is not started waits, and so does one whose result cannot leave. -/
def execRedPartial (n : BitVec 4) (s : State) : Host.Outcome State Fault Refusal :=
  let k := n.toNat
  match ringFrom s k, (vcGet (s.link k).rx 0).head? with
  | some m, some msg =>
    match portRuns s m with
    | none => done s s
    | some p =>
      let size := ringSizeOf s m
      let meet := fun (layer : BitVec 16) (q pos sz blocks : Nat) (f : Entry → State → State) =>
        if sz ≠ size || pos ≠ (ringPos s m + size - 1) % size then done s (ringMismatch m (rxTake k 0 s))
        else match entryByLayer (s.link m) layer with
          | none => done s (if (s.link m).aborted then rxTake k 0 s else s)
          | some e => if meetRoom s m e q then done s (f e (linkCount k 7 blocks (rxTake k 0 s))) else done s s
      match msg with
      | .redPartial layer q pos sz half els =>
        meet layer q pos sz (if els.length = 32 || half ≠ 0 then 1 else 0) (fun e => partialMeets m p e q half els)
      | .redCompressed layer q pos sz ws => meet layer q pos sz ws.length (fun e => compressedMeets m p e q ws)
      | _ => done s (rxTake k 0 s)
  | _, _ => done s s

/-- The successor of this device on ring `m` is position `owner`. -/
def successorIs (s : State) (m owner : Nat) : Bool := (ringPos s m + 1) % ringSizeOf s m == owner

/-- GATHER_ROW (R379, R382): the first flit in the VC 1 receive buffer of port `n` is written and forwarded; it waits for a
credit of its forward. -/
def execGatherRow (n : BitVec 4) (s : State) : Host.Outcome State Fault Refusal :=
  let k := n.toNat
  match ringFrom s k, (vcGet (s.link k).rx 1).head? with
  | some m, some msg =>
    match portRuns s m with
    | none => done s s
    | some p =>
      let pass := fun (layer : BitVec 16) (owner : Nat) (f : Entry → State → Bool × State) =>
        match entryByLayer (s.link m) layer with
        | none => done s (if (s.link m).aborted then rxTake k 1 s else s)
        | some e =>
          if !successorIs s m owner && !canSend s m 1 1 then done s s
          else
            let r := f e (rxTake k 1 s)
            done s (if r.1 && !successorIs s m owner then sendFlit m 1 msg r.2 else r.2)
      match msg with
      | .gathered layer owner row =>
        pass layer owner (fun e t => (true, setEntry m { e with written := e.written + 1, state := 3 } (gatherWrite m p row t)))
      | .explicitBlock layer q owner half els =>
        pass layer owner (fun e t =>
          let k := if lastHalf e.dtype half then 1 else 0
          let t := setEntry m { e with written := e.written + k, state := 3 } t
          match explicitWrite m p e q half els t with
          | none => (false, redDeny m p kWrite (explicitAddr e q half) 64 t)
          | some t => (true, t))
      | _ => done s (rxTake k 1 s)
  | _, _ => done s s

/-! ### Completion, abort, copies -/

/-- A message belongs to an entry of a layer. -/
def msgOf (layer : BitVec 16) : LinkMsg → Bool
  | .redPartial l _ _ _ _ _ => l == layer
  | .redCompressed l _ _ _ _ => l == layer
  | .gathered l _ _ => l == layer
  | .explicitBlock l _ _ _ _ => l == layer
  | _ => false

/-- The part of an entry on port `n` is complete (R381): of KIND 0 the shard has left the gate, its rows are taken, every row is
written or forwarded and every flit sent is acknowledged; of KIND 1 the part is written at DST. -/
def entryDone (s : State) (n : Nat) (e : Entry) : Bool :=
  let l := s.link n
  let shard := shardSize e.blocks (ringSizeOf s n) (ringPos s n)
  e.started &&
    (if e.kind = 0 then e.comb + e.sent == e.blocks && e.deliv == shard && (sget [] l.gateOut e.ch).isEmpty && e.taken == shard
        && e.written + shard == e.blocks && !l.unacked.any (fun u => msgOf e.layer u.2.2.1)
     else e.written == e.blocks)

/-- The part of an entry on port `n`, by the entry on another port. -/
def sibling (s : State) (n : Nat) (e : Entry) : Option Entry :=
  (findEntry (s.link n) e.idx).filter (fun x => x.part == e.part && x.slot == e.slot)

/-- Every part of an entry is complete, or its ring has been aborted (R381, R386). -/
def partsDone (s : State) (e : Entry) : Bool :=
  (portsOf e.ports.toNat).all (fun n => (s.link n).aborted || (sibling s n e).any (fun x => x.state == 4))

/-- The entry is complete on this device, or has no part that is not. -/
def entryOpen (s : State) (e : Entry) : Bool := e.started || (e.state == 4 && !e.aborted && !partsDone s e)

/-- Add to an event of a context, saturating, and let those that wait for it go on (R215, R216). -/
def addEvent (p sl i v : Nat) (s : State) : State :=
  let c := s.ctxAt p sl
  wakeWaits p sl
    (s.setCtxAt p sl { c with ev := sset c.ev i (BitVec.ofNat 32 (min ((sget 0 c.ev i).toNat + v) 0xFFFFFFFF)) })

/-- ENTRY_COMPLETE (R381): the part of an entry on a port is complete; its rows leave the combiner. With its last part the entry
is complete, which adds 1 to the event of its index unless a ring of it was aborted. -/
def execEntryComplete (n : BitVec 4) (i : Byte) (s : State) : Host.Outcome State Fault Refusal :=
  let k := n.toNat
  match findEntry (s.link k) i.toNat with
  | none => done s s
  | some e =>
    if entryDone s k e then
      let t := setEntry k { e with state := 4, locals := [] } (combFlush k e.part s)
      if !partsDone t e then done s t
      else
        let ns := (portsOf e.ports.toNat).filter (fun m => (sibling t m e).any (fun x => x.state == 4))
        let lost := ns.any (fun m => (sibling t m e).any (fun x => x.aborted)) || ns.length ≠ (portsOf e.ports.toNat).length
        -- a part stopped by an abort stays, and absorbs the rows that still come for it
        let t := ns.foldl (fun t m => t.setLink m
          { t.link m with entries := (t.link m).entries.filter (fun x => x.idx != e.idx || x.aborted) }) t
        done s (if lost then t else addEvent e.part e.slot e.idx 1 t)
    else done s s

/-- An abort flit for ring `m` (R386): the ring is aborted and the abort forwarded; it stops at the device that sent the first
one, and in a step at a device that has aborted the ring before in the same attempt (log 23). -/
def abortArrives (m : Nat) (s : State) : State :=
  let l := s.link m
  if l.abortOwn then s.setLink m { l with abortOwn := false }
  else if l.aborted && (partOfPort s m).any (fun p => stepState s p != sIdle) then s
  else abortRing m s

/-- RING_ABORT (R386): an abort flit on a port aborts the ring that arrives there. -/
def execRingAbort (f : FlitAt) (s : State) : Host.Outcome State Fault Refusal :=
  done s (controlFlit f.port.toNat f.hdr (fun s =>
    match ringFrom s f.port.toNat with
    | some m => abortArrives m s
    | none => s) s)

/-- What an accepted `COPY_CMD.GO` starts (R387). -/
def copyGo (n : Nat) (v : Word) (s : State) : State :=
  if fld v 0 1 = 0 then s
  else
    let c : CopyRun := { src := s.rf (rCopySrc n) 0 39, dst := BitVec.ofNat 39 (s.rf (rCopyDst n) 0 39),
                         total := s.rf (rCopyLen n) 0 32, sent := 0 }
    pump n ((s.setReg (rCopyStatus n) 1).setLink n { s.link n with copy := some c })

/-- COPY_DATA (R387): copy data in the VC 3 receive buffer is checked against the peer's access-table entry for the whole
range, and written; a reply of the partner ends the copy of this device. -/
def execCopyData (n : BitVec 4) (s : State) : Host.Outcome State Fault Refusal :=
  let k := n.toNat
  if portState s k ≠ 2 then done s s
  else match (vcGet (s.link k).rx 3).head? with
    | none => done s s
    | some (.copyPart dst total off data) =>
      let t := rxTake k 3 s
      let l := t.link k
      if off ≠ 0 && l.inCopy = 1 then done s t
      else
        match hbmDenied t (mPeer k) kWrite dst.toNat total.toNat with
        | some c =>
          let t := if c = eGated then setHostCause hcGated t else t
          done s (sendMsg k 3 (.copyReply eAccess) (t.setLink k { t.link k with inCopy := 1 }))
        | none =>
          let t := hbmWrite none (dst.toNat + off) data (t.setLink k { l with inCopy := 0 })
          done s (if total.toNat ≤ off + 64 then sendMsg k 3 (.copyReply cOk) t else t)
    | some (.copyReply code) =>
      let t := rxTake k 3 s
      let t := t.setReg (rCopyStatus k) (BitVec.ofNat 64 (code.toNat <<< 8))
      let t := t.setLink k { t.link k with copy := none }
      done s (if code = eAccess then setPortCause k lcPeerDeny t else t)
    | some _ => done s (rxTake k 3 s)

end Sys2Proof.Machine
end

