-- ==== Sys2Proof/Machine/Narrow.lean ====
section
/-! DEFINITION. The narrow path (R310–R312) with its sector caches, and the gather engines (R313, R314); block lists and
their completion (R315, R321). -/

namespace Sys2Proof.Machine

/-! ### The sector cache (R311) -/

/-- Set of an address: 8 MiB of 16 ways of granules are 2,048 sets. Which bits choose it is DEDUCED (log 20). -/
def ncSet (a : Nat) : Nat := a / 2048 % 2048
def ncLines (s : State) (a : Nat) : List GLine := sget [] (s.plinth (stackOf a)).sets (ncSet a)
def ncOn (s : State) (k : Nat) : Bool := s.rf (rPlCtrl k) 0 1 == 1

/-- The sector of an address is present. -/
def ncHit (s : State) (a : Nat) : Bool :=
  ncOn s (stackOf a) && (ncLines s a).any (fun l => l.gran == a / 256 && fld l.valid (a % 256 / 32) 1 == 1)

/-- The line of an address with a parity error in its sector is invalidated, which `NC_PAR` counts; the read then misses
(R311, R349). -/
def ncCheck (a : Nat) (s : State) : State :=
  let k := stackOf a
  if ncHit s a && (ncLines s a).any (fun l => l.gran == a / 256 && l.par) then
    let s := s.setPlinth k { s.plinth k with sets := sset (s.plinth k).sets (ncSet a) ((ncLines s a).filter (fun l => l.gran != a / 256)) }
    (s.orReg (rPlCause k) 16).count (rPlCount k 14) 1
  else s

/-- The line of an address becomes the most recently used one, with the sector valid (R311). -/
def ncUse (a : Nat) (s : State) : State :=
  let k := stackOf a
  let ls := ncLines s a
  let l := (ls.find? (fun l => l.gran == a / 256)).getD { gran := a / 256, valid := 0 }
  let l := { l with valid := setFld l.valid (a % 256 / 32) 1 1 }
  let ls := (l :: ls.filter (fun l => l.gran != a / 256)).take 16
  s.setPlinth k { s.plinth k with sets := sset (s.plinth k).sets (ncSet a) ls }

/-- A narrow read misses: the stack is read, and a sector without an uncorrectable error is kept (R311). -/
def narrowMiss (who : Option Nat) (a : Nat) (s : State) : List Byte × State :=
  let e := sget 0 s.hbmErr (a / 256 * 256)
  let r := hbmReadPlain who a 32 s
  (r.1, if ncOn s (stackOf a) && (e = 0 || (e = 1 && classOf s a ≠ 2)) then ncUse a r.2 else r.2)

/-- A narrow read of the sector of an address, whole (R310, R311). -/
def narrow (who : Option Nat) (a : Nat) (s : State) : List Byte × State :=
  let a := a / 32 * 32
  let s := ncCheck a (s.count (rPlCount (stackOf a) 10) 1)
  if ncHit s a then (s.seen a 32, ncUse a (s.count (rPlCount (stackOf a) 11) 1)) else narrowMiss who a s

/-- `n` sectors from an address on. -/
def narrows (who : Option Nat) : Nat → Nat → State → List Byte × State
  | _, 0, s => ([], s)
  | a, n + 1, s =>
    let r := narrow who a s
    let t := narrows who (a + 32) n r.2
    (r.1 ++ t.1, t.2)

/-! ### Request slots (R312) -/

/-- Partition of a master number (R407). -/
def masterPart (m : Nat) : Option Nat := if 0x40 ≤ m && m < 0x50 then some (m - 0x40) else none

/-- The sector at `b` can be served for requester `id`: it hits, or its request holds a slot, or finds one before any that waits
(R312). -/
def sectorReady (s : State) (id b : Nat) : Bool :=
  let x := s.plinth (stackOf b)
  ncHit s b || x.slots.contains (id, b) || (!x.queue.contains (id, b) && slotRoom x.slots b)

/-- `n` sectors from an address on. -/
def sectorsOf (a n : Nat) : List Nat := (List.range n).map (fun i => a / 32 * 32 + 32 * i)

/-- Each of `n` sectors can be served. A gather engine and a line fill wait until it is so. -/
def narrowReady (s : State) (id a n : Nat) : Bool := (sectorsOf a n).all (sectorReady s id)

/-- The requests that find no slot wait in the queues of their banks, in order of arrival (R312). -/
def narrowJoin (id a n : Nat) (s : State) : State :=
  (sectorsOf a n).foldl (fun s b =>
    let k := stackOf b
    let x := s.plinth k
    if sectorReady s id b || x.queue.contains (id, b) then s else s.setPlinth k { x with queue := x.queue ++ [(id, b)] }) s

/-- The data of `n` sectors has returned: the slots that their requests held are free for waiting ones. -/
def narrowFree (id a n : Nat) (s : State) : State :=
  (sectorsOf a n).foldl (fun s b =>
    let k := stackOf b
    let x := s.plinth k
    let mine := fun (r : Nat × Nat) => r == (id, b)
    if x.slots.any mine || x.queue.any mine then
      let q := giveSlots (x.slots.filter (fun r => !mine r)) (x.queue.filter (fun r => !mine r))
      s.setPlinth k { x with slots := q.1, queue := q.2 }
    else s) s

/-- NARROW_READ (R310–R312, R414): a request reaches its plinth: a hit takes no slot, a miss takes one or waits. -/
def execNarrowRead (m : BitVec 7) (addr : BitVec 39) (s : State) : Host.Outcome State Fault Refusal :=
  let a := addr.toNat / 32 * 32
  let k := stackOf a
  let c := hbmDenied s m.toNat kRead a 32
  if c.isSome then done s (noteGated c s)
  else
    let t := ncCheck a (s.count (rPlCount k 10) 1)
    if ncHit t a then done s (ncUse a (t.count (rPlCount k 11) 1))
    else
      let x := t.plinth k
      let q := if slotRoom x.slots a then (x.slots ++ [(m.toNat, a)], x.queue) else (x.slots, x.queue ++ [(m.toNat, a)])
      done s (t.setPlinth k { x with slots := q.1, queue := q.2 })

/-- NARROW_READ_DATA (R311, R312): the data of a request that holds a slot returns, and the slot is free for a waiting
request. Gather engines and sequencers take theirs in their own commands. -/
def execNarrowReadData (addr : BitVec 39) (s : State) : Host.Outcome State Fault Refusal :=
  let a := addr.toNat / 32 * 32
  let k := stackOf a
  match (s.plinth k).slots.find? (fun r => r.2 == a && r.1 < 0x80) with
  | none => done s s
  | some r =>
    let t := (narrowMiss (masterPart r.1) a s).2
    let x := t.plinth k
    let q := giveSlots (x.slots.erase r) x.queue
    done s (t.setPlinth k { x with slots := q.1, queue := q.2 })

/-! ### Block lists (R315, R321, R323) -/

/-- An engine works for a context that holds the fabric of an enabled partition (log 22). -/
def engineRuns (s : State) (a : Active) : Bool := partOn s a.part && holdsFabric s a.part a.slot

/-- The present descriptor of an engine: the one it stole, or the next of its first list with one left. -/
def present (e : Nat) (x : Eng) : Option Active :=
  match x.stolen with
  | some a => some a
  | none =>
    (x.lists.find? (fun l => l.next < l.last)).map (fun l =>
      { list := l.addr, lid := l.id, home := e, idx := l.next, part := l.part, slot := l.slot, istr := none })

/-- Descriptors of an engine that have not started. -/
def unstarted (x : Eng) : Nat :=
  (x.lists.map (fun l => l.last - l.next)).foldl (· + ·) 0 - (if x.busy && x.stolen.isNone then 1 else 0)

def descAddr (a : Active) : Nat := a.list + 64 * (a.idx + 1)

/-- The descriptor of an engine: as it was read, or read now (R302–R304, R323). -/
def descOf (x : Eng) (a : Active) (s : State) : BitVec 512 × State :=
  match x.desc with
  | some d => (d, s)
  | none =>
    let r := hbmReadPlain (some a.part) (descAddr a) 64 s
    (BitVec.ofNat 512 (ofBytes r.1), r.2)

/-- The count an event of the context has reached. -/
def eventOf (s : State) (a : Active) (i : Nat) : Nat := (sget 0 (s.ctxAt a.part a.slot).ev i).toNat

/-- The fence of a descriptor holds it back (R320): FENCE at bit `b`, FEV at `f`, FCOUNT at `c`. -/
def fenced (s : State) (a : Active) (d : BitVec 512) (b f c : Nat) : Bool :=
  fld d b 1 == 1 && eventOf s a (fld d f 8) < fld d c 32

/-- The list of a number counts one more completed descriptor. -/
def countDone (id : Nat) (ls : List EList) : List EList :=
  ls.map (fun l => if l.id = id then { l with done := l.done + 1 } else l)

/-- The present descriptor of the first list with one left has been issued. -/
def advanceList : List EList → List EList
  | [] => []
  | l :: ls => if l.next < l.last then { l with next := l.next + 1 } :: ls else l :: advanceList ls

/-- A list whose descriptors are all complete leaves the queue and signals (R315). -/
def listEnds (x : Eng) (s : State) : Eng × State :=
  (x.lists.filter (fun l => l.count ≤ l.done)).foldl (fun r l =>
    let t := match l.sig with
      | some i => addEvent l.part l.slot i 1 r.2
      | none => r.2
    ({ r.1 with lists := r.1.lists.filter (fun y => y.done < y.count) }, t)) (x, s)

/-- A list header, which is read when its list is queued: COUNT and the event to signal, when it is legal (R315). -/
def listHeader (a : Nat) (bs : List Byte) : Option (Nat × Option Nat) :=
  let h := ofBytes bs
  if a % 64 ≠ 0 || bitsOf h 0 16 = 0 || h / 2 ^ 25 ≠ 0 then none
  else some (bitsOf h 0 16, if bitsOf h 24 1 = 1 then some (bitsOf h 16 8) else none)

/-- A list of `n` descriptors joins the queue of an engine. -/
def Eng.append (x : Eng) (a p sl n : Nat) (sig : Option Nat) : Eng :=
  { x with nextId := x.nextId + 1, lists := x.lists ++ [{ id := x.nextId, addr := a, part := p, slot := sl, next := 0, last := n, done := 0,
                                                          count := n, sig := sig }] }

/-- No descriptor is under way in an engine. -/
def Eng.rest (x : Eng) : Eng :=
  { x with desc := none, got := 0, raw := [], stolen := none, busy := false, claim := none, rows := [], pos := 0 }

/-! ### Gather engines (R313, R314) -/

/-- A drawer's mode region is a ring with slots of `n` rows. -/
def ringOf (s : State) (g n : Nat) : Bool := (s.dr g).mode == 2 && (s.dr g).slot == n && n != 0

def gatherCells (d : BitVec 512) : List Nat :=
  (List.range (fld d 340 9)).map (fun i => fld d 320 12 * 256 + fld d 332 8 + i)

/-- A gather descriptor that breaks a rule (R313, R314, R323). -/
def gatherBad (s : State) (d : BitVec 512) : Bool :=
  let n := fld d 340 9
  let sect := fld d 304 16
  fld d 3 5 != 0 || fld d 24 8 != 0 || fld d 349 3 != 0 || fld d 368 144 != 0 || fld d 64 64 % 32 != 0 || fld d 128 32 == 0
    || fld d 192 64 % 32 != 0 || fld d 256 32 % 32 != 0 || fld d 288 16 % 32 != 0 || sect == 0 || n == 0 || 256 < n
    || 255 < fld d 332 8 + n - 1 || sect % n != 0 || (gatherCells d).any (fun g => !ringOf s g (sect / n))

/-- Address of the sectors of the row of index `v`. -/
def gatherRow (s : State) (a : Active) (d : BitVec 512) (v : Nat) : Nat :=
  (if fld d 0 1 = 1 then leafBase s a.part (activeLeaf s a.part) else 0) + fld d 192 64 + v * fld d 256 32 + fld d 288 16

/-- An engine's list is given up: its queue entry, its descriptors under way (R323). -/
def dropList (a : Active) (x : Eng) : Eng :=
  let mine := fun (y : Active) => y.lid == a.lid && y.home == a.home
  let keep := x.lists.filter (fun l => l.id != a.lid)
  { x with issued := x.issued.filter (fun y => !mine y), lists := keep }

/-- A gather engine meets an illegal descriptor (kind 0x22) or a denied one (kind 0x23) (R323). -/
def gatherFault (e kind : Nat) (a : Active) (s : State) : State :=
  let x := dropList a (s.gather e)
  let s := narrowDrop (reqGather e) (s.setGather e x.rest)
  halt a.part (report { kind := kind, unit := .engine (e / 16) (e % 16), part := some a.part, clock := 3, detail := descAddr a } [] s)

/-- One row of a table goes to slot SEQ + `i` of the rings (R314): sector n to cell n mod NCELL. -/
def gatherPut (d : BitVec 512) (i : Nat) (row : List Byte) (s : State) : State :=
  let n := fld d 340 9
  (chunks 32 (fld d 304 16) row).zipIdx.foldl (fun s x =>
    let g := fld d 320 12 * 256 + fld d 332 8 + x.2 % n
    let y := s.dr g
    posWrite g (y.adv (fld d 352 16) i) (x.2 / n) (some (BitVec.ofNat 256 (ofBytes x.1))) s) s

/-- Every ring can take slot SEQ + `i`, and every landing buffer its rows (R114, R333). -/
def gatherRoom (s : State) (d : BitVec 512) (i : Nat) : Bool :=
  (gatherCells d).all (fun g =>
    (s.dr g).posFree ((s.dr g).adv (fld d 352 16) i) && landingRoom s g (fld d 304 16 / fld d 340 9))

/-- Indices from number `i` on, of which `sec` holds the sector already read: how many are done, whether an access was denied,
the sector. -/
def gatherLoop (e : Nat) (a : Active) (d : BitVec 512) : Nat → Nat → List Byte → State → Nat × Bool × List Byte × State
  | 0, i, sec, s => (i, false, sec, s)
  | fuel + 1, i, sec, s =>
    let s := (gatherCells d).foldl (fun s g => queueCheck g s) s
    let at0 := fld d 64 64 + 4 * i
    let id := reqGather e
    if fld d 128 32 ≤ i || !gatherRoom s d i then (i, false, sec, s)
    else if sec.isEmpty && !narrowReady s id at0 1 then (i, false, sec, narrowJoin id at0 1 s)
    else
      let r := if sec.isEmpty then let x := narrow (some a.part) at0 s; (x.1, narrowFree id at0 1 x.2) else (sec, s)
      let v := leAt r.1 (4 * (i % 8)) 4
      let next := if i % 8 = 7 then [] else r.1
      let len := 32 * fld d 304 16
      if fld d 160 32 ≤ v then
        gatherLoop e a d fuel (i + 1) next (gatherPut d i (zeros len) (r.2.count (rGOob (e / 16) (e % 16)) 1))
      else
        let row := gatherRow r.2 a d v
        let c := hbmDenied r.2 (mPart r.2 a.part) kRead row len
        if c.isSome then (i, true, r.1, noteGated c r.2)
        else if !narrowReady r.2 id row (fld d 304 16) then (i, false, r.1, narrowJoin id row (fld d 304 16) r.2)
        else
          let t := narrows (some a.part) row (fld d 304 16) r.2
          let u := narrowFree id row (fld d 304 16) t.2
          gatherLoop e a d fuel (i + 1) next (gatherPut d i t.1 (u.count (rGRows (e / 16) (e % 16)) 1))

/-- What stands against drawers that a partition's engine writes or reads: one lies outside the partition, the access table of
the partition refuses it, or its field is gated (R116, R323, R410, R414). -/
def drawerDenied (s : State) (p : Nat) (write : Bool) (gs : List Nat) : Option Code :=
  if gs.any (fun g => partOfCell s g != some p || !accDrawer s (mPart s p) (g / 256) write) then some ePartition
  else if gs.any (fun g => unitGated s (g / 65536)) then some eGated
  else none

/-- A gather descriptor is complete: its event, its list (R315). -/
def gatherDone (e : Nat) (a : Active) (d : BitVec 512) (s : State) : State :=
  let x := s.gather e
  let s := if fld d 2 1 = 1 then addEvent a.part a.slot (fld d 16 8) 1 s else s
  let r := listEnds { x.rest with lists := countDone a.lid (advanceList x.lists) } s
  r.2.setGather e r.1

/-- GATHER_DESCRIPTOR (R312–R314, R323): the present descriptor of a gather engine delivers the rows whose slots are
free; after the last one it completes. -/
def execGatherDescriptor (e : BitVec 7) (s : State) : Host.Outcome State Fault Refusal :=
  let e := e.toNat
  let x := s.gather e
  match present e x with
  | none => done s s
  | some a =>
    let c := hbmDenied s (mPart s a.part) kRead (descAddr a) 64
    if !engineRuns s a || unitGated s (16 + e / 16) then done s s
    else if x.desc.isNone && c.isSome then done s (gatherFault e 0x23 a (noteGated c s))
    else
      let y := descOf x a s
      let d := y.1
      let t := y.2.setGather e { y.2.gather e with desc := some d }
      let ci := hbmDenied t (mPart t a.part) kRead (fld d 64 64) (4 * fld d 128 32) <|> drawerDenied t a.part true (gatherCells d)
      if !x.busy && gatherBad t d then done s (gatherFault e 0x22 a t)
      else if !x.busy && ci.isSome then
        done s (gatherFault e 0x23 a (noteGated ci t))
      else if fenced t a d 1 8 32 then done s t
      else
        let r := gatherLoop e a d (fld d 128 32) x.pos x.raw t
        if r.2.1 then done s (gatherFault e 0x23 a r.2.2.2)
        else if fld d 128 32 ≤ r.1 then done s (gatherDone e a d r.2.2.2)
        else done s (r.2.2.2.setGather e { r.2.2.2.gather e with busy := true, pos := r.1, raw := r.2.2.1 })

end Sys2Proof.Machine
end

