-- ==== Sys2Proof/Machine/Edges.lean ====
section
/-! DEFINITION. Edge engines (R315–R327, R330, R559): the descriptors, what makes them illegal or denied, what each
operation does, completion and work stealing. -/

namespace Sys2Proof.Machine

/-! ### Fields of a descriptor (R316) -/

abbrev Desc := BitVec 512

def eOp (d : Desc) : Nat := fld d 0 4
def eConv (d : Desc) : Nat := fld d 4 6
def eLeaf (d : Desc) : Bool := fld d 10 1 == 1
def eNosteal (d : Desc) : Bool := fld d 13 1 == 1
def eIstr (d : Desc) : Bool := fld d 14 1 == 1
def eMcast (d : Desc) : Bool := fld d 15 1 == 1
def eStream (d : Desc) : Nat := fld d 16 4
def eDmode (d : Desc) : Nat := fld d 20 2
def eRegen (d : Desc) : Nat := fld d 24 8
def eAddr (d : Desc) : Nat := fld d 128 64
def eLen (d : Desc) : Nat := fld d 192 32
def eRuns (d : Desc) : Nat := fld d 224 16
def eStride (d : Desc) : Int := toSigned (fld d 256 64) 64
def eCab (d : Desc) : Nat := fld d 320 12
def eCw (d : Desc) : Nat := fld d 332 6
def eCh (d : Desc) : Nat := fld d 338 6
def eCell (d : Desc) : Nat := fld d 344 8
def eXw (d : Desc) : Nat := fld d 352 4
def eXh (d : Desc) : Nat := fld d 356 4
def eRbase (d : Desc) : Nat := fld d 360 9
def eRows (d : Desc) : Nat := fld d 369 10
def eSeq (d : Desc) : Nat := fld d 384 16
def eAux (d : Desc) : Nat := fld d 448 64

/-- Bytes of all runs. -/
def eBytes (d : Desc) : Nat := eLen d * eRuns d

/-- The rectangle lies on the grid (R317). -/
def rectOk (d : Desc) : Bool :=
  cabX (eCab d) + eCw d < 64 && cabY (eCab d) + eCh d < 64 && eCell d % 16 + eXw d < 16 && eCell d / 16 + eXh d < 16

/-- Drawers of the rectangle in order (R317). -/
def rectCells (d : Desc) : List Nat :=
  (List.range (eCh d + 1)).flatMap (fun cy => (List.range (eCw d + 1)).flatMap (fun cx =>
    let c := cabAt (cabX (eCab d) + cx) (cabY (eCab d) + cy)
    (List.range (eXh d + 1)).flatMap (fun y => (List.range (eXw d + 1)).map (fun x => c * 256 + eCell d + 16 * y + x))))

/-- Drawer rows of the whole descriptor. -/
def eTotal (d : Desc) : Nat := if eMcast d then eRows d else eRows d * (rectCells d).length

/-- Slot size of the ring of the first drawer. -/
def eSlot (s : State) (d : Desc) : Nat := (s.dr ((rectCells d).headD 0)).slot

/-! ### Legality and rights (R323) -/

/-- The CONV value belongs to the operation (R318). -/
def convOk (op conv : Nat) : Bool :=
  conv == 0 || (op == 0 && conv ≤ 10) || (op == 1 && 16 ≤ conv && conv ≤ 21)

/-- The counts divide as R317 and R319 require. -/
def countsOk (d : Desc) : Bool :=
  if eOp d = 0 then readRows (eConv d) (eBytes d) == some (eTotal d)
  else if eOp d = 1 then writeBytes (eConv d) (eTotal d) == some (eBytes d)
  else true

/-- An illegal descriptor (R316, R317, R319, R323). DMODE 1 is listed for READ, WRITE and JOURNAL, and a stream without a ring
cannot be read (DEDUCED, log 21). -/
def edgeBad (s : State) (p : Nat) (d : Desc) : Bool :=
  let op := eOp d
  fld d 22 2 != 0 || fld d 48 16 != 0 || fld d 96 32 != 0 || fld d 240 16 != 0 || fld d 379 5 != 0 || fld d 400 48 != 0
    || 4 < op || !convOk op (eConv d) || 1 < eDmode d || eRows d == 0 || 512 < eRows d || !rectOk d
    || ((eIstr d || eMcast d) && op != 0)
    || eLen d == 0 || eLen d % 32 != 0 || eRuns d == 0
    || (eIstr d && (eAddr d != 0 || fld d 256 64 != 0 || (s.reg (rIstrSize p (eStream d))).toNat == 0))
    || ((op == 2 || op == 3) && (eDmode d != 0 || 2 ^ 24 ≤ eAddr d))
    || (op == 4 && (eDmode d != 1 || eAddr d != 0))
    || !countsOk d
    || (if eDmode d = 1 then eRows d % eSlot s d != 0 || (rectCells d).any (fun g => !ringOf s g (eSlot s d))
        else 512 - stackRows s p < eRbase d + eRows d)

/-- Address of run `i`. -/
def runAddr (s : State) (p : Nat) (d : Desc) (i : Nat) : Int :=
  let leaf := if eOp d = 0 then activeLeaf s p else 1 - activeLeaf s p
  (if eLeaf d then leafBase s p leaf else 0) + (eAddr d : Int) + i * eStride d

/-- The code that stands against an access of a partition at a signed address. -/
def deniedAt (s : State) (p kind : Nat) (a : Int) (n : Nat) : Option Code :=
  if a < 0 then some eRange else hbmDenied s (mPart s p) kind a.toNat n

/-- Blocks of a conversion with bytes at AUX. -/
def auxBytes (d : Desc) : Nat :=
  if !convAux (eConv d) then 0 else if eOp d = 0 then eBytes d / convBytes (eConv d) else eBytes d / 32

def journalLeft (s : State) (p : Nat) : Nat := (s.stepReg p oJournalSize).toNat - journalUsed s p

/-- A word of HBM as a reader sees it. -/
def seenWord (s : State) (a : Nat) : Nat := ofBytes (s.seen a 8)

/-- Entries of its list that a SHIM_IN reads: up to the first one at or above the end of its range (R326). -/
def shimReads (s : State) (d : Desc) : Nat :=
  let n := seenWord s (eAux d)
  ((List.range n).find? (fun i => eAddr d + 4 * eTotal d ≤ bitsOf (seenWord s (eAux d + 32 + 8 * i)) 21 24)).elim n (· + 1)

/-- The first refusal that an access of the descriptor meets (R116, R323). -/
def edgeDenied (s : State) (p : Nat) (d : Desc) : Option Code :=
  let op := eOp d
  let kind := if op = 0 then kRead else kWrite
  let drawers := drawerDenied s p (op == 0 || op == 3) (rectCells d)
  if drawers.isSome then drawers
  else if eIstr d then
    hbmDenied s (mPart s p) kRead (s.reg (rIstrBase p (eStream d))).toNat (s.reg (rIstrSize p (eStream d))).toNat
      <|> (if auxBytes d = 0 then none else hbmDenied s (mPart s p) kRead (eAux d) (auxBytes d))
  else if op ≤ 1 then
    (List.range (eRuns d)).findSome? (fun i => deniedAt s p kind (runAddr s p d i) (eLen d))
      <|> (if auxBytes d = 0 then none else hbmDenied s (mPart s p) kind (eAux d) (auxBytes d))
  else if op = 2 then
    hbmDenied s (mPart s p) kRead (eAux d) 32 <|>
      hbmDenied s (mPart s p) kWrite (eAux d) (32 + 8 * min (seenWord s (eAux d + 8)) (seenWord s (eAux d) + 8 * eTotal d))
  else if op = 3 then
    hbmDenied s (mPart s p) kRead (eAux d) 32 <|> hbmDenied s (mPart s p) kRead (eAux d) (32 + 8 * shimReads s d)
  else if journalLeft s p = 0 then none
  else hbmDenied s (mPart s p) kWrite ((s.stepReg p oJournalBase).toNat + journalUsed s p)
    (min (journalLeft s p) (32 * eTotal d))

/-- An engine meets an illegal descriptor (kind 0x22) or a denied one (kind 0x23): its list ends, and the partition halts
(R323). -/
def edgeFault (e kind : Nat) (a : Active) (s : State) : State :=
  let s := s.orReg (rEeCause e) (if kind = 0x22 then 1 else 2)
  let s : State := { s with edges := s.edges.map (fun x =>
    (x.1, if x.1 = a.home then dropList a x.2
      else { x.2 with issued := x.2.issued.filter (fun y => !(y.lid == a.lid && y.home == a.home)) })) }
  let s := s.setEdge e (s.edge e).rest
  halt a.part (report { kind := kind, unit := .engine (e / 32) (e % 32), part := some a.part, clock := 3,
                        detail := descAddr a } [] s)

/-! ### Delivery to drawers and reads from them (R317, R333, R559) -/

/-- Position of row `r` of a mode region's part of a descriptor: its place in the position (log 21). -/
def regionSub (d : Desc) (y : Drawer) (r : Nat) : Nat := (r - max (eRbase d) y.mbase) % y.perPos

/-- The drawer can take chunk `k` of its rows: slot SEQ + k, or row RBASE + k, which in a mode region takes the next
position (R333). -/
def chunkRoom (s : State) (d : Desc) (k g : Nat) : Bool :=
  let y := s.dr g
  if eDmode d = 1 then y.posFree (y.adv (eSeq d) k)
  else !inRegion y (eRbase d + k) || regionSub d y (eRbase d + k) != 0 || y.posFree y.res

/-- A drawer takes chunk `k`. -/
def chunkPut (d : Desc) (k : Nat) (rows : List Row) (s : State) (g : Nat) : State :=
  if eDmode d = 1 then
    let s := queueCheck g s
    let p := (s.dr g).adv (eSeq d) k
    rows.zipIdx.foldl (fun s r => posWrite g p r.2 (some r.1) s) s
  else
    let r := eRbase d + k
    let v := rows.headD 0
    if inRegion (s.dr g) r then
      let s := queueCheck g s
      let y := s.dr g
      let sub := regionSub d y r
      let s := if sub = 0 then s.setDr g { y with res := y.adv y.res 1 } else s
      posWrite g (if sub = 0 then y.res else y.adv y.res (2 * y.regionN - 1)) sub (some v) s
    else drawerWrite g r v s

/-- Rows of a chunk. -/
def chunkRows (s : State) (d : Desc) : Nat := if eDmode d = 1 then eSlot s d else 1

/-- An access of chunk `k` to the mode region of a drawer compares the copies of its pointers (R337). -/
def chunkCheck (d : Desc) (k : Nat) (s : State) (g : Nat) : State :=
  if eDmode d = 1 || inRegion (s.dr g) (eRbase d + k) then queueCheck g s else s

/-- Deliver fetched rows from chunk `pos` on while the drawers have room and their landing buffers credits (R114): the chunk
reached and the rows left. -/
def deliver (d : Desc) (cells : List Nat) (n : Nat) : Nat → Nat → List Row → State → Nat × List Row × State
  | 0, pos, rows, s => (pos, rows, s)
  | fuel + 1, pos, rows, s =>
    if rows.length < n || rows.isEmpty then (pos, rows, s)
    else
      let per := eRows d / n
      let gs := if eMcast d then cells else (cells.drop (pos / per)).take 1
      let s := gs.foldl (chunkCheck d (pos % per)) s
      if gs.all (fun g => landingRoom s g n && chunkRoom s d (pos % per) g) then
        deliver d cells n fuel (pos + 1) (rows.drop n) (gs.foldl (chunkPut d (pos % per) (rows.take n)) s)
      else (pos, rows, s)

/-- Read the slot at HEAD of a ring, and move HEAD and FREE past it (R559). -/
def slotTake (g : Nat) (s : State) : List Row × State :=
  let s := queueCheck g s
  let y := s.dr g
  let r := drawerReads g (y.posRow y.head 0) y.perPos s
  let h := y.adv y.head 1
  (r.1, r.2.setDr g { r.2.dr g with head := h, head2 := h, free := h, lastRow := r.1.getLastD 0 })

/-! ### READ -/

/-- Bytes of an input stream from a position on (R328). -/
def streamBytes (s : State) (p i pos n : Nat) : List (Nat × Nat) :=
  let size := (s.reg (rIstrSize p i)).toNat
  let base := (s.reg (rIstrBase p i)).toNat
  let o := if size = 0 then 0 else pos % size
  -- the ring may be crossed more than once
  (List.range ((o + n) / max size 1 + 1)).filterMap (fun k =>
    let lo := if k = 0 then o else 0
    let hi := min size (o + n - k * size)
    if lo < hi then some (base + lo, hi - lo) else none)

/-- Read ranges of HBM in turn: the bytes, and whether a detected ochre error was met. -/
def readRanges (p : Nat) : List (Nat × Nat) → State → List Byte × Bool × State
  | [], s => ([], false, s)
  | r :: rs, s =>
    let x := hbmRead (some p) r.1 r.2 s
    let y := readRanges p rs x.2.2
    (x.1 ++ y.1, x.2.1 || y.2.1, y.2.2)

/-- The present jig's image, as HBM holds it. -/
def jigBytes (s : State) (p : Nat) : List Byte :=
  let a := (s.ctx p).jig
  s.seen a (hSize (s.seen a 64))

/-- A READ meets a detected ochre error: the present jig is marked for re-run where R307 allows it; else the error is not
recovered (R309). A jig already marked keeps its mark. -/
def ochreMark (p n : Nat) (s : State) : State :=
  let c := s.ctx p
  if n ≠ 0 && n ≤ s.stepRf p oRegenCtrl 8 8 && s.stepRf p oRegenCtrl 0 1 = 1 && c.rerun = 0
      && !stepContent (jigBytes s p) false then
    s.setCtx p { c with marked := if c.marked.isSome then c.marked else some n }
  else ochreLost (some p) s

/-- A non-finite input element, or an MX scale of 0xFF (R253, R254); a field test changes no cause (R500). -/
def inputNan (p : Nat) (s : State) : State :=
  if testing s p then s else nanArose (some p) (s.orReg (stepAddr s p oStepCause) (2 ^ scNan))

/-- Bytes of the source of a READ that can be fetched: all of them; of an input stream whole granules that WRITE covers
(R330). -/
def readReach (s : State) (p : Nat) (d : Desc) (pos : Nat) : Nat :=
  if eIstr d then
    let n := min (eBytes d) (istrPos s (rIstrWrite p (eStream d)) - pos)
    let size := max 1 (s.reg (rIstrSize p (eStream d))).toNat
    if n = eBytes d then n else n - ((s.reg (rIstrBase p (eStream d))).toNat + (pos + n) % size) % 256
  else eBytes d

/-- Source bytes that make whole drawer rows: a row, or a group of blocks (R319). -/
def readUnit (d : Desc) : Nat := if eConv d = 0 then 32 else 64 * convBytes (eConv d)

/-- Rows of source bytes with the exponents or scales of their blocks (R318), and what the conversion counts. -/
def readConv (e p : Nat) (d : Desc) (bytes aux : List Byte) (s : State) : List Row × State :=
  if eConv d = 0 then (byteRows bytes, s)
  else
    let bs := convBlocks (eConv d) bytes aux
    let s := ((s.count (rEeCount e 4) (bs.countP (·.low))).count (rEeCount e 5) (bs.countP (·.high))).count
      (rEeCount e 6) (bs.countP (·.mxNan))
    (convRows (eConv d) bs, if bs.any (·.nan) then inputNan p s else s)

/-- The source of a READ is fetched as far as it can be, and turned into rows (R318, R320, R330). -/
def fetchRead (e : Nat) (a : Active) (d : Desc) (s : State) : State :=
  let p := a.part
  let x := s.edge e
  let pos := (x.claim.map (·.1)).getD 0
  let n := readReach s p d pos
  if n ≤ x.got then s
  else
    let rs := if eIstr d then streamBytes s p (eStream d) (pos + x.got) (n - x.got)
      else (List.range (eRuns d)).map (fun i => ((runAddr s p d i).toNat, eLen d))
    let y := readRanges p rs s
    let raw := x.raw ++ y.1
    let k := if n = eBytes d then raw.length else raw.length / readUnit d * readUnit d
    let per := if convAux (eConv d) then convBytes (eConv d) else 0
    let z := hbmRead (some p) (eAux d + (x.got - x.raw.length) / per) (k / per) y.2.2
    let s := if y.2.1 || z.2.1 then ochreMark p (eRegen d) z.2.2 else z.2.2
    let r := readConv e p d (raw.take k) z.1 (s.count (rEeCount e 0) (n - x.got + k / per))
    r.2.setEdge e { r.2.edge e with got := n, raw := raw.drop k, rows := x.rows ++ r.1 }

/-- The present descriptor has issued every access (R321). -/
def issued (e : Nat) (a : Active) (istr : Option (Nat × Nat)) (s : State) : State :=
  let x := s.edge e
  s.setEdge e { x.rest with lists := if x.stolen.isSome then x.lists else advanceList x.lists,
                            issued := x.issued ++ [{ a with istr := istr }] }

/-- A descriptor starts; an ISTR descriptor claims its bytes (R330), but for a field test, which moves no stream (R500). -/
def startRead (e p : Nat) (d : Desc) (s : State) : State :=
  let x := s.edge e
  if x.busy then s
  else if eIstr d then
    let r := rIstrRead p (eStream d)
    let pos := istrPos s r
    (if testing s p then s else s.setRf r 0 56 (pos + eBytes d)).setEdge e { x with busy := true, claim := some (pos, eBytes d) }
  else s.setEdge e { x with busy := true }

/-- Rows fetched go to the drawers from the present chunk on; with the last one of a source that is fetched whole the descriptor
is issued. -/
def deliverRows (e : Nat) (a : Active) (d : Desc) (whole : Bool) (s : State) : State :=
  let x := s.edge e
  let t := deliver d (rectCells d) (chunkRows s d) x.rows.length x.pos x.rows s
  if whole && t.2.1.isEmpty then issued e a (x.claim.map (fun c => (eStream d, c.1 + c.2))) t.2.2
  else t.2.2.setEdge e { t.2.2.edge e with pos := t.1, rows := t.2.1 }

/-- READ: claim, fetch, deliver. -/
def doRead (e : Nat) (a : Active) (d : Desc) (s : State) : State :=
  let s := fetchRead e a d (startRead e a.part d s)
  deliverRows e a d (eBytes d ≤ (s.edge e).got) s

/-! ### WRITE, JOURNAL, SHIM_OUT, SHIM_IN -/

/-- Slots of the rectangle's rings are taken in turn while they hold one; each is handed on. -/
def takeSlots (d : Desc) (cells : List Nat) (per : Nat) (use : List Row → State → State) : Nat → Nat → State → Nat × State
  | 0, pos, s => (pos, s)
  | fuel + 1, pos, s =>
    match (cells.drop (pos / per)).head? with
    | none => (pos, s)
    | some g =>
      let s := queueCheck g s
      if (s.dr g).qCount = 0 then (pos, s)
      else
        let r := slotTake g s
        takeSlots d cells per use fuel (pos + 1) (use r.1 r.2)

/-- Rows of every drawer of the rectangle, as they stand (R320). -/
def rectRead (d : Desc) : List Nat → State → List Row × State
  | [], s => ([], s)
  | g :: gs, s =>
    let r := drawerReads g (eRbase d) (eRows d) s
    let t := rectRead d gs r.2
    (r.1 ++ t.1, t.2)

/-- Rows of a WRITE go to HBM, with their scales (R255, R318). -/
def writeRuns (e : Nat) (a : Active) (d : Desc) (rows : List Row) (s : State) : State :=
  let p := a.part
  let o := outBytes (eConv d) rows
  let s := (chunks (eLen d) (eRuns d) o.1).zipIdx.foldl
    (fun s r => partWrite p (runAddr s p d r.2).toNat r.1 s) s
  let s := if o.2.isEmpty then s else partWrite p (eAux d) o.2 s
  s.count (rEeCount e 1) (eBytes d + o.2.length)

/-- WRITE (R316, R320, R559). -/
def doWrite (e : Nat) (a : Active) (d : Desc) (s : State) : State :=
  let cells := rectCells d
  if eDmode d = 0 then
    let r := rectRead d cells s
    issued e a none (writeRuns e a d r.1 r.2)
  else
    let per := eRows d / eSlot s d
    let all := per * cells.length
    let x := s.edge e
    let keep := fun (rows : List Row) (s : State) => s.setEdge e { s.edge e with rows := (s.edge e).rows ++ rows }
    let r := takeSlots d cells per keep (all - x.pos) x.pos (s.setEdge e { x with busy := true })
    if r.1 < all then r.2.setEdge e { r.2.edge e with pos := r.1 }
    else issued e a none (writeRuns e a d (r.2.edge e).rows r.2)

/-- A journal entry is dropped (R291): FORCED is set outside a step too. -/
def journalDrop (p : Nat) (s : State) : State :=
  let s := s.setStepRf p oJournalUsed 63 1 1
  let s := stepCause p scForced (s.orReg (stepAddr s p oStepCause) (2 ^ scForced))
  if inStep s p then s.setCtx p { s.ctx p with jFull := true } else s

/-- One slot becomes a journal entry (R289–R291, R295, R327); a field test changes no journal (R500). -/
def journalSlot (e p : Nat) (rows : List Row) (s : State) : State :=
  let bs := rowBytes rows
  let n := 32 + leAt bs 8 4
  if testing s p then s
  else if (s.ctx p).jFull || bs.length < n || journalLeft s p < n then journalDrop p s
  else
    let used := journalUsed s p
    let s := hbmWrite (some p) ((s.stepReg p oJournalBase).toNat + used) (bs.take n) s
    let now := used + entrySize (leAt bs 8 4)
    let s := (s.setStepRf p oJournalUsed 0 39 now).setStepRf p oJournalUsed 40 23
      (min (s.stepRf p oJournalUsed 40 23 + 1) 0x7FFFFF)
    (s.setStepRf p oJournalPeak 0 39 (max now (s.stepRf p oJournalPeak 0 39))).count (rEeCount e 1) n

/-- JOURNAL (R327, R559). -/
def doJournal (e : Nat) (a : Active) (d : Desc) (s : State) : State :=
  let cells := rectCells d
  let per := eRows d / eSlot s d
  let x := s.edge e
  let r := takeSlots d cells per (journalSlot e a.part) (per * cells.length - x.pos) x.pos (s.setEdge e { x with busy := true })
  if r.1 < per * cells.length then r.2.setEdge e { r.2.edge e with pos := r.1 } else issued e a none r.2

/-- Shim entries of the record rows, from block `b` on (R241, R325). -/
def shimEntries (b : Nat) (rows : List Row) : List Nat :=
  rows.zipIdx.flatMap (fun r => (List.range 8).filterMap (fun i =>
    let w := fld r.1 (32 * i) 32
    if bitsOf w 31 1 = 0 then none
    else some (pack [(0, 16, w), (16, 5, bitsOf w 16 5), (21, 24, b + 4 * r.2 + i / 2), (63, 1, 1)])))

/-- One entry is appended to the shim list at AUX of capacity `cap` that holds `x.1` entries, or dropped (R325). The plinth adds
it to COUNT. -/
def shimAppend (e p aux cap : Nat) (x : Nat × State) (v : Nat) : Nat × State :=
  if cap ≤ x.1 then (x.1, stepCause p scForced ((x.2.count (rEeCount e 7) 1).orReg (rEeCause e) 4))
  else
    let s := hbmWrite (some p) (aux + 32 + 8 * x.1) (leBytes 8 v) x.2
    (x.1 + 1, (hbmWrite (some p) aux (leBytes 8 (x.1 + 1)) s).count (rEeCount e 1) 8)

/-- SHIM_OUT (R242, R325). -/
def doShimOut (e : Nat) (a : Active) (d : Desc) (s : State) : State :=
  let r := rectRead d (rectCells d) s
  let h := hbmReadPlain (some a.part) (eAux d) 32 r.2
  issued e a none ((shimEntries (eAddr d) r.1).foldl (shimAppend e a.part (eAux d) (leAt h.1 8 8)) (leAt h.1 0 8, h.2.count (rEeCount e 0) 32)).2

/-- Place one entry in the record words of its block; a third one is dropped (R326). The words stand under their number. -/
def shimPlace (first : Nat) (x : Sparse Nat × Nat) (v : Nat) : Sparse Nat × Nat :=
  let w := 2 * (bitsOf v 21 24 - first)
  let rec_ := bitsOf v 0 16 + bitsOf v 16 5 <<< 16 + 1 <<< 31
  if sget 0 x.1 w = 0 then (sset x.1 w rec_, x.2)
  else if sget 0 x.1 (w + 1) = 0 then (sset x.1 (w + 1) rec_, x.2)
  else (x.1, x.2 + 1)

/-- The record rows of a SHIM_IN (R326). -/
def fetchShim (e p : Nat) (d : Desc) (s : State) : List Row × State :=
  let h := hbmReadPlain (some p) (eAux d) 32 s
  let n := shimReads h.2 d
  let r := hbmReadPlain (some p) (eAux d + 32) (8 * n) h.2
  let lo := eAddr d
  let hi := lo + 4 * eTotal d
  let vs := (List.range n).map (fun i => leAt r.1 (8 * i) 8)
  let vs := (vs.takeWhile (fun v => bitsOf v 21 24 < hi)).filter (fun v => lo ≤ bitsOf v 21 24)
  let x := vs.foldl (shimPlace lo) ([], 0)
  let rows := (List.range (eTotal d)).map (fun i => rowOf32 (fun k => BitVec.ofNat 32 (sget 0 x.1 (8 * i + k))))
  (rows, (r.2.count (rEeCount e 0) (32 + 8 * n)).count (rEeCount e 7) x.2)

/-- SHIM_IN (R326). -/
def doShimIn (e : Nat) (a : Active) (d : Desc) (s : State) : State :=
  let x := s.edge e
  if x.busy then deliverRows e a d true s
  else
    let r := fetchShim e a.part d s
    deliverRows e a d true (r.2.setEdge e { r.2.edge e with busy := true, rows := r.1 })

/-! ### Meanings -/

/-- The present descriptor of an engine is done, when its operation is one of `ops` (R320, R321, R323). -/
def runEdge (ops : List Nat) (fenceOnly : Bool) (e : Nat) (s : State) : State :=
  let x := s.edge e
  match present e x with
  | none => s
  | some a =>
    let p := a.part
    let c := hbmDenied s (mPart s p) kRead (descAddr a) 64
    if !engineRuns s a || unitGated s (24 + e / 32) then s
    else if x.desc.isNone && c.isSome then edgeFault e 0x23 a (noteGated c s)
    else
    let r := descOf x a s
    let d := r.1
    let a := { a with desc := d }
    let s := if x.desc.isSome then r.2 else r.2.count (rEeCount e 0) 64
    let s := s.setEdge e { s.edge e with desc := some d }
    if !x.busy && edgeBad s p d then edgeFault e 0x22 a s
    else if !x.busy && (edgeDenied s p d).isSome then edgeFault e 0x23 a (noteGated (edgeDenied s p d) s)
    else if fenced s a d 11 32 64 || (fenceOnly && fld d 11 1 = 0) || !ops.contains (eOp d) then s
    else if eOp d = 0 then doRead e a d s
    else if eOp d = 1 then doWrite e a d s
    else if eOp d = 2 then doShimOut e a d s
    else if eOp d = 3 then doShimIn e a d s
    else doJournal e a d s

/-- READ (R316–R320). -/
def execRead (e : BitVec 8) (s : State) : Host.Outcome State Fault Refusal := done s (runEdge [0] false e.toNat s)

/-- WRITE (R316–R320, R559). -/
def execWrite (e : BitVec 8) (s : State) : Host.Outcome State Fault Refusal := done s (runEdge [1] false e.toNat s)

/-- SHIM_OUT (R325). -/
def execShimOut (e : BitVec 8) (s : State) : Host.Outcome State Fault Refusal := done s (runEdge [2] false e.toNat s)

/-- SHIM_IN (R326). -/
def execShimIn (e : BitVec 8) (s : State) : Host.Outcome State Fault Refusal := done s (runEdge [3] false e.toNat s)

/-- JOURNAL (R327). -/
def execJournal (e : BitVec 8) (s : State) : Host.Outcome State Fault Refusal := done s (runEdge [4] false e.toNat s)

/-- FENCED_FETCH (R320): a fenced descriptor of any operation starts once its event has reached its count. -/
def execFencedFetch (e : BitVec 8) (s : State) : Host.Outcome State Fault Refusal :=
  done s (runEdge [0, 1, 2, 3, 4] true e.toNat s)

/-- What an ISTR descriptor read is released when it completes, while the stream has no mark (R330). -/
def releaseClaim (a : Active) (s : State) : State :=
  match a.istr with
  | none => s
  | some (i, pos) =>
    if istrMarked s a.part i || testing s a.part then s
    else s.setRf (rIstrReleased a.part i) 0 56 (max pos (istrPos s (rIstrReleased a.part i)))

/-- DESCRIPTOR_COMPLETE (R315, R321, R322): the oldest issued descriptor of an engine signals, and counts toward its own
list. -/
def execDescriptorComplete (e : BitVec 8) (s : State) : Host.Outcome State Fault Refusal :=
  let n := e.toNat
  let x := s.edge n
  match x.issued with
  | [] => done s s
  | a :: rest =>
    if !engineRuns s a then done s s
    else
      let d := a.desc
      let t := releaseClaim a (s.setEdge n { x with issued := rest })
      let t := if fld d 12 1 = 1 then addEvent a.part a.slot (fld d 40 8) 1 t else t
      let y := t.edge a.home
      let r := listEnds { y with lists := countDone a.lid y.lists } t
      done s (r.2.setEdge a.home r.1)

/-- The last descriptor of the last list of an engine, when it has not started (R322). -/
def lastDesc (s : State) (v : Nat) : Option Active :=
  let x := s.edge v
  match x.lists.getLast? with
  | none => none
  | some l =>
    let started := l.next + (if x.busy && x.stolen.isNone && (present v x).any (fun a => a.lid == l.id && a.idx == l.next)
      then 1 else 0)
    if l.last ≤ started then none
    else some { list := l.addr, lid := l.id, home := v, idx := l.last - 1, part := l.part, slot := l.slot, istr := none }

/-- The first engine, of candidates in order, whose last descriptor may be stolen; the thief reads the descriptors it tries,
which its RD_BYTES count (R322, R351, R414). -/
def stealFrom (e : Nat) : List Nat → State → Option Active × State
  | [], s => (none, s)
  | v :: vs, s =>
    match lastDesc s v with
    | none => stealFrom e vs s
    | some a =>
      let c := hbmDenied s (mPart s a.part) kRead (descAddr a) 64
      if !engineRuns s a then stealFrom e vs s
      else if c.isSome then stealFrom e vs (noteGated c s)
      else
        let r := hbmReadPlain (some a.part) (descAddr a) 64 s
        let d : Desc := BitVec.ofNat 512 (ofBytes r.1)
        let t := r.2.count (rEeCount e 0) 64
        if eNosteal d || eIstr d || eOp d = 2 then stealFrom e vs t else (some { a with desc := d }, t)

/-- The last list of an engine loses its last descriptor. -/
def dropLast : List EList → List EList
  | [] => []
  | [l] => [{ l with last := l.last - 1 }]
  | l :: ls => l :: dropLast ls

/-- Engines of a group in the order in which a thief tries them: most descriptors left, then lowest number (R322). -/
def candidates (s : State) (group : Nat) : Nat → List Nat → List Nat
  | 0, _ => []
  | fuel + 1, vs =>
    let most := (vs.map (fun v => unstarted (s.edge v))).foldl max 0
    match vs.find? (fun v => unstarted (s.edge v) == most) with
    | none => []
    | some v => v :: candidates s group fuel (vs.filter (· != v))

/-- STEAL (R322): an engine with nothing left takes a descriptor from another one of its group. -/
def execSteal (thief : BitVec 8) (s : State) : Host.Outcome State Fault Refusal :=
  let e := thief.toNat
  let x := s.edge e
  if (present e x).isSome || unitGated s (24 + e / 32) then done s s
  else
    let vs := (List.range 32).filterMap (fun i => if 32 * (e / 32) + i = e then none else some (32 * (e / 32) + i))
    let r := stealFrom e (candidates s (e / 32) 31 (vs.filter (fun v => unstarted (s.edge v) != 0))) s
    match r.1 with
    | none => done s r.2
    | some a =>
      let y := r.2.edge a.home
      -- the home engine may have read the descriptor ahead of its fence
      let held := (present a.home y).any (fun b => b.home == a.home && b.lid == a.lid && b.idx == a.idx)
      let t := r.2.setEdge a.home { y with lists := dropLast y.lists, desc := if held then none else y.desc }
      done s ((t.setEdge e { t.edge e with stolen := some a, desc := some a.desc }).count (rEeCount e 2) 1)

/-! ### Waits that time shows (R330, R351) -/

/-- The present descriptor of an engine waits for its fence or its stream. -/
def engineWaits (s : State) (e : Nat × Eng) : Bool :=
  match present e.1 e.2, e.2.desc with
  | some a, some d =>
    let pos := (e.2.claim.map (·.1)).getD 0
    engineRuns s a && ((!e.2.busy && fenced s a d 11 32 64)
      || (e.2.busy && eIstr d && e.2.got < eBytes d && readReach s a.part d pos ≤ e.2.got))
  | _, _ => false

/-- One CCLK cycle of the engines' `FENCE_WAIT`. -/
def tickFence (s : State) : State :=
  (s.edges.filter (engineWaits s)).foldl (fun s e => s.count (rEeCount e.1 3) 1) s

end Sys2Proof.Machine
end

