-- ==== Sys2Proof/Machine/Scan.lean ====
section
/-! DEFINITION. Save images (R220–R223, R339, R388) and context blocks (R448): writing them and restoring them. What an
image has no place for is kept with the context (log 15). -/

namespace Sys2Proof.Machine

/-- Bytes at an offset of a record. -/
abbrev Chunk := Nat × List Byte

def num (off n v : Nat) : Chunk := (off, leBytes n v)
def atOff (base : Nat) (cs : List Chunk) : List Chunk := cs.map (fun c => (base + c.1, c.2))

/-- Put the bytes of chunks, relative to an address. -/
def putChunks (a : Nat) (cs : List Chunk) (s : State) : State := cs.foldl (fun s c => s.putBytes (a + c.1) c.2) s

def cabRecord : Nat := 20480
def cellRecord (full : Bool) : Nat := if full then 32768 else 17664
def cabSection (full : Bool) : Nat := cabRecord + 256 * cellRecord full
/-- Bytes of a save image without its link section (R221). -/
def imageBytes (f : Nat) (full : Bool) : Nat := 64 + f * 256 * cabSection full

/-! ### Records (R222, R339) -/

/-- A saved token. -/
def tokChunk (off port : Nat) (t : Tok) : Chunk :=
  num off 40 (t.payload.toNat + t.tag.toNat <<< 256 + t.valid.toNat <<< 272 + t.epoch.toNat <<< 273
    + kindNum t.kind <<< 274 + 1 <<< 276 + port <<< 277)

def kindOf (n : Nat) : Kind := if n = 0 then .data else if n = 1 then .fin else if n = 2 then .config else .control

/-- A saved token and its port; none in an empty place. -/
def tokAt (m : Mem) (a : Nat) : Option (Nat × Tok) :=
  let v := ofBytes (m.readBytes a 40)
  if bitsOf v 276 1 = 0 then none
  else some (bitsOf v 277 3, { payload := BitVec.ofNat 256 v, tag := BitVec.ofNat 16 (bitsOf v 256 16),
                               valid := bitsOf v 272 1 == 1, epoch := bitsOf v 273 1 == 1, kind := kindOf (bitsOf v 274 2) })

def toksAt (m : Mem) (a n : Nat) : List (Nat × Tok) := (List.range n).filterMap (fun i => tokAt m (a + 40 * i))
def memNum (m : Mem) (a n : Nat) : Nat := ofBytes (m.readBytes a n)

/-- The stack pointers of a drawer (R339), with their offsets and widths: first entry row, end row and frame start row of the band,
entries popped from the present frame, first byte, end byte and frame start byte of the slice. A frame without an entry in one of
them starts at its end. -/
def stackPtrs (d : Drawer) : List (Nat × Nat × Nat) :=
  let used := bandUsed d
  let last := (lastEnt d.stack).map (·.frame)
  let top : Drawer := { d with stack := d.stack.filter (fun e => some e.frame == last) }
  let endRow := used.foldl (fun m r => max m (r + 1)) 0
  let own := bandUsed top
  [(0x70, 2, used.foldl min (used.headD 0)), (0x72, 2, endRow), (0x74, 2, own.foldl min (own.headD endRow)),
   (0x76, 2, if frameForms d then d.popped else ((nextPop d).map (·.ord)).getD 0),
   (0x78, 4, sliceFirst (slicePlaces d)), (0x7C, 4, sliceEnd d),
   (0x80, 4, if (slicePlaces top).isEmpty then sliceEnd d else sliceFirst (slicePlaces top))]

/-- Mode-region and stack pointers (R339). -/
def pointerChunks (d : Drawer) : List Chunk :=
  [num 0 2 d.head, num 2 2 d.head2, num 4 2 d.tail, num 6 2 d.tail2, num 8 2 d.res, num 10 2 d.mark, num 12 2 d.free,
   num 14 2 (d.mvalid.toNat + 2 * d.under.toNat + 4 * d.qreset.toNat),
   num 16 64 (d.written.foldl (fun m p => m ||| 2 ^ p) 0), num 0x50 32 d.lastRow.toNat]
    ++ (stackPtrs d).map (fun x => num x.1 x.2.1 x.2.2)

def restorePointers (m : Mem) (a : Nat) (d : Drawer) : Drawer :=
  let f := memNum m (a + 14) 2
  let w := memNum m (a + 16) 64
  { d with head := memNum m a 2, head2 := memNum m (a + 2) 2, tail := memNum m (a + 4) 2, tail2 := memNum m (a + 6) 2,
           res := memNum m (a + 8) 2, mark := memNum m (a + 10) 2, free := memNum m (a + 12) 2, mvalid := f % 2 == 1,
           under := bitsOf f 1 1 == 1, qreset := bitsOf f 2 1 == 1,
           written := (List.range 512).filter (fun p => bitsOf w p 1 == 1),
           lastRow := BitVec.ofNat 256 (memNum m (a + 0x50) 32) }

/-- Entries of a spill slice from byte `o` to `hi`, by their headers (R341); those from byte `top` on are of the present frame. -/
def sliceEnts (m : Mem) (base top hi : Nat) : Nat → Nat → List StkEnt
  | 0, _ => []
  | fuel + 1, o =>
    if hi ≤ o then []
    else
      let h := memNum m (base + o) 16
      let n := entrySize (bitsOf h 32 16)
      let lossy := bitsOf h 25 1 == 1
      { frame := if top ≤ o then 2 else 1, ord := 0, tag := BitVec.ofNat 16 h, el := bitsOf h 23 2, lossy := lossy,
        rows := bitsOf h 16 7, vmask := BitVec.ofNat 64 (h / 2 ^ 64), len := bandLen (bitsOf h 23 2) (bitsOf h 16 7) lossy,
        place := .slice o n } :: sliceEnts m base top hi fuel (o + n)

/-- ROWS, EL and tag of the entries that the stack words of a drawer program name, in order: those it pops, or else those it
pushes. -/
def stackShape (d : Drawer) : List (Nat × Nat × Nat) :=
  let words := fun (g : Nat) => (genWords d g).filter (fun w => fld w 62 2 == 2)
  (if (words 0).isEmpty then words 1 else words 0).flatMap (fun w =>
    (List.range (fld w 41 12 + 1)).map (fun e => (fld w 53 6 + 1, fld w 59 2, fld w 25 16 + e)))

/-- Entries of the band from row `r` to `hi` of a frame, of the shapes that the stack words give; which rows of a lossless one are
valid is a free value (log 15). -/
def bandEnts (frame hi fresh : Nat) (lossy : Bool) : List (Nat × Nat × Nat) → Nat → List StkEnt
  | [], _ => []
  | x :: xs, r =>
    let lo := x.2.1 ≠ 0 && lossy
    let n := bandLen x.2.1 x.1 lo
    if hi < r + n then []
    else
      { frame := frame, ord := 0, tag := BitVec.ofNat 16 x.2.2, el := x.2.1, lossy := lo, rows := x.1,
        vmask := Config.freeWord (fresh + r), len := n, place := .band ((List.range n).map (r + ·)) }
        :: bandEnts frame hi fresh lossy xs (r + n)

/-- Entries numbered in push order from `k` on. -/
def numberEnts (k : Nat) (es : List StkEnt) : List StkEnt := es.zipIdx.map (fun e => { e.1 with ord := k + e.2 })

/-- The stack that the pointers of a record at `a` name, its slice at `base`: entries of a frame lie in the slice first, then in the
band (R40, R41). -/
def stackAt (m : Mem) (a base fresh : Nat) (lossy : Bool) (d : Drawer) : List StkEnt :=
  let f := fun k w => memNum m (a + k) w
  let sl := sliceEnts m base (f 0x80 4) (f 0x7C 4) ((f 0x7C 4 - f 0x78 4) / 32) (f 0x78 4)
  let old := sl.filter (fun e => e.frame == 1)
  let new := sl.filter (fun e => e.frame == 2)
  let shape := (stackShape d).drop (f 0x76 2)
  numberEnts 0 (old ++ bandEnts 1 (f 0x74 2) fresh lossy (stackShape d) (f 0x70 2))
    ++ numberEnts (f 0x76 2) (new ++ bandEnts 2 (f 0x72 2) fresh lossy (shape.drop new.length) (f 0x74 2))

/-- The stack of a restored drawer: as the context kept it where the pointers of the record are its own, else as they name it
(R339, log 15). -/
def restoreStack (m : Mem) (a base fresh : Nat) (lossy : Bool) (d : Drawer) : Drawer :=
  if (stackPtrs d).all (fun x => memNum m (a + x.1) x.2.1 == x.2.2) then d
  else { d with stack := stackAt m a base fresh lossy d, frames := 2, popped := if d.framed then memNum m (a + 0x76) 2 else 0 }

/-- The part of a cell record that both forms hold, but for the drawer rows. -/
def regChunks (c : Cell) (epoch : Bool) : List Chunk :=
  let r := c.bench.regs
  r.v.map (fun e => num (0x4000 + 32 * e.1) 32 e.2.toNat) ++ r.acc.map (fun e => num (0x4400 + 4 * e.1) 4 e.2.toNat)
    ++ [num 0x4440 2 r.sat.toNat, num 0x4442 2 c.bench.gd.toNat, num 0x4444 1 (r.nan.toNat + 2 * epoch.toNat)]
    ++ atOff 0x4460 (pointerChunks c.dr)

/-- An iteration-table entry; its order counts from the oldest iteration in flight. -/
def iterChunk (b : Bench) (i : Nat) (it : Iter) : List Chunk :=
  let mine := b.resv.filter (fun r => r.tag == it.tag)
  let mask := mine.foldl (fun m r => if r.reg < 32 then m ||| 2 ^ r.reg else m) 0
  let o := 0x6200 + 32 * i
  [num o 2 it.tag.toNat, num (o + 2) 1 it.next, num (o + 3) 1 1, num (o + 12) 4 mask,
   num (o + 16) 1 (mine.any (·.reg == accReg)).toNat, num (o + 20) 2 (b.iters.filter (fun x => x.order < it.order)).length]
    ++ ports.map (fun p => num (o + 4 + portNum p) 1 (fiveGet it.used p))

def boolMask {α : Type} (xs : List α) (f : α → Bool) : Nat := bitMask (xs.map f)

/-- Tokens of the queues of a bench: input ports, then output ports, 4 places each. -/
def queueChunks (off : Nat) (q : Five (List Tok)) : List Chunk :=
  ports.flatMap (fun p => (fiveGet q p).zipIdx.map (fun t => tokChunk (off + 160 * portNum p + 40 * t.2) 0 t.1))

/-- The flags of the generators that go with their positions, and the one of a bench that has taken the next jig. -/
def genFlags (d : Drawer) (ahead : Bool) : List Bool := [d.started, d.stale, d.dry, d.framed, d.full, d.taken, d.endSent, ahead]

/-- The 192 bytes of generator positions: the read and the write generator's word and access, the base, 8 bytes each; rows of
the tile buffers, write counts and row of a popped entry, 2 bytes each; the flags; word and token of the two tiles, 1 and 4 bytes;
the tags of the write counts, 2 bytes each (DESIGN CHOICE, log 15). -/
def genChunks (d : Drawer) (ahead : Bool) : List Chunk :=
  [num 0x50C0 8 d.rdW, num 0x50C8 8 d.rdA, num 0x50D0 8 d.wrW, num 0x50D8 8 d.wrA, num 0x50E0 8 d.base,
   num 0x50E8 2 d.tile.length, num 0x50EA 2 d.tileOut.length, num 0x50EC 2 d.tagCnt.length, num 0x50EE 2 d.popIdx,
   num 0x50F0 1 (bitMask (genFlags d ahead)), num 0x50F1 1 d.tileFrom.1, num 0x50F2 4 d.tileFrom.2, num 0x50F6 1 d.outFrom.1,
   num 0x50F7 4 d.outFrom.2]
    ++ d.tagCnt.zipIdx.map (fun e => num (0x5100 + 2 * e.2) 2 e.1.1) ++ d.tagCnt.zipIdx.map (fun e => num (0x5180 + e.2) 1 e.1.2)

/-- A row in the read return buffer as a saved token of the cell's epoch; its tag is a free value (log 6). -/
def returnTok (fresh : Nat) (epoch : Bool) (r : Row × Nat) : Chunk :=
  tokChunk (0x7A00 + 40 * r.2) 0 { payload := r.1, tag := BitVec.ofNat 16 (Config.freeWord (fresh + r.2)).toNat, valid := true,
                                   epoch := epoch, kind := .data }

/-- The part of the record of cell `g` that only the full form holds. No row waits in a write landing buffer: a row lands as it
arrives. -/
def fullChunks (g fresh : Nat) (epoch : Bool) (c : Cell) : List Chunk :=
  let b := c.bench
  let d := c.dr
  b.prog.zipIdx.map (fun w => num (0x4500 + 8 * w.2) 8 w.1.toNat) ++ b.k.zipIdx.map (fun k => num (0x4700 + 2 * k.2) 2 k.1.toNat)
    ++ [num 0x4720 2 c.sw.route.toNat,
        num 0x4722 2 (boolMask ports (portPassed g b) + 32 * boolMask sides (chanPassed g c))]
    ++ b.regs.tables.map (fun e => num (0x4740 + 2 * e.1) 2 e.2.val.toNat)
    ++ b.regs.texp.map (fun e => num (0x4F40 + e.1) 1 e.2.toNat)
    ++ d.prog.zipIdx.map (fun w => num (0x5000 + 8 * w.2) 8 w.1.toNat)
    ++ d.pats.zipIdx.map (fun w => num (0x5080 + 8 * w.2) 8 w.1.toNat)
    ++ genChunks d b.ahead ++ queueChunks 0x51C0 b.inQ ++ queueChunks 0x54E0 b.outQ
    ++ b.store.zipIdx.map (fun x => tokChunk (0x5800 + 40 * x.2) (portNum x.1.port) x.1.tok)
    ++ b.iters.zipIdx.flatMap (fun x => iterChunk b x.2 x.1)
    ++ d.tile.zipIdx.map (fun r => num (0x6A00 + 32 * r.2) 32 r.1.toNat)
    ++ d.tileOut.zipIdx.map (fun r => num (0x7200 + 32 * r.2) 32 r.1.toNat)
    ++ d.reads.zipIdx.map (returnTok fresh epoch)

/-- The shape of `SEQ_STATUS` for a sequencer (R227), which the cabinet record uses too, with bit 32 for a sequencer whose cabinet
has switched under its program (PRESUMED, log 15). -/
def seqWord (q : Seq) (wait op : Nat) : Nat := pack [(0, 11, q.pos), (16, 3, wait), (24, 8, op)]

/-- x of the retry record or of the sequencer, registers 0–13. -/
def xChunks (off : Nat) (x : Sparse Word) : List Chunk :=
  (x.filter (fun e => e.1 < 14)).map (fun e => num (off + 8 * e.1) 8 e.2.toNat)

/-- A cabinet record; a sequencer that waits in its SCAN.OUT is saved behind it. -/
def cabChunks (s : State) (p c : Nat) (behind : Bool) : List Chunk :=
  let x := s.cab c
  let q := if behind && x.seq.issue.isSome then { x.seq with pos := x.seq.pos + 1, wait := 0 } else x.seq
  xChunks 0 q.x ++ [num 0x70 8 (cabIndex s p c), num 0x78 8 (stepNumber s p), num 0x80 8 (seqWord q q.wait 0 + q.due.toNat <<< 32),
    num 0x100 8 (s.ctx p).rJig, num 0x108 8 q.rPos] ++ xChunks 0x110 q.rX
    ++ x.coef.map (fun e => num (0x1000 + 4 * e.1) 4 e.2.toNat)

/-! ### Copies between memory ranges -/

/-- Copy `n` bytes: the destination holds what the source reads as. -/
def Mem.copy (m from_ : Mem) (src dst n : Nat) : Mem :=
  if from_.undef.any (fun u => u.lo < src + n && src < u.hi) then m.writeBytes dst (from_.readBytes src n)
  else
    (from_.cells.filter (fun c => src ≤ c.1 && c.1 < src + n)).foldl (fun m c => m.write (dst + (c.1 - src)) c.2)
      (m.zeroRange dst (dst + n))

/-- Address of the record of cell `n` of cabinet index `i` of an image at `a`. -/
def cellAddr (a : Nat) (full : Bool) (i n : Nat) : Nat := a + 64 + i * cabSection full + cabRecord + n * cellRecord full
def cabAddr (a : Nat) (full : Bool) (i : Nat) : Nat := a + 64 + i * cabSection full

/-! ### The link section (R388) -/

/-- The elements of 64 bytes of a block: 32 of BF16 or 16 of FP32. -/
def elemBytes (els : List (BitVec 32)) : List Byte := els.flatMap (fun e => leBytes (if els.length = 32 then 2 else 4) e.toNat)
def byteElems (half : Bool) (bs : List Byte) : List (BitVec 32) :=
  let n := if half then 4 else 2
  (List.range (64 / n)).map (fun i => BitVec.ofNat 32 (leAt bs (n * i) n))

/-- A flit of VC 0 or VC 1 in 72 bytes (R388): a header word with what R376 has a flit name, then the payload (DESIGN CHOICE,
log 15). -/
def flitBytes (m : LinkMsg) : List Byte :=
  let h := fun (vc kind half pos n count q : Nat) => leBytes 8 (pack [(0, 2, vc), (2, 4, 1), (6, 2, kind), (8, 1, half), (10, 6, pos),
    (16, 7, n), (23, 4, count), (32, 32, q)])
  let pad := fun (bs : List Byte) => bs.take 64 ++ zeros (64 - bs.length)
  match m with
  | .redPartial _ q pos n half els => h 0 (if els.length = 32 then 0 else 1) half pos n 0 q ++ pad (elemBytes els)
  | .redCompressed _ q pos n bs => h 0 2 0 pos n bs.length q ++ pad (bs.flatMap (fun b => leBytes 8 b.toNat))
  | .gathered _ o row => h 1 0 0 o 0 0 0 ++ pad (leBytes 32 row.toNat)
  | .explicitBlock _ q o half els => h 1 (if els.length = 32 then 1 else 2) half o 0 0 q ++ pad (elemBytes els)
  | _ => zeros 72

/-- The flit of an entry of a layer that 72 bytes hold, with its channel. -/
def bytesFlit (layer : BitVec 16) (bs : List Byte) : Nat × LinkMsg :=
  let h := ofBytes (bs.take 8)
  let pay := bs.drop 8
  let q := bitsOf h 32 32
  let pos := bitsOf h 10 6
  let n := bitsOf h 16 7
  let half := bitsOf h 8 1
  let kind := bitsOf h 6 2
  if bitsOf h 0 2 = 0 then
    (0, if kind = 2 then .redCompressed layer q pos n ((List.range (bitsOf h 23 4)).map (fun i => BitVec.ofNat 64 (leAt pay (8 * i) 8)))
      else .redPartial layer q pos n half (byteElems (kind == 1) pay))
  else (1, if kind = 0 then .gathered layer pos (BitVec.ofNat 256 (leAt pay 0 32)) else .explicitBlock layer q pos half (byteElems (kind == 2) pay))

def entryHeader (e : Entry) (flits : Nat) : List Byte :=
  leBytes 2 e.idx ++ leBytes 2 e.layer.toNat ++ leBytes 2 e.state ++ leBytes 2 e.tag.toNat ++ leBytes 4 e.recv
    ++ leBytes 4 e.sent ++ leBytes 4 e.comb ++ leBytes 4 e.deliv ++ leBytes 4 e.taken ++ leBytes 4 e.written
    ++ leBytes 4 e.locals.length ++ leBytes 4 flits ++ zeros 24

/-- The entry of port `n` that the flits of a layer are for: the started one, else one that still collects. -/
def flitEntry (l : Link) (layer : BitVec 16) : Option Entry :=
  match entryByLayer l layer with
  | some e => some e
  | none => l.entries.find? (fun e => e.layer == layer && e.state == 1)

/-- The flits received for an entry of ring `n`, which arrive on its IN port. -/
def entryFlits (s : State) (n : Nat) (e : Entry) : List LinkMsg :=
  let l := s.link (ringIn s n)
  if (flitEntry (s.link n) e.layer).any (fun x => x.idx == e.idx) then (l.rx.w ++ l.rx.n).filter (msgOf e.layer) else []

/-- An entry with its local-store blocks and its receive flits. -/
def entryBytes (s : State) (n : Nat) (e : Entry) : List Byte :=
  let flits := entryFlits s n e
  entryHeader e flits.length ++ e.locals.flatMap (fun b => leBytes 8 b.1 ++ blockToBytes e.dtype b.2)
    ++ flits.flatMap flitBytes

def granBytes (x : Gran) : List Byte :=
  leBytes 8 (x.addr + 2 ^ 63) ++ (List.range 256).map (fun i => sget 0 x.data i)
    ++ leBytes 32 (x.data.foldl (fun m e => m ||| 2 ^ e.1) 0)

/-- The section of one port. -/
def portBytes (s : State) (n : Nat) : List Byte :=
  let l := s.link n
  let left := match l.copy with
    | some c => c.total - c.sent
    | none => 0
  let es := l.entries.filter (fun e => e.state != 4)
  leBytes 1 n ++ leBytes 1 es.length ++ zeros 6 ++ leBytes 8 (s.reg (rCopySrc n)).toNat
    ++ leBytes 8 (s.reg (rCopyDst n)).toNat ++ leBytes 4 left ++ leBytes 4 (s.rf (rCopyStatus n) 0 1) ++ zeros 32
    ++ es.flatMap (entryBytes s n) ++ l.comb.flatMap granBytes ++ zeros (296 * (64 - l.comb.length))

def linkSection (s : State) (p : Nat) : List Byte := (portsOf (s.ctx p).ports.toNat).flatMap (portBytes s)

/-! ### SCAN.OUT (R220–R222) -/

def firstCab (s : State) (p : Nat) : Nat := 256 * partFirst s p

/-- The address of the present image: every cabinet's current slot holds it. -/
def curImage (s : State) (p : Nat) : Nat := (s.cab (firstCab s p)).now.addr

/-- The present cabinets run ahead of JIG_STATUS: a switch behind end tokens is under way. -/
def switching (s : State) (p : Nat) : Bool := (cabsOf s p).any (fun e => e.2.now.next)

/-- Every cabinet and every cell has switched. -/
def allSwitched (s : State) (p : Nat) : Bool :=
  (partCabs s p).all (fun c => (s.cab c).now.next) && (cellsOf s p).all (fun e => e.2.bench.ahead && e.2.dr.taken)

/-- The image of JIG.NEXT that the spare slots hold, or fill from; 0 for none, so for one of JIG.LOAD. While the cabinets switch
one after the other it is the image they switch to (log 15). -/
def nextAddr (s : State) (p : Nat) : Nat :=
  let c := s.cab (firstCab s p)
  if switching s p && !allSwitched s p then (((cabsOf s p).find? (fun e => e.2.now.next)).map (fun e => e.2.now.addr)).getD 0
  else if c.spare.next && (c.spare.st = 1 || c.spare.st = 2) then c.spare.addr else 0

/-- The header of a save image. Between the last install of a switch and its GO the present jig is the one installed, before
its GO (R220, R221). -/
def headerChunk (s : State) (p : Nat) (full : Bool) (link : Nat) : Chunk :=
  let new := allSwitched s p
  let jig := if new then curImage s p else (s.ctx p).jig
  let id := if new then ofBytes (s.seen (jig + 8) 4) else s.stepRf p oJigStatus 0 32
  num 0 64 (pack [(0, 32, 0x56535A4C), (32, 16, 1), (48, 8, full.toNat), (56, 8, partF s p),
    (64, 32, id), (96, 32, stepNumber s p), (128, 64, jig), (192, 64, nextAddr s p),
    (256, 1, (goBit s p && !new).toNat), (288, 32, link), (504, 8, s.rf rStepping 0 8)])

/-- The drawer rows of a cell go to its record; a word that an error made unreadable is zero there, with what a read of it
sets off (R100). -/
def saveRows (g at0 : Nat) (s : State) : State :=
  let rows := ((s.drErr.filter (fun e => rowAddr g 0 ≤ e.1 && e.1 < rowAddr g 512 && e.2 != 0)).map
    (fun e => (e.1 - rowAddr g 0) / 32)).eraseDups
  rows.foldl (fun s n =>
    let r := drawerRead g n s
    r.2.putBytes (at0 + 32 * n) (leBytes 32 r.1.toNat)) { s with mem := s.mem.copy s.mem (rowAddr g 0) at0 16384 }

/-- Write the save image of a partition at an address the partition may write (R221, R222). -/
def scanOut (p a : Nat) (full behind : Bool) (s : State) : State :=
  let s := drainFlushes p (flushCells p s)
  let link := if full then linkSection s p else []
  let n := imageBytes (partF s p) full
  let s := hbmZero (some p) a (n + link.length) s
  let s := putChunks a [headerChunk s p full link.length, (n, link)] s
  let cabs := partCabs s p
  let s := cabs.foldl (fun s c => putChunks (cabAddr a full (cabIndex s p c)) (cabChunks s p c behind) s) s
  let s := cabs.foldl (fun s c => (List.range 256).foldl (fun s k =>
    let g := 256 * c + k
    let at0 := cellAddr a full (cabIndex s p c) k
    let e := cellEpoch s g
    let s := putChunks at0 (regChunks (s.cell g) e ++ (if full then fullChunks g s.fresh e (s.cell g) else [])) s
    saveRows g at0 { s with fresh := s.fresh + (if full then (s.dr g).reads.length else 0) }) s) s
  let x := s.ctx p
  s.setCtx p { x with keepAt := a, keep := cellsOf s p, keepSeq := (cabsOf s p).map (fun e => (e.1, e.2.seq)),
                      keepLink := if full then (s.links.filter (fun l => fld x.ports l.1 1 == 1)).map (fun l =>
                        (l.1, { l.2 with queue := [], unacked := [], rx := ⟨[], [], [], []⟩ })) else [],
                      keepDowel := if full then s.dowel.filter (fun k => inPart s p (k.writer / 256)) else [] }

/-- After a forced scan-out the ports of the context send no flits of its entries and copies, and hold what arrives (R459). -/
def freezeLinks (p : Nat) (s : State) : State :=
  let ns := portsOf (s.ctx p).ports.toNat
  let layers := fun (n : Nat) => match ringFrom s n with
    | some m => ((s.link m).entries.filter (fun (e : Entry) => e.state != 4)).map Entry.layer
    | none => []
  let t := ns.foldl (fun t n =>
    let l := t.link n
    let keep := (·.filter (fun m => !(layers n).any (fun y => msgOf y m)))
    t.setLink n { l with rx := { l.rx with w := keep l.rx.w, n := keep l.rx.n } }) s
  ns.foldl (fun t n =>
    let l := t.link n
    t.setLink n { l with entries := [], comb := [], gateOut := [], copy := none, frozen := true, aborted := false }) t

/-- Bytes that SCAN.OUT writes. -/
def scanBytes (s : State) (p : Nat) (full : Bool) : Nat :=
  imageBytes (partF s p) full + (if full then (linkSection s p).length else 0)

/-- A save or restore access to `n` bytes that the access tables deny, or a gated plinth (R414, R448). -/
def ctxDeny (p kind a n : Nat) (s : State) : State :=
  halt p (report { kind := 0x25, part := some p, detail := a } [] (noteGated (hbmDenied s (mPart s p) kind a n) s))

/-! ### Restoring (R223) -/

/-- Memory as a restore reads it: a granule that reads as zeros (R303, R304) is zero in it. -/
def scanRead (p a n : Nat) (s : State) : Mem × State :=
  let r := granulesRead (some p) (badGranules s a n) s
  let t := countBytes 0 a n r.2.2
  (r.1.foldl (fun m g => m.zeroRange g (g + 256)) s.mem, if r.2.1 then ochreLost (some p) t else t)

/-- Registers of both forms. -/
def restoreRegs (m : Mem) (a : Nat) (r : Regs) : Regs :=
  { r with v := (List.range 32).map (fun i => (i, BitVec.ofNat 256 (memNum m (a + 0x4000 + 32 * i) 32))),
           acc := (List.range 16).map (fun i => (i, BitVec.ofNat 32 (memNum m (a + 0x4400 + 4 * i) 4))),
           sat := BitVec.ofNat 16 (memNum m (a + 0x4440) 2), nan := memNum m (a + 0x4444) 1 % 2 == 1 }

/-- Product tables of the full form, with their parity recomputed. -/
def restoreTables (m : Mem) (a : Nat) (r : Regs) : Regs :=
  { r with tables := (List.range 1024).map (fun i => (i, ptWrite (BitVec.ofNat 16 (memNum m (a + 0x4740 + 2 * i) 2)))),
           texp := (List.range 4).map (fun i => (i, BitVec.ofNat 8 (memNum m (a + 0x4F40 + i) 1))) }

def restoreIter (m : Mem) (a i : Nat) : Option Iter :=
  let o := a + 0x6200 + 32 * i
  if memNum m (o + 3) 1 = 0 then none
  else some { tag := BitVec.ofNat 16 (memNum m o 2), next := memNum m (o + 2) 1, order := memNum m (o + 20) 2,
              used := ⟨memNum m (o + 4) 1, memNum m (o + 5) 1, memNum m (o + 6) 1, memNum m (o + 7) 1, memNum m (o + 8) 1⟩ }

def restoreQueues (m : Mem) (a : Nat) : Five (List Tok) :=
  let q := fun (i : Nat) => (toksAt m (a + 160 * i) 4).map (·.2)
  ⟨q 0, q 1, q 2, q 3, q 4⟩

def bitBool (v i : Nat) : Bool := bitsOf v i 1 == 1

/-- The reservations of an iteration: the registers of its masks, each until its last reader; `old` says which of them a
bubble firing made. -/
def restoreResv (m : Mem) (a i : Nat) (prog : List Word) (old : List Resv) : List Resv :=
  let o := a + 0x6200 + 32 * i
  let tag : BitVec 16 := BitVec.ofNat 16 (memNum m o 2)
  let next := memNum m (o + 2) 1
  if memNum m (o + 3) 1 = 0 then []
  else (List.range 33).filterMap (fun r =>
    if if r < 32 then bitBool (memNum m (o + 12) 4) r else memNum m (o + 16) 1 != 0 then
      some { reg := r, tag := tag, last := (lastReader r (prog.drop next) next).getD next,
             bubble := old.any (fun x => x.tag == tag && x.reg == r && x.bubble) }
    else none)

/-- A bench restored from a record of the full form. -/
def restoreBench (m : Mem) (a : Nat) (b : Bench) : Bench :=
  let f := memNum m (a + 0x4722) 2
  let prog := (List.range b.prog.length).map (fun i => BitVec.ofNat 64 (memNum m (a + 0x4500 + 8 * i) 8))
  let its := (List.range 64).filterMap (restoreIter m a)
  { b with regs := restoreTables m a b.regs,
           k := (List.range 16).map (fun i => BitVec.ofNat 16 (memNum m (a + 0x4700 + 2 * i) 2)),
           prog := prog, resv := (List.range 64).flatMap (fun i => restoreResv m a i prog b.resv),
           passedP := ⟨bitBool f 0, bitBool f 1, bitBool f 2, bitBool f 3, bitBool f 4⟩,
           passedC := ⟨bitBool f 5, bitBool f 6, bitBool f 7, bitBool f 8⟩,
           inQ := restoreQueues m (a + 0x51C0), outQ := restoreQueues m (a + 0x54E0),
           store := (toksAt m (a + 0x5800) 64).map (fun x => { port := portOf x.1, tok := x.2 }),
           iters := its, order := its.length }

/-- A drawer restored from a record of the full form. -/
def restoreGens (m : Mem) (a : Nat) (d : Drawer) : Drawer :=
  let rows := fun (o n : Nat) => (List.range n).map (fun i => (BitVec.ofNat 256 (memNum m (a + o + 32 * i) 32) : Row))
  let f := memNum m (a + 0x50F0) 1
  { d with tile := rows 0x6A00 (min 64 (memNum m (a + 0x50E8) 2)), tileOut := rows 0x7200 (min 64 (memNum m (a + 0x50EA) 2)),
           reads := (toksAt m (a + 0x7A00) 8).map (·.2.payload),
           tagCnt := (List.range (min 64 (memNum m (a + 0x50EC) 2))).foldl
             (fun t i => sset t (memNum m (a + 0x5100 + 2 * i) 2) (memNum m (a + 0x5180 + i) 1)) [],
           popIdx := memNum m (a + 0x50EE) 2, tileFrom := (memNum m (a + 0x50F1) 1, memNum m (a + 0x50F2) 4),
           outFrom := (memNum m (a + 0x50F6) 1, memNum m (a + 0x50F7) 4), started := bitBool f 0, stale := bitBool f 1, dry := bitBool f 2,
           framed := bitBool f 3, full := bitBool f 4, taken := bitBool f 5, endSent := bitBool f 6, rdW := memNum m (a + 0x50C0) 8, rdA := memNum m (a + 0x50C8) 8, wrW := memNum m (a + 0x50D0) 8,
           wrA := memNum m (a + 0x50D8) 8, base := memNum m (a + 0x50E0) 8,
           prog := (List.range d.prog.length).map (fun i => BitVec.ofNat 64 (memNum m (a + 0x5000 + 8 * i) 8)),
           pats := (List.range d.pats.length).map (fun i => BitVec.ofNat 64 (memNum m (a + 0x5080 + 8 * i) 8)) }

/-- Generators that count as complete (R223). -/
def gensComplete (d : Drawer) : Drawer :=
  { d with rdW := (genWords d 0).length, rdA := 0, wrW := (genWords d 1).length, wrA := 0 }

/-- The EPOCH flag of a cell record, and in the full form whether its bench and its drawer have taken the next jig (R222). -/
def recEpoch (m : Mem) (a : Nat) : Bool := bitBool (memNum m (a + 0x4444) 1) 1
def recAhead (m : Mem) (a : Nat) : Bool := bitBool (memNum m (a + 0x50F0) 1) 7
def recTaken (m : Mem) (a : Nat) : Bool := bitBool (memNum m (a + 0x50F0) 1) 5

/-- What the restore of an image needs beside its records: its form, its GO, the epoch of its present jig, whether that jig has
lossy checkpoints, the number of the next free value. -/
structure Restore where
  full  : Bool
  go    : Bool
  epoch : Bool
  lossy : Bool
  fresh : Nat
deriving DecidableEq, Repr

/-- A cell restored: `old` holds what the image has no place for; in the boundary form the present cell `now`, configured without
init records, keeps its product tables and exponents (R223, R433). In the full form a part that has taken the next jig has the
configuration `next`. `slice` is the place of its spill slice. -/
def restoreCell (m : Mem) (a slice : Nat) (x : Restore) (cfg next : CellCfg) (old now : Cell) : Cell :=
  let stack := restoreStack m (a + 0x4460) slice x.fresh x.lossy
  if x.full then
    let bc := if recAhead m a then next else cfg
    let dc := if recTaken m a then next else cfg
    let b := { old.bench with prog := bc.prog, ahead := xor (recEpoch m a) x.epoch }
    let b := restoreBench m a { b with regs := restoreRegs m a b.regs, gd := BitVec.ofNat 16 (memNum m (a + 0x4442) 2) }
    let d := stack (restoreGens m a (restorePointers m (a + 0x4460) { old.dr with
      prog := dc.dprog, pats := dc.pats, mode := dc.mode, mbase := dc.mbase, msize := dc.msize, slot := dc.slot }))
    { bench := b, sw := { old.sw with route := BitVec.ofNat 16 (memNum m (a + 0x4720) 2) }, dr := d }
  else
    let b : Bench := { installBench cfg false now.bench with ords := old.bench.ords, cap0 := old.bench.cap0, cap1 := old.bench.cap1 }
    let b := { b with regs := restoreRegs m a b.regs, gd := BitVec.ofNat 16 (memNum m (a + 0x4442) 2) }
    let d := installDrawer cfg { stack := old.dr.stack, frames := old.dr.frames, full := old.dr.full, ceRow := old.dr.ceRow,
                                 ceCnt := old.dr.ceCnt }
    let d := stack (restorePointers m (a + 0x4460) { d with framed := old.dr.framed, popped := old.dr.popped,
                                                            slotCnt := old.dr.slotCnt })
    { bench := b, sw := { route := cfg.route }, dr := if x.go then gensComplete d else d }

/-- A sequencer restored from a cabinet record; its control segment is that of the image of slot `now`. One that waits at a
partition-wide instruction it had issued goes on waiting there; without the record of that it issues the instruction anew. -/
def restoreSeq (m : Mem) (a : Nat) (now : Slot) (old : Seq) : Seq :=
  let w := BitVec.ofNat 64 (memNum m (a + 0x80) 8)
  let xs := fun (o : Nat) => (List.range 14).map (fun i => (i, BitVec.ofNat 64 (memNum m (a + o + 8 * i) 8)))
  let issued := fld w 16 3 = 1 ∧ old.issue.isSome
  { old with x := xs 0, pos := fld w 0 11, due := fld w 32 1 = 1, wait := if fld w 16 3 = 1 ∧ ¬issued then 0 else fld w 16 3,
             issue := if issued then old.issue else none, seg := now.addr + cabCtrlOff now.img, len := now.ctrlWords, rPos := memNum m (a + 0x108) 8, rX := xs 0x110 }

/-- Bytes that the restore of the save image at `a` reads: its records, and in the full form the link section (R388, R448). -/
def imageRead (f : Nat) (m : Mem) (a : Nat) : Nat :=
  let full := memNum m (a + 6) 1 == 1
  imageBytes f full + (if full then memNum m (a + 36) 4 else 0)

/-- What SCAN.IN finds against a save image, with the offset of the field (R223, R228); `jig` is the JIG_ID of the image at
JIG_ADDR. -/
def scanBad (m : Mem) (a fields jig : Nat) : Option (Code × Nat) :=
  if memNum m a 4 ≠ 0x56535A4C then some (eRange, 0)
  else if memNum m (a + 4) 2 ≠ 1 then some (eRange, 4)
  else if memNum m (a + 63) 1 ≠ 0xA1 then some (eVersion, 63)
  else if memNum m (a + 7) 1 ≠ fields then some (ePartition, 7)
  else if jig ≠ memNum m (a + 8) 4 then some (eState, 8)
  else none

/-! ### Restoring the link section (R388) -/

/-- An entry that the section holds at `o`, with its receive flits and where the next part begins. What the section has no place
for comes from `old` (log 15). -/
def readEntry (m : Mem) (s : State) (p n jig o : Nat) (old : List Entry) : Entry × List (Nat × LinkMsg) × Nat :=
  let f := fun k w => memNum m (o + k) w
  let e := newEntry p (s.part p).slot n (f 0 2) (layerAt s jig (f 0 2))
  let was := old.find? (fun x => x.idx == e.idx)
  let b := blockBytes e.dtype
  let blocks := (List.range (f 32 4)).map (fun i => let q := o + 64 + i * (8 + b); (memNum m q 8, bytesBlock e.dtype (leBytes b (memNum m (q + 8) b))))
  let o' := o + 64 + f 32 4 * (8 + b)
  let e := { e with state := f 4 2, tag := BitVec.ofNat 16 (f 6 2), recv := f 8 4, sent := f 12 4, comb := f 16 4, deliv := f 20 4,
                    taken := f 24 4, written := f 28 4, locals := blocks, ch := (was.map (·.ch)).getD 0,
                    toks := (was.map (·.toks)).getD [], half := was.any (·.half), aborted := (was.map (·.aborted)).getD false }
  (e, (List.range (f 36 4)).map (fun i => bytesFlit e.layer (leBytes 72 (memNum m (o' + 72 * i) 72))), o' + 72 * f 36 4)

def readEntries (m : Mem) (s : State) (p n jig : Nat) (old : List Entry) : Nat → Nat → List Entry × List (Nat × LinkMsg) × Nat
  | 0, o => ([], [], o)
  | k + 1, o =>
    let r := readEntry m s p n jig o old
    let t := readEntries m s p n jig old k r.2.2
    (r.1 :: t.1, r.2.1 ++ t.2.1, t.2.2)

/-- The granules of a combiner. -/
def readComb (m : Mem) (o : Nat) : List Gran :=
  ((List.range 64).filter (fun i => bitsOf (memNum m (o + 296 * i) 8) 63 1 == 1)).map (fun i =>
    let q := o + 296 * i
    let mask := memNum m (q + 264) 32
    { addr := memNum m q 8 % 2 ^ 63,
      data := ((List.range 256).filter (fun k => bitsOf mask k 1 == 1)).map (fun k => (k, BitVec.ofNat 8 (memNum m (q + 8 + k) 1))) })

/-- The port record at `o` is restored; the answer says where the next one begins. Flits that wait at the IN port come after those
of the section. A copy that was started while the link state was saved goes on; otherwise the copy is as the record has it. -/
def restorePort (m : Mem) (p jig : Nat) (keep : Sparse Link) (r : Nat × State) (n : Nat) : Nat × State :=
  let o := r.1
  let s := r.2
  let l := s.link n
  let was := sget {} keep n
  let es := readEntries m s p n jig was.entries (memNum m (o + 1) 1) (o + 64)
  let busy : Bool := memNum m (o + 28) 1 = 1
  let newer := l.frozen && l.copy.isSome && !busy
  let s := if newer then s else
    ((s.setReg (rCopySrc n) (BitVec.ofNat 64 (memNum m (o + 8) 8))).setReg (rCopyDst n) (BitVec.ofNat 64 (memNum m (o + 16) 8))).setRf
      (rCopyStatus n) 0 1 busy.toNat
  let total := s.rf (rCopyLen n) 0 32
  let run : CopyRun := { src := memNum m (o + 8) 8, dst := BitVec.ofNat 39 (memNum m (o + 16) 8), total := total,
                         sent := total - memNum m (o + 24) 4 }
  let held := l.frozen && l.aborted
  let s := s.setLink n { l with entries := es.1 ++ was.entries.filter (fun e => e.state == 4), comb := readComb m es.2.2,
                                copy := if busy then some run else if newer then l.copy else none, gateOut := was.gateOut, frozen := false, aborted := was.aborted }
  let k := s.link (ringIn s n)
  let on := fun vc => (es.2.1.filter (fun f => f.1 == vc)).map (·.2)
  let s := s.setLink (ringIn s n) { k with rx := { k.rx with w := on 0 ++ k.rx.w, n := on 1 ++ k.rx.n } }
  (es.2.2 + 64 * 296, if held then abortRing n s else s)

/-- The link section of a full save image at `a` is restored (R388): what the ports have received for the context since its
forced scan-out comes after what the section holds, and they go on sending. -/
def restoreLinks (p a : Nat) (own : Bool) (m : Mem) (s : State) : State :=
  let x := s.ctx p
  if memNum m (a + 36) 4 = 0 then s
  else
    let ns := portsOf x.ports.toNat
    let late := fun (s : State) (n : Nat) =>
      let k : Link := if own then sget {} x.keepLink n else {}
      let l := s.link n
      s.setLink n { l with rx := { l.rx with w := k.rx.w ++ (if l.frozen then l.rx.w else []),
                                             n := k.rx.n ++ (if l.frozen then l.rx.n else []) } }
    let s := ns.foldl late s
    let jig := memNum m (a + 16) 8
    let s := (ns.foldl (restorePort m p jig (if own then x.keepLink else [])) (a + imageBytes (partF s p) true, s)).2
    ns.foldl (fun s n => pump n s) s

/-- Restore the records of every cabinet and cell from a read image whose jig the current slots hold. -/
def scanIn (p a : Nat) (m : Mem) (full go : Bool) (s : State) : State :=
  let x := s.ctx p
  let own := x.keepAt = a
  let cabs := partCabs s p
  let rec0 := cellAddr a full 0 0
  let r : Restore := { full := full, go := go, epoch := xor (recEpoch m rec0) (full && recAhead m rec0), lossy := lossyJig s p,
                       fresh := s.fresh }
  let s : State := { s with fresh := s.fresh + 512 }
  let mid := full && cabs.any (fun c => (List.range 256).any (fun n => recAhead m (cellAddr a full (cabIndex s p c) n)))
  let to_ := memNum m (a + 24) 8
  let nextImg := if mid then m.readBytes to_ (hSize (m.readBytes to_ 64)) else []
  let next := fun (c : Nat) => cabImage nextImg (cabIndex s p c)
  -- a cabinet of which every cell that either jig uses has switched holds the next jig
  let gone := fun (c : Nat) => mid && (List.range 256).all (fun n =>
    let e := cellAddr a full (cabIndex s p c) n
    (recAhead m e && recTaken m e) || (entryEmpty (s.cab c).now.img n && entryEmpty (next c) n))
  let s := cabs.foldl (fun s c =>
    let k := s.cab c
    let base := cabAddr a full (cabIndex s p c)
    let old := if own then sget k.seq x.keepSeq c else {}
    let on : Slot := { st := 2, addr := to_, img := next c, next := true }
    let due := bitsOf (memNum m (base + 0x80) 8) 32 1 == 1
    let q := restoreSeq m base (if gone c && !due then on else k.now) old
    let k := if gone c then k.setSlot k.cur on else k
    s.setCab c { k with seq := q, icache := [], dcache := [],
                        coef := (List.range 4096).map (fun i => (i, BitVec.ofNat 32 (memNum m (base + 0x1000 + 4 * i) 4))) }) s
  let s := cabs.foldl (fun s c => (List.range 256).foldl (fun s n =>
    let g := 256 * c + n
    let at0 := cellAddr a full (cabIndex s p c) n
    let old := if own then sget {} x.keep g else {}
    let cfg := fun (img : List Byte) (v2 : Bool) => cellCfg img v2 n
    let jig := x.jig
    let s := s.setCell g (restoreCell m at0 (spillSlice s p g).1 r
      (if gone c then cfg (cabImage (s.seen jig (hSize (s.seen jig 64))) (cabIndex s p c)) (imageV2 s jig) else slotCfg s (s.cab c).now g)
      (cfg (next c) (isV2 (nextImg.take 64))) old (s.cell g))
    { s with mem := s.mem.copy m at0 (rowAddr g 0) 16384,
             drErr := sfilter s.drErr (fun x => x < rowAddr g 0 || rowAddr g 512 ≤ x) }) s) s
  let s := s.setCtx p { s.ctx p with rJig := memNum m (cabAddr a full 0 + 0x100) 8 }
  if full then restoreLinks p a own m { s with dowel := if own then s.dowel ++ x.keepDowel else s.dowel } else s

/-! ### Context blocks (R448) -/

/-- `VOTE_CTRL.REPORTED`: the ports whose vote-up has arrived (R392). -/
def reportedPorts (c : Ctx) : Nat := (c.ups.map (fun u => 2 ^ u.1)).foldl (· ||| ·) 0

/-- The block of a context: events, semaphores, waiting SEM.P, step-page registers, CID and PORTS, the form. -/
def blockChunks (s : State) (p sl : Nat) : List Chunk :=
  let c := s.ctxAt p sl
  c.ev.map (fun e => num (4 * e.1) 4 e.2.toNat) ++ c.sem.map (fun e => num (0x400 + 4 * e.1) 4 e.2.toNat)
    ++ (c.semQ.take 64).zipIdx.map (fun q =>
      num (0x500 + 8 * q.2) 8 (pack [(0, 16, cabIndex s p q.1.cab), (16, 8, q.1.sem), (32, 32, q.1.count)]))
    ++ stepOffsets.map (fun r => num (0x700 + r.lo) 8 (s.reg (rStep p sl r.lo)).toNat)
    ++ [num (0x700 + oVoteCtrl) 8 (setFld (s.reg (rStep p sl oVoteCtrl)) 32 16 (reportedPorts c)).toNat,
        num (0x700 + oCtxArea) 8 (c.area &&& pageMask), num 0x800 8 (c.cid.toNat + c.ports.toNat <<< 48), num 0x808 8 (match c.saved with
      | some full => 1 + 2 * full.toNat
      | none => 0)]

/-- Write a context block at the context's area. -/
def blockWrite (p sl : Nat) (s : State) : State :=
  let a := (s.ctxAt p sl).area
  putChunks a (blockChunks s p sl) (hbmZero (some p) a 0x810 s)

/-- Read a context block back; the step-page registers stand in the context's view all along (R446). The block has room for 64
waiting SEM.P; how many there are, and those beyond, the context keeps (log 15). -/
def blockRead (p sl : Nat) (s : State) : State :=
  let c := s.ctxAt p sl
  let r := scanRead p c.area 0x810 s
  let m := r.1
  let q := (List.range (min 64 c.semQ.length)).map (fun i =>
    let v := memNum m (c.area + 0x500 + 8 * i) 8
    { cab := bitsOf v 0 16 + 256 * partFirst s p, sem := bitsOf v 16 8, count := bitsOf v 32 32 : SemWait })
  r.2.setCtxAt p sl { c with ev := (List.range 256).map (fun i => (i, BitVec.ofNat 32 (memNum m (c.area + 4 * i) 4))),
                             sem := (List.range 64).map (fun i => (i, BitVec.ofNat 32 (memNum m (c.area + 0x400 + 4 * i) 4))),
                             semQ := q ++ c.semQ.drop 64 }

end Sys2Proof.Machine
end

