-- ==== Sys2Proof/Machine/Hash.lean ====
section
/-! DEFINITION. SHA-384, the hash that the fuses, the measurements and the attestation use (R538, R541, R542). The spec names it
and does not lay it down: it is written from the standard that carries the name (FIPS 180-4), PRESUMED (log 7). Words are numbers
below 2^64. -/

namespace Sys2Proof.Machine

def m64 : Nat := 2 ^ 64
def add64 (a b : Nat) : Nat := (a + b) % m64
def ror64 (x n : Nat) : Nat := (x >>> n) ||| (x <<< (64 - n)) % m64
def not64 (x : Nat) : Nat := m64 - 1 - x

/-- Round constants 0 to 15. -/
def shaK0 : List Nat :=
  [0x428a2f98d728ae22, 0x7137449123ef65cd, 0xb5c0fbcfec4d3b2f, 0xe9b5dba58189dbbc,
   0x3956c25bf348b538, 0x59f111f1b605d019, 0x923f82a4af194f9b, 0xab1c5ed5da6d8118,
   0xd807aa98a3030242, 0x12835b0145706fbe, 0x243185be4ee4b28c, 0x550c7dc3d5ffb4e2,
   0x72be5d74f27b896f, 0x80deb1fe3b1696b1, 0x9bdc06a725c71235, 0xc19bf174cf692694]

/-- Round constants 16 to 31. -/
def shaK1 : List Nat :=
  [0xe49b69c19ef14ad2, 0xefbe4786384f25e3, 0x0fc19dc68b8cd5b5, 0x240ca1cc77ac9c65,
   0x2de92c6f592b0275, 0x4a7484aa6ea6e483, 0x5cb0a9dcbd41fbd4, 0x76f988da831153b5,
   0x983e5152ee66dfab, 0xa831c66d2db43210, 0xb00327c898fb213f, 0xbf597fc7beef0ee4,
   0xc6e00bf33da88fc2, 0xd5a79147930aa725, 0x06ca6351e003826f, 0x142929670a0e6e70]

/-- Round constants 32 to 47. -/
def shaK2 : List Nat :=
  [0x27b70a8546d22ffc, 0x2e1b21385c26c926, 0x4d2c6dfc5ac42aed, 0x53380d139d95b3df,
   0x650a73548baf63de, 0x766a0abb3c77b2a8, 0x81c2c92e47edaee6, 0x92722c851482353b,
   0xa2bfe8a14cf10364, 0xa81a664bbc423001, 0xc24b8b70d0f89791, 0xc76c51a30654be30,
   0xd192e819d6ef5218, 0xd69906245565a910, 0xf40e35855771202a, 0x106aa07032bbd1b8]

/-- Round constants 48 to 63. -/
def shaK3 : List Nat :=
  [0x19a4c116b8d2d0c8, 0x1e376c085141ab53, 0x2748774cdf8eeb99, 0x34b0bcb5e19b48a8,
   0x391c0cb3c5c95a63, 0x4ed8aa4ae3418acb, 0x5b9cca4f7763e373, 0x682e6ff3d6b2b8a3,
   0x748f82ee5defb2fc, 0x78a5636f43172f60, 0x84c87814a1f0ab72, 0x8cc702081a6439ec,
   0x90befffa23631e28, 0xa4506cebde82bde9, 0xbef9a3f7b2c67915, 0xc67178f2e372532b]

/-- Round constants 64 to 79. -/
def shaK4 : List Nat :=
  [0xca273eceea26619c, 0xd186b8c721c0c207, 0xeada7dd6cde0eb1e, 0xf57d4f7fee6ed178,
   0x06f067aa72176fba, 0x0a637dc5a2c898a6, 0x113f9804bef90dae, 0x1b710b35131c471b,
   0x28db77f523047d84, 0x32caab7b40c72493, 0x3c9ebe0a15c9bebc, 0x431d67c49c100d4c,
   0x4cc5d4becb3e42b6, 0x597f299cfc657e2a, 0x5fcb6fab3ad6faec, 0x6c44198c4a475817]

def shaK : List Nat := shaK0 ++ shaK1 ++ shaK2 ++ shaK3 ++ shaK4

/-- The initial hash value of SHA-384. -/
def shaInit : List Nat :=
  [0xcbbb9d5dc1059ed8, 0x629a292a367cd507, 0x9159015a3070dd17, 0x152fecd8f70e5939,
   0x67332667ffc00b31, 0x8eb44a8768581511, 0xdb0c2e0d64f98fa7, 0x47b5481dbefa4fa4]

/-- The 8 working variables. -/
structure ShaVars where
  a : Nat
  b : Nat
  c : Nat
  d : Nat
  e : Nat
  f : Nat
  g : Nat
  h : Nat
deriving DecidableEq, Repr

/-- One round with a constant and a word of the message schedule. -/
def shaRound (v : ShaVars) (k w : Nat) : ShaVars :=
  let s1 := ror64 v.e 14 ^^^ ror64 v.e 18 ^^^ ror64 v.e 41
  let ch := (v.e &&& v.f) ^^^ (not64 v.e &&& v.g)
  let t1 := (v.h + s1 + ch + k + w) % m64
  let s0 := ror64 v.a 28 ^^^ ror64 v.a 34 ^^^ ror64 v.a 39
  let maj := (v.a &&& v.b) ^^^ (v.a &&& v.c) ^^^ (v.b &&& v.c)
  ⟨(t1 + s0 + maj) % m64, v.a, v.b, v.c, add64 v.d t1, v.e, v.f, v.g⟩

/-- The next word of the schedule from the last 16, the oldest first. -/
def shaNext (ws : List Nat) : Nat :=
  let x := ws.getD 14 0
  let y := ws.getD 1 0
  let s1 := ror64 x 19 ^^^ ror64 x 61 ^^^ (x >>> 6)
  let s0 := ror64 y 1 ^^^ ror64 y 8 ^^^ (y >>> 7)
  (s1 + ws.getD 9 0 + s0 + ws.getD 0 0) % m64

/-- Rounds over a list of constants; the first word of the window is the word of the round. -/
def shaRounds : List Nat → List Nat → ShaVars → ShaVars
  | [], _, v => v
  | k :: ks, ws, v => shaRounds ks (ws.drop 1 ++ [shaNext ws]) (shaRound v k (ws.getD 0 0))

/-- The hash value after a block of 16 words. -/
def shaBlock (h ws : List Nat) : List Nat :=
  let i := fun n => h.getD n 0
  let v := shaRounds shaK ws ⟨i 0, i 1, i 2, i 3, i 4, i 5, i 6, i 7⟩
  [add64 (i 0) v.a, add64 (i 1) v.b, add64 (i 2) v.c, add64 (i 3) v.d, add64 (i 4) v.e, add64 (i 5) v.f, add64 (i 6) v.g,
   add64 (i 7) v.h]

/-- The number that bytes spell, the first byte most significant. -/
def beNat (bs : List Byte) : Nat := bs.foldl (fun n b => 256 * n + b.toNat) 0

/-- The 16 words of a block of 128 bytes. -/
def shaWords (bs : List Byte) : List Nat := (List.range 16).map (fun i => beNat ((bs.drop (8 * i)).take 8))

/-- Bytes with the padding of the standard: a 1 bit, zeros, the length in bits. -/
def shaPad (bs : List Byte) : List Byte :=
  bs ++ [0x80] ++ zeros ((239 - bs.length % 128) % 128) ++ (leBytes 16 (8 * bs.length)).reverse

/-- Blocks of 128 bytes in turn. -/
def shaBlocks : Nat → List Byte → List Nat → List Nat
  | 0, _, h => h
  | n + 1, bs, h => shaBlocks n (bs.drop 128) (shaBlock h (shaWords bs))

/-- SHA-384 of bytes: the first 6 of the 8 words. -/
def sha384 (bs : List Byte) : BitVec 384 :=
  let p := shaPad bs
  BitVec.ofNat 384 (((shaBlocks (p.length / 128) p shaInit).take 6).foldl (fun n w => n * m64 + w) 0)

/-- The 48 bytes of a hash, in the order of the standard. -/
def hashBytes (h : BitVec 384) : List Byte := (leBytes 48 h.toNat).reverse

end Sys2Proof.Machine
end

