-- ==== Sys2Proof/Machine/Security.lean ====
section
/-! DEFINITION. Start-up, firmware update and attestation (14). -/

namespace Sys2Proof.Machine

/-! ### Firmware images (R537, R538) -/

def imgSigOff (img : List Byte) : Nat := leAt img 16 4
def imgSvn (img : List Byte) : Nat := bitsOf (leAt img 11 1) 0 7
def imgPair (img : List Byte) : Nat := bitsOf (leAt img 11 1) 7 1

/-- MAGIC, VERSION, HDR_SIZE, PART and STEPPING hold the values of R537. -/
def imgHeaderOk (img : List Byte) : Bool :=
  leAt img 0 4 == 0x57464C47 && leAt img 4 2 == 1 && leAt img 6 2 == 256 && leAt img 8 2 == 1 && leAt img 10 1 == 0xA1

/-- The layout of R537 holds: SVN, IMAGE_SIZE, SIG_OFF and COMPONENTS are in range, reserved fields are 0, and the image has room for
its component table and its two signatures, which stand at SIG_OFF. -/
def imgLaid (img : List Byte) : Bool :=
  let size := leAt img 12 4
  let sig := imgSigOff img
  imgSvn img ≤ 64 && sig % 8 == 0 && size == sig + 16608 && size ≤ fSlotSize && size ≤ img.length && 1 ≤ leAt img 20 1
    && leAt img 20 1 ≤ 32 && leAt img 21 11 == 0 && leAt img 64 192 == 0 && 1120 + 16 * leAt img 20 1 ≤ sig

/-- The firmware keys of an image, and its test-package keys (R537). -/
def imgKeys (img : List Byte) : List Byte := (img.drop 256).take 432
def imgTestKeys (img : List Byte) : List Byte := (img.drop 688).take 432

/-- The fused SVN: the set bits of the thermometer code (R539). -/
def fusedSvn (f : Fuses) : Nat := ((List.range 64).filter (fun i => f.svn.getLsbD i)).length

/-- SVN is at least the fused SVN. -/
def imgSvnOk (s : State) (img : List Byte) : Bool := fusedSvn s.sec.fuses ≤ imgSvn img

/-- The hash of the firmware keys is the fused one of the pair that the image names (R538). -/
def imgKeyOk (s : State) (img : List Byte) : Bool :=
  sha384 (imgKeys img) == (if imgPair img = 0 then s.sec.fuses.hash0 else s.sec.fuses.hash1)

/-- Both signatures verify under the given keys; the verdicts come from outside (log 7). -/
def verdictOk (v : SigVerdict) (keys : List Byte) : Bool := v.keys == keys && v.rsa && v.slh

/-- Every check of R538 passes. -/
def slotVerify (s : State) (img : List Byte) (v : SigVerdict) : Bool :=
  imgHeaderOk img && imgLaid img && imgKeyOk s img && !s.sec.fuses.revoked.getLsbD (imgPair img) && imgSvnOk s img
    && verdictOk v (imgKeys img)

def slotImg (s : State) (b : Bool) : List Byte := if b then s.sec.flash.slotB else s.sec.flash.slotA
def slotSt (s : State) (b : Bool) : Nat := slotIn s.sec.flash b
def setSlotSt (b : Bool) (v : Nat) (s : State) : State := { s with sec := { s.sec with flash := putSlot b v s.sec.flash } }

/-- A verified image runs (R534). -/
def imageRuns (s : State) : Bool := 2 ≤ s.sec.boot && !recovery s

/-- The keys that verify test packages: those of the running image (R538). -/
def testKeys (s : State) : Option (List Byte) := if imageRuns s then some (imgTestKeys (slotImg s s.sec.slot)) else none

/-- `FW_INFO` and `FUSE_INFO` for the running slot (R548). -/
def fwInfo (s : State) : State :=
  let img := slotImg s s.sec.slot
  let run := imageRuns s
  let other := slotSt s (!s.sec.slot)
  let v := pack [(0, 1, s.sec.slot.toNat), (1, 7, if run then imgSvn img else 0), (8, 2, other)]
  let w := pack [(0, 7, fusedSvn s.sec.fuses), (7, 1, if run then imgPair img else 0), (8, 2, s.sec.fuses.revoked.toNat)]
  (s.setReg rFwInfo (BitVec.ofNat 64 v)).setReg rFuseInfo (BitVec.ofNat 64 w)

/-! ### Boot (R534–R536, R547) -/

/-- Set bits of `CLK_ENABLE0`; a boot phase ends with the clocks of its units locked (R534). -/
def bootEnable (mask : Nat) (s : State) : State :=
  { s.orReg rClkEnable0 mask with
    clk := { s.clk with locking := s.clk.locking.filter (fun u => bitsOf mask u 1 = 0) } }

def setStage (n : Nat) (s : State) : State := s.setRf rBootStatus 0 3 n

/-- The management port as the configuration block has it (R534). -/
def mgmtFromCfg (mode : Nat) (ip : BitVec 32) (peers : List (BitVec 33)) (s : State) : State :=
  let s := (s.setRf rMgmtCtrl 0 2 mode).setReg rMgmtIpv4 (BitVec.ofNat 64 ip.toNat)
  (List.range 4).foldl (fun s k => s.setReg (rMgmtPeer k) (BitVec.ofNat 64 (peers.getD k 0).toNat)) s

/-- Numbers as bytes of a record (log 7). -/
def rec (vs : List Nat) : List Byte := vs.flatMap (leBytes 8)

/-- The configuration block as measured and as its CRC covers it (log 7). -/
def cfgBytes (c : CfgBlock) : List Byte :=
  rec ([c.mode.toNat, c.ipv4.toNat] ++ c.peers.map (·.toNat) ++ c.macs.map (·.toNat) ++ c.ips.map (·.toNat)
    ++ c.ip6s.map (fun a => a.toNat % 2 ^ 64) ++ c.ip6s.map (fun a => a.toNat >>> 64) ++ c.ctrls.map (·.toNat))

/-- Recovery mode (R536): MGMT on, 1000BASE-X, the address of the configuration block or the fused one. -/
def enterRecovery (s : State) : State :=
  let ok := s.sec.flash.cfg.crc == crc32c (cfgBytes s.sec.flash.cfg)
  let s := setStage 0 ((bootEnable (2 ^ 52 + 2 ^ 53 + 2 ^ 54) s).orReg rSecCause 2)
  let s := mgmtFromCfg 1 (if ok then s.sec.flash.cfg.ipv4 else s.sec.fuses.ipv4)
    (if ok then s.sec.flash.cfg.peers else []) s
  { s with sec := { s.sec with stuck := true } }

/-- The configuration block passes its check (R537). -/
def cfgOk (s : State) : Bool := s.sec.flash.cfg.crc == crc32c (cfgBytes s.sec.flash.cfg)

/-- Phase 1 (R534, R536): copies of the boot directory and the configuration block that the flash has not kept fail their check
from now on; without a copy the module enters recovery mode. -/
def bootRom (seen : BootSeen) (s : State) : State :=
  let f := s.sec.flash
  let spoil := fun (ok : Bool) (d : BootDir) => if ok then d else { d with crc := ~~~(crc32c (dirBytes d)) }
  let f := { f with dir0 := spoil seen.dirOk.1 f.dir0, dir1 := spoil seen.dirOk.2 f.dir1,
                    cfg := if seen.cfgOk then f.cfg else { f.cfg with crc := ~~~(crc32c (cfgBytes f.cfg)) } }
  let s := bootEnable (2 ^ 53 + 2 ^ 54) { s with sec := { s.sec with flash := f } }
  if dirOk f.dir0 || dirOk f.dir1 then s else enterRecovery s

/-- Phase 2 (R534, R547): the next slot, or on its failure the other one; with both failing, recovery. -/
def bootVerify (seen : BootSeen) (s : State) : State :=
  let n := (curDir s.sec.flash).next
  let sig := fun b => if b then seen.sigB else seen.sigA
  if slotVerify s (slotImg s n) (sig n) then { s with sec := { s.sec with slot := n } }
  else
    let s := if slotSt s n = 1 then setSlotSt n 3 s else s
    if slotVerify s (slotImg s (!n)) (sig (!n)) then
      { s.orReg rSecCause 1 with sec := { s.sec with slot := !n, fell := true } }
    else enterRecovery s

/-- The fused remap entries: at most 1,024 (R539). -/
def fuseRemap (f : Fuses) : List Word := f.remap.take 1024

/-- Measurements 1 to 5 (R541). -/
def measure (s : State) : List (BitVec 384) :=
  let img := slotImg s s.sec.slot
  [sha384 Config.romBytes, sha384 (img.take (imgSigOff img)), sha384 (rec [imgSvn img, fusedSvn s.sec.fuses]),
   sha384 (cfgBytes s.sec.flash.cfg), sha384 (rec [imgPair img, s.sec.fuses.revoked.toNat, (fuseRemap s.sec.fuses).length])]

/-- The certificates that the identity keys sign for the alias keys at a boot: the alias public key and the signature over it, for
the RSA and for the SLH-DSA keys (R540; log 7). -/
def aliasCerts (seed : BitVec 256) (fw : BitVec 384) : List (List Byte) :=
  let rsa := leBytes 384 (Config.rsaPublic seed (some fw)).toNat
  let slh := leBytes 48 (Config.slhPublic seed (some fw)).toNat
  [rsa ++ leBytes 384 (Config.rsaSign seed none rsa).toNat, slh ++ leBytes 16224 (Config.slhSign seed none slh).toNat]

/-- Phase 3 (R534, R540, R541). -/
def bootIdentity (s : State) : State :=
  let m := measure s
  { s with sec := { s.sec with measured := m, aliasCerts := aliasCerts s.sec.fuses.seed (m.getD 1 0) } }

/-- One stored remap entry takes the first free entry of its field's segment (R344); the store keeps the field in bits
[35:32] (log 9). -/
def loadRemap (source : Nat) (s : State) (w : Word) : State :=
  let f := fld w 32 4
  match (List.range 8192).find? (fun i => s.rf (rRemapDir (8192 * f + i)) 31 1 == 0) with
  | none => s
  | some i =>
    let v := pack [(0, 29, fld w 0 29), (29, 1, source), (31, 1, 1)]
    s.setReg (rRemapDir (8192 * f + i)) (BitVec.ofNat 64 v)

/-- Set byte `i` of a map of retired units (R124, R130). -/
def setMapByte (a0 i v : Nat) (s : State) : State := s.setRf (a0 + i / 8 * 8) (i % 8 * 8) 5 v

/-- Retirements in force, as records (R496). -/
def retiredRecords (s : State) : List (Nat × Nat) :=
  let cells := s.csr.flatMap (fun e =>
    if bFABRIC ≤ e.1 && e.1 < bFABBLK && 0xA0 ≤ (e.1 - bFABRIC) % 0x10000 && (e.1 - bFABRIC) % 0x10000 < 0xB0 then
      let c := (e.1 - bFABRIC) / 0x10000
      let k := ((e.1 - bFABRIC) % 0x10000 - 0xA0) / 8
      (List.range 8).filterMap (fun i =>
        if fld e.2 (8 * i) 5 = 0x1F then none else some (c * 16 + 8 * k + i, fld e.2 (8 * i) 5))
    else [])
  let cabs := (List.range 256).filterMap (fun j =>
    let v := mapByte s (rCabMap (j / 16) 0) (j % 16)
    if v = 0x1F then none else some (65536 + j, v))
  cells ++ cabs

/-- Firmware keeps the retirements in force in the store of the module flash (R496, R531, R537). -/
def storeRetired (s : State) : State :=
  { s with sec := { s.sec with flash := sealStore { s.sec.flash with retired := retiredRecords s } } }

/-- The RETIRED report and its cause (R492, R496). -/
def retired (scope : Nat) (u : Unit') (phys : Nat) (p : Option Nat) (s : State) : State :=
  setIntegCause icRetired
    (report { kind := 0x40, unit := u, part := p, clock := 1, detail := pack [(0, 1, scope), (4, 9, phys)] } [] s)

/-- The cell maps of a row of cabinets as its physical column `f` retires: a logical cabinet that moves takes the map of
the physical cabinet it moves to (R81, R82, R130). -/
def shiftCellMaps (c : Nat) (s : State) : State :=
  let row := c / 16 * 16
  ((List.range 16).filter (fun k => c % 16 ≤ k)).foldl (fun s k =>
    [0, 1].foldl (fun s n => s.setReg (rCellMap (row + k) n)
      (if k = 15 then 0x1F1F1F1F1F1F1F1F else s.reg (rCellMap (row + k + 1) n))) s) s

/-- One retirement record (R496): numbers below 65,536 name a column of cells of a cabinet, others a row of cabinets. -/
def loadRetired (s : State) (r : Nat × Nat) : State :=
  if r.1 < 65536 then setMapByte (rCellMap (r.1 / 16) 0) (r.1 % 16) r.2 s
  else setMapByte (rCabMap ((r.1 - 65536) / 16) 0) ((r.1 - 65536) % 16) r.2 s

/-- Phase 4 (R531, R534, R535): the fault counts are those of the flash; a store that fails its check is left alone (log 9). -/
def bootMemory (seen : BootSeen) (s : State) : State :=
  let ok := (List.range 8).foldl (fun m k => if seen.hbmFail.getLsbD k then m else m + 2 ^ (16 + k)) 0
  let s := (bootEnable (ok + 0xFF000000 + 2 ^ 55) s).setRf rBootStatus 3 8 seen.hbmFail.toNat
  let s := (fuseRemap s.sec.fuses).foldl (loadRemap 0) s
  let f := s.sec.flash
  if f.storeCrc = crc32c (storeBytes f) then
    let s := f.retired.foldl loadRetired (f.remap.foldl (loadRemap 1) s)
    { s with integ := { s.integ with faults := f.faults } }
  else s

/-- Phase 5 (R534, R535). -/
def bootManagement (s : State) : State :=
  let c := s.sec.flash.cfg
  let s := mgmtFromCfg c.mode.toNat c.ipv4 c.peers (bootEnable (2 ^ 52 + 2 ^ 56 + 2 ^ 57) s)
  if s.rf rBootStatus 3 8 ≠ 0 then { s with sec := { s.sec with stuck := true } } else s

/-- A physical cell that fails the built-in patterns is retired, or its cabinet is, with the report, or it is dead (R494–R496, R535). A
cell of a physical cabinet that no logical cabinet uses is left alone. -/
def bootRetire (s : State) (x : BitVec 4 × Nat × Nat) : State :=
  let f := x.1.toNat
  let row := x.2.1 / 17
  let pcol := x.2.1 % 17
  let gone := mapByte s (rCabMap f 0) row
  if pcol = gone || (gone = 0x1F && pcol = 16) || 16 ≤ row || 272 ≤ x.2.2 then s
  else
    let c := f * 256 + row * 16 + (if pcol < gone then pcol else pcol - 1)
    let col := x.2.2 % 16
    let prow := x.2.2 / 16
    let n := s.rf rBootStatus 16 16
    let was := mapByte s (rCellMap c 0) col
    if was = prow then s
    else if was = 0x1F then
      retired 0 (.cell (c * 256 + prow * 16 + col)) x.2.2 none
        ((setMapByte (rCellMap c 0) col prow s).setRf rBootStatus 16 16 (n + 1))
    else if gone = 0x1F then
      retired 1 (.cab c) x.2.1 none
        ((shiftCellMaps c (setMapByte (rCabMap f 0) row pcol s)).setRf rBootStatus 16 16 (n + 1))
    else
      let lrow := if prow < was then prow else prow - 1
      let t := shortage 0 (.cell (c * 256 + lrow * 16 + col)) x.2.2 s
      { t with integ := { t.integ with dead := t.integ.dead ++ [c * 256 + lrow * 16 + col] } }

/-- Phase 6 (R531, R534): every drawer row is 0 with valid ECC; failing cells are retired. -/
def bootFabric (seen : BootSeen) (s : State) : State :=
  let s := bootEnable 0xFFFF s
  let s := (List.range 16).foldl (fun s f => s.setRf (rFclkStatus f) 17 1 1) s
  storeRetired <| seen.failing.foldl bootRetire
    { s with mem := s.mem.zeroRange bDRAWER drawerEnd, drErr := [], cells := [], cabs := [] }

/-- Data port `n` as the configuration block has it (R534). -/
def ethFromCfg (c : CfgBlock) (s : State) (n : Nat) : State :=
  let v6 := (c.ip6s.getD n 0).toNat
  let s := (s.setReg (rMacAddr n) (BitVec.ofNat 64 (c.macs.getD n 0).toNat)).setReg (rIpv4 n)
    (BitVec.ofNat 64 (c.ips.getD n 0).toNat)
  let s := (s.setReg (rIpv6Lo n) (BitVec.ofNat 64 v6)).setReg (rIpv6Hi n) (BitVec.ofNat 64 (v6 >>> 64))
  match c.ctrls[n]? with
  | some w => s.setReg (rEthCtrl n) w
  | none => s

/-- Phase 7 (R534, R541, R547): ports on, measurement 6, a pending slot becomes good. -/
def bootHost (s : State) : State :=
  let s := bootEnable (0xFFFF * 2 ^ 32 + 0xF * 2 ^ 48) s
  let s := (List.range 4).foldl (ethFromCfg s.sec.flash.cfg) s
  let m6 := sha384 (rec [s.sec.slot.toNat, s.sec.fell.toNat, s.rf rBootStatus 16 16])
  let s := { s with sec := { s.sec with measured := s.sec.measured ++ [m6] } }
  if slotSt s s.sec.slot = 1 then setSlotSt s.sec.slot 2 s else s

/-- BOOT_PHASE (R534–R536, R547): the next phase completes. -/
def execBootPhase (seen : BootSeen) (s : State) : Host.Outcome State Fault Refusal :=
  if !s.sec.powered || shutDown s || s.sec.stuck || 7 ≤ s.sec.boot then .next s
  else
    let n := s.sec.boot + 1
    let t := setStage n { s with sec := { s.sec with boot := n } }
    let t :=
      if n = 1 then bootRom seen t
      else if n = 2 then bootVerify seen t
      else if n = 3 then bootIdentity t
      else if n = 4 then bootMemory seen t
      else if n = 5 then bootManagement t
      else if n = 6 then bootFabric seen t
      else bootHost t
    done s (fwInfo t)

/-! ### Firmware update (R545, R546) -/

/-- An update command ends with a code (R546, R548). -/
def updEnd (code : Code) (s : State) : State :=
  let s := s.setReg rUpdStatus (BitVec.ofNat 64 (code.toNat <<< 8))
  fwInfo ({ s with sec := { s.sec with upd := none } }.orReg rSecCause (if code = cOk then 4 else 8))

/-- What an accepted write of `UPD_CMD` does (R545); a WRITE reads HBM as it stands. -/
def updCmd (v : Word) (s : State) : State :=
  let op := fld v 0 3
  let len := s.rf rUpdLen 0 27
  let running := slotImg s s.sec.slot
  if op = 1 then
    let r := hbmReadPlain none (s.rf rUpdAddr 0 39) len s
    { r.2.setReg rUpdStatus 1 with sec := { r.2.sec with upd := some { stream := false, data := r.1, len := len } } }
  else if op = 2 then
    updEnd cOk { s with sec := { s.sec with flash := putDir { curDir s.sec.flash with next := !s.sec.slot } s.sec.flash } }
  else if op = 3 then
    let n := if imageRuns s then min (imgSvn running) 64 else 0
    updEnd cOk { s with sec := { s.sec with fuses := { s.sec.fuses with svn := s.sec.fuses.svn ||| BitVec.ofNat 64 (2 ^ n - 1) } } }
  else if op = 4 then
    { s.setReg rUpdStatus 1 with sec := { s.sec with upd := some { stream := true, data := [], len := len } } }
  else
    updEnd cOk { s with sec := { s.sec with fuses := { s.sec.fuses with revoked := s.sec.fuses.revoked ||| 1 } } }

/-- An accepted write of `UPD_DATA`: the next 8 bytes of a STREAM, which ends with byte UPD_LEN (R545). -/
def updData (v : Word) (s : State) : State :=
  match s.sec.upd with
  | some u => { s with sec := { s.sec with upd := some { u with data := (u.data ++ leBytes 8 v.toNat).take u.len } } }
  | none => s

/-- UPD_WRITE_DONE (R538, R545, R546): the bytes are in the inactive slot, which is read back and verified. -/
def execUpdWriteDone (v : SigVerdict) (s : State) : Host.Outcome State Fault Refusal :=
  match s.sec.upd with
  | none => .next s
  | some u =>
    if u.data.length < u.len then .next s
    else
      let b := !s.sec.slot
      let fl := if b then { s.sec.flash with slotB := u.data } else { s.sec.flash with slotA := u.data }
      let t := { s with sec := { s.sec with flash := fl } }
      if slotVerify t u.data v then done s (updEnd cOk (setSlotSt b 1 t))
      else done s (updEnd (if imgSvnOk t u.data then eSignature else eVersion) (setSlotSt b 3 t))

/-- Entries of the remap directory that are applied and not fused, which the flash takes (R346, R537). -/
def flashEntries (s : State) : List Word :=
  (List.range 16).flatMap (fun f => (remapEntries s f).filterMap (fun e =>
    if fld e.2 29 1 = 1 && fld e.2 30 1 = 0 then some (setFld e.2 32 4 f) else none))

/-- FLASH_COPY (R346, R356): firmware has copied one applied entry that was not saved to the module flash. -/
def execFlashCopy (s : State) : Host.Outcome State Fault Refusal :=
  match (flashEntries s).find? (fun w => !s.sec.flash.remap.contains w) with
  | none => .next s
  | some w =>
    let t : State := { s with sec := { s.sec with flash := { s.sec.flash with remap := s.sec.flash.remap ++ [w] } } }
    let t : State := { t with sec := { t.sec with flash := sealStore t.sec.flash } }
    done s (t.setRf rRemapStatus 32 16 (t.rf rRemapStatus 32 16 - 1))

/-! ### The SPDM responder (R542, R543) -/

/-- The responder runs: from management-ready on, not in recovery (R536, R542). -/
def spdmRuns (s : State) : Bool := s.sec.powered && 5 ≤ s.sec.boot && !recovery s && mgmtUp s

def conn? (s : State) (id : Nat) : Option Conn := s.sec.conns.find? (fun c => c.id == id)
def setConn (c : Conn) (s : State) : State :=
  { s with sec := { s.sec with conns := s.sec.conns.map (fun d => if d.id == c.id then c else d) } }

/-- Answer a request on an open connection; request and answer join the transcript. -/
def spdmAnswer (id : Nat) (msg : List Byte) (code : Byte) (payload : List Byte) (s : State) : Host.Outcome State Fault Refusal :=
  match conn? s id with
  | none => .next s
  | some c =>
    if spdmRuns s then
      done s ((setConn { c with script := c.script ++ msg ++ [code] ++ payload } s).emit (.spdm id code payload))
    else .next s

/-- Answer a request that is in order: GET_VERSION, GET_CAPABILITIES and NEGOTIATE_ALGORITHMS come before every other request,
each once and in this order; GET_VERSION starts anew. Any other order is an unexpected request (log 10). -/
def spdmIn (id : Nat) (ok : Nat → Bool) (msg : List Byte) (f : Conn → State → Host.Outcome State Fault Refusal) (s : State) :
    Host.Outcome State Fault Refusal :=
  match conn? s id with
  | none => .next s
  | some c => if ok c.phase then f c s else spdmAnswer id msg 0x7F [0x04] s

/-- Answer a request of the negotiation, which brings the connection to a phase. -/
def spdmPhase (id ph : Nat) (ok : Nat → Bool) (msg : List Byte) (code : Byte) (payload : List Byte) (s : State) :
    Host.Outcome State Fault Refusal :=
  spdmIn id ok msg (fun c s =>
    if spdmRuns s then
      let c := if ph = 1 then { id := c.id } else c
      done s ((setConn { c with phase := ph, script := c.script ++ msg ++ [code] ++ payload } s).emit (.spdm id code payload))
    else .next s) s

/-- Answer a request that needs the negotiation to be complete. -/
def spdmReply (id : Nat) (msg : List Byte) (code : Byte) (payload : List Byte) (s : State) : Host.Outcome State Fault Refusal :=
  spdmIn id (· == 3) msg (fun _ s => spdmAnswer id msg code payload s) s

/-- Codes of responses and errors of SPDM 1.3 (log 10). -/
def spVersion : Byte := 0x04
def spCapabilities : Byte := 0x61
def spAlgorithms : Byte := 0x63
def spDigests : Byte := 0x01
def spCertificate : Byte := 0x02
def spChallengeAuth : Byte := 0x03
def spMeasurements : Byte := 0x60
def spVendor : Byte := 0x7E
def spError : Byte := 0x7F
def spInvalid : Byte := 0x01
def spUnexpected : Byte := 0x04
def spUnsupported : Byte := 0x07

/-- SPDM_CONNECT: at most 4 connections at once; further ones are refused (R542). -/
def execSpdmConnect (s : State) : Host.Outcome State Fault Refusal :=
  if spdmRuns s then
    match (List.range 4).find? (fun i => (conn? s i).isNone) with
    | some i =>
      let t : State := { s with sec := { s.sec with conns := s.sec.conns ++ [{ id := i }] } }
      done s (t.emit (.accepted i))
    | none => done s (s.emit .spdmRefused)
  else .next s

/-- CONNECTION_CLOSE. -/
def execConnectionClose (id : BitVec 2) (s : State) : Host.Outcome State Fault Refusal :=
  done s { s with sec := { s.sec with conns := s.sec.conns.filter (fun c => c.id != id.toNat) } }

/-- GET_VERSION: version 1.3 only. -/
def execGetVersion (id : BitVec 2) (msg : List Byte) (s : State) : Host.Outcome State Fault Refusal :=
  spdmPhase id.toNat 1 (fun _ => true) msg spVersion (leBytes 2 0x1300) s

/-- GET_CAPABILITIES: certificates, challenge, measurements with signature; no key exchange, no pre-shared key (log 10). -/
def execGetCapabilities (id : BitVec 2) (msg : List Byte) (s : State) : Host.Outcome State Fault Refusal :=
  spdmPhase id.toNat 2 (· == 1) msg spCapabilities (leBytes 4 0x16) s

/-- NEGOTIATE_ALGORITHMS: RSASSA-PSS 3072 and SHA-384 (log 10). -/
def execNegotiateAlgorithms (id : BitVec 2) (msg : List Byte) (s : State) : Host.Outcome State Fault Refusal :=
  spdmPhase id.toNat 3 (· == 2) msg spAlgorithms (leBytes 4 0x8 ++ leBytes 4 0x2) s

/-- The chain of a certificate slot: the stored chain of the identity key, when the store passes its check (log 9), and the
certificate that this key signed for the alias key at this boot (R537, R540, R542). -/
def certChain (s : State) (slot : Nat) : List Byte :=
  let f := s.sec.flash
  (if f.certsCrc = crc32c f.certs.flatten then f.certs.getD slot [] else []) ++ s.sec.aliasCerts.getD slot []

/-- GET_DIGESTS: the chains of slots 0 (RSA) and 1 (SLH-DSA). -/
def execGetDigests (id : BitVec 2) (msg : List Byte) (s : State) : Host.Outcome State Fault Refusal :=
  spdmReply id.toNat msg spDigests ([0, 1].flatMap (fun k => hashBytes (sha384 (certChain s k)))) s

/-- GET_CERTIFICATE: a part of the chain of a slot; another slot holds none. -/
def execGetCertificate (id : BitVec 2) (slot : Byte) (off len : Nat) (msg : List Byte) (s : State) :
    Host.Outcome State Fault Refusal :=
  if slot.toNat < 2 then
    spdmReply id.toNat msg spCertificate (((certChain s slot.toNat).drop off).take len) s
  else spdmReply id.toNat msg spError [spUnsupported] s

/-- The firmware measurement the alias keys are derived from (R540). -/
def fwMeasurement (s : State) : BitVec 384 := s.sec.measured.getD 1 0

/-- The bytes of a text. -/
def asciiBytes (x : String) : List Byte := x.toList.map (fun c => BitVec.ofNat 8 c.toNat)

/-- The signing context of a response of SPDM 1.3: 100 bytes of version prefix and context text (log 10). -/
def signContext (code : Byte) : List Byte :=
  let text := asciiBytes (if code = spChallengeAuth then "responder-challenge_auth signing" else "responder-measurements signing")
  (List.replicate 4 (asciiBytes "dmtf-spdm-v1.3.*")).flatten ++ zeros (36 - text.length) ++ text

/-- What a signature over a transcript signs: the context and the hash of the transcript (R543). -/
def signMessage (code : Byte) (script : List Byte) : List Byte := signContext code ++ hashBytes (sha384 script)

/-- The RSA and the SLH-DSA signature of the alias keys over a message (R540, R542, R543). -/
def aliasRsa (s : State) (m : List Byte) : List Byte := leBytes 384 (Config.rsaSign s.sec.fuses.seed (some (fwMeasurement s)) m).toNat
def aliasSlh (s : State) (m : List Byte) : List Byte := leBytes 16224 (Config.slhSign s.sec.fuses.seed (some (fwMeasurement s)) m).toNat

/-- Sign the transcript of a connection with the RSA alias key and remember what was signed (R540, R542, R543). The nonce of the
answer is a free value (log 6). -/
def spdmSigned (id : Nat) (msg : List Byte) (code : Byte) (body : List Byte) (s : State) : Host.Outcome State Fault Refusal :=
  spdmIn id (· == 3) msg (fun c s =>
    if spdmRuns s then
      let nonce := (List.range 4).flatMap (fun i => leBytes 8 (Config.freeWord (s.fresh + i)).toNat)
      let t := c.script ++ msg ++ [code] ++ body ++ nonce
      let m := signMessage code t
      let sig := aliasRsa s m
      done s ((setConn { c with script := t ++ sig, signed := some m } { s with fresh := s.fresh + 4 }).emit
        (.spdm id code (body ++ nonce ++ sig)))
    else .next s) s

/-- CHALLENGE: the answer carries a signature over the transcript. -/
def execChallenge (id : BitVec 2) (slot : Byte) (msg : List Byte) (s : State) : Host.Outcome State Fault Refusal :=
  if slot.toNat < 2 then
    spdmSigned id.toNat msg spChallengeAuth (hashBytes (sha384 (certChain s slot.toNat))) s
  else spdmReply id.toNat msg spError [spUnsupported] s

/-- Value types of the measurements 1 to 6 as SPDM numbers them: ROM, firmware, security version, configuration of firmware,
configuration of hardware, configuration of firmware (log 10). -/
def measureType (i : Nat) : Nat := [0, 1, 7, 3, 2, 3].getD (i - 1) 3

/-- The measurement block of an index: index, specification 1, size, value type, value size, the digest (log 10). -/
def measureBlock (i : Nat) (m : BitVec 384) : List Byte :=
  leBytes 1 i ++ [1] ++ leBytes 2 51 ++ leBytes 1 (measureType i) ++ leBytes 2 48 ++ hashBytes m

/-- The indices that a request names: none for index 0, which asks for their number, all for 0xFF. -/
def measureIndices (s : State) (i : Nat) : List Nat :=
  if i = 0 then [] else if i = 0xFF then (List.range s.sec.measured.length).map (· + 1) else [i]

/-- An index that no measurement has. -/
def measureUnknown (s : State) (i : Nat) : Bool := (measureIndices s i).any (fun k => s.sec.measured.length < k)

/-- The body of a MEASUREMENTS response: the number of indices when index 0 asks for it, the number of blocks, the length of the
record, the blocks (log 10). -/
def measurementBody (s : State) (i : Nat) : List Byte :=
  let blocks := (measureIndices s i).map (fun k => measureBlock k (s.sec.measured.getD (k - 1) 0))
  leBytes 1 (if i = 0 then s.sec.measured.length else 0) ++ leBytes 1 blocks.length ++ leBytes 3 blocks.flatten.length ++ blocks.flatten

/-- GET_MEASUREMENTS, with or without signature (R541, R542). -/
def execGetMeasurements (id : BitVec 2) (signed : Bool) (index : Byte) (msg : List Byte) (s : State) :
    Host.Outcome State Fault Refusal :=
  let body := measurementBody s index.toNat
  if measureUnknown s index.toNat then spdmReply id.toNat msg spError [spInvalid] s
  else if signed then spdmSigned id.toNat msg spMeasurements body s
  else spdmReply id.toNat msg spMeasurements body s

/-- VENDOR_DEFINED_REQUEST (R543): the SLH-DSA signature over what the last RSA signature of the connection covers. -/
def execVendorDefinedRequest (id : BitVec 2) (std : BitVec 16) (vendor : BitVec 32) (payload : List Byte) (s : State) :
    Host.Outcome State Fault Refusal :=
  spdmIn id.toNat (· == 3) payload (fun c s =>
    if std.toNat = 4 && vendor.toNat = 0x4F54 && payload == [1] then
      match c.signed with
      | some m => spdmAnswer id.toNat payload spVendor ([1, 0, 0, 0] ++ aliasSlh s m) s
      | none => spdmAnswer id.toNat payload spError [spUnexpected] s
    else spdmAnswer id.toNat payload spError [spUnsupported] s) s

/-- SPDM_UNSUPPORTED: every other request receives ERROR UnsupportedRequest (R542). -/
def execSpdmUnsupported (id : BitVec 2) (code : Byte) (s : State) : Host.Outcome State Fault Refusal :=
  spdmAnswer id.toNat [code] spError [spUnsupported] s

end Sys2Proof.Machine
end

