-- ==== Sys2Proof/Machine/Votes.lean ====
section
/-! DEFINITION. What loads and programs of a partition share: the fill of a slot (R184), who takes part in a jig (R217),
semaphores (R216), the vote result and the votes on the wire (R56, R219, R385). -/

namespace Sys2Proof.Machine

/-! ### Kinds of a fill -/

/-- JIG.NEXT. -/
def fNext : Nat := 0
/-- JIG.LOAD. -/
def fLoad : Nat := 1
/-- RUN. -/
def fRun : Nat := 2
/-- The recorded image of a retry (R219). -/
def fRetry : Nat := 3
/-- The fallback image of the deadline monitor (R464). -/
def fDeadline : Nat := 4
/-- The regenerating image, and the marked jig again: both into the current slots (R308). -/
def fRegen : Nat := 5
def fAgain : Nat := 6
/-- The image at JIG_ADDR of SCAN.IN, and of the restore of a context (R223, R456). -/
def fScanIn : Nat := 7
def fRestore : Nat := 8

/-- The fill goes into the current slots. -/
def inPlace (kind : Nat) : Bool := kind == fRegen || kind == fAgain

/-- Every cabinet of a partition. -/
def allCabs (p : Nat) (f : Nat → Cab → Cab) (s : State) : State :=
  (partCabs s p).foldl (fun s c => s.setCab c (f c (s.cab c))) s

/-- The slot a fill goes into. -/
def fillSide (kind : Nat) (c : Cab) : Bool := if inPlace kind then c.cur else !c.cur

/-- A fill starts: the slots take the address and show filling (R184, R225). -/
def startFill (p kind a : Nat) (s : State) : State :=
  let s := allCabs p (fun _ c =>
    c.setSlot (fillSide kind c) { st := 1, addr := a, img := [], next := kind == fNext }) s
  s.setCtx p { s.ctx p with fill := some (kind, a), fillIn := stepState s p != sIdle, load := none }

/-! ### Semaphores (R216) -/

def putSeq (c : Nat) (q : Seq) (s : State) : State := s.setCab c { s.cab c with seq := q }

/-- The sequencer goes on with the next word. -/
def seqNext (c : Nat) (s : State) : State := s.setCab c (s.cab c).stepOn

def semValue (s : State) (p i : Nat) : Nat := (sget 0 (s.ctx p).sem i).toNat
def setSem (p i v : Nat) (s : State) : State :=
  let x := s.ctx p
  s.setCtx p { x with sem := sset x.sem i (BitVec.ofNat 32 v) }

/-- The waiting SEM.P of a semaphore are served in order of arrival while its value covers the first; one whose program has
ended waits no more. -/
def semServe (p i : Nat) : Nat → State → State
  | 0, s => s
  | fuel + 1, s =>
    match (s.ctx p).semQ.find? (fun w => w.sem == i) with
    | none => s
    | some w =>
      if (s.cab w.cab).seq.wait ≠ 3 then semServe p i fuel (s.setCtx p { s.ctx p with semQ := (s.ctx p).semQ.erase w })
      else if w.count ≤ semValue s p i then
        let s := setSem p i (semValue s p i - w.count) s
        let s := s.setCtx p { s.ctx p with semQ := (s.ctx p).semQ.erase w }
        semServe p i fuel (seqNext w.cab s)
      else s

/-- Serve the queue of a semaphore whose value has changed. -/
def semRun (p i : Nat) (s : State) : State := semServe p i (s.ctx p).semQ.length s

/-! ### Who takes part (R211, R217) -/

/-- The sequencer executes the segment of the jig before the one its partition changes to (R211, R217). -/
def behind (s : State) (p : Nat) (k : Cab) : Bool := k.seq.due || (switching s p && !k.now.next)

/-- Control words of the next jig for a sequencer that is behind. -/
def nextWords (k : Cab) : Nat := if k.seq.due then k.now.ctrlWords else k.spare.ctrlWords

/-- Cabinets that take part in a jig (R217): the jig before (`old`), or the one the partition changes to. -/
def takers (s : State) (p : Nat) (old : Bool) : List (Nat × Cab) :=
  (cabsOf s p).filter (fun e =>
    if behind s p e.2 then 0 < (if old then e.2.seq.len else nextWords e.2)
    else if old then e.2.seq.was else 0 < e.2.seq.len)

/-! ### The vote result (R56, R198, R219) -/

/-- Some sequencers wait in one of a list of opcodes, and all that take part in their jig do. -/
def allAt (s : State) (p : Nat) (ops : List Nat) : Bool :=
  let at_ := fun (k : Cab) => k.seq.issue.any (fun i => ops.contains (cwOp i.word))
  (cabsOf s p).any (fun e => at_ e.2) &&
    (cabsOf s p).all (fun e => !at_ e.2 || (takers s p (behind s p e.2)).all (fun t => at_ t.2))

/-- The vote result is acted on once STEP.COMMIT waits; after a refusal inside the step once every sequencer has stopped,
without retry (R56, R198, R219). -/
def commitTry (p : Nat) (s : State) : State :=
  let x := s.ctx p
  match x.held with
  | none => s
  | some (clean, nan) =>
    if stepState s p ≠ sVoting then s
    else if x.voteReq then
      if !(takingPart s p).all (fun e => e.2.seq.wait == 5) then s else
      let s := s.setCtx p { x with voteReq := false }
      if verdict s p clean nan = .commit then runEnd p (finishCommit p s) else finishDiscard p s
    else if allAt s p [cCOMMIT, cDISCARD] then
      match verdict s p clean nan with
      | .commit => finishCommit p s
      | .retry => startFill p fRetry x.rJig (discardRetry p s)
      | .discard => finishDiscard p s
    else s

/-- STEP_RESOLVE of a waiting step, as committed or as discarded without retry (R68). -/
def stepResolve (p : Nat) (asCommit : Bool) (s : State) : State :=
  let s := s.setCtx p { s.ctx p with voteReq := false, resolve := none }
  runEnd p (if asCommit then finishCommit p s else finishDiscard p s)

/-! ### Votes on the wire (R385, R459) -/

/-- The parked context whose flits wait at a port that no resident context has: the last parked of those with the port. -/
def portParked (s : State) (p n : Nat) : Option Parked :=
  (s.part p).parked.reverse.find? (fun k => fld k.ctx.ports n 1 == 1)

/-- The parked context of a CID changes. -/
def setParked (p : Nat) (cid : BitVec 32) (f : Ctx → Ctx) (s : State) : State :=
  s.setPart p { s.part p with parked := (s.part p).parked.map (fun k => if k.ctx.cid == cid then { k with ctx := f k.ctx } else k) }

def voteStale (n : Nat) (s : State) : State := linkCount n 11 1 s

/-- A vote-up for the running context; one for an attempt whose own vote the device has sent is dropped without count (R385). -/
def voteUpAct (p n : Nat) (step attempt : Nat) (clean nan : Bool) (s : State) : State :=
  let x := s.ctx p
  let st := stepState s p
  let mine := (voteDowns s p).contains n && step == stepNumber s p && attempt == stepRetries s p
  if (voteDowns s p).contains n && x.sentVote == some (step, attempt) then s
  else if !mine || x.ups.any (fun u => u.1 == n) then voteStale n s
  else
    let t := s.setCtx p { x with ups := x.ups ++ [(n, clean, nan)] }
    if st = sRunning || st = sVoting then commitTry p (voteTry p t)
    else if st = sDiscarding && x.retry then t
    else voteStale n s

/-- A vote-down for the running context (R56, R385). -/
def voteDownAct (p n : Nat) (step attempt : Nat) (clean nan : Bool) (s : State) : State :=
  if !voteRoot s p && voteUpPort s p = n && stepState s p = sVoting && step = stepNumber s p && attempt = stepRetries s p
      && (s.ctx p).held.isNone then
    commitTry p (voteArrive p clean nan (sendDowns p step attempt clean nan s))
  else voteStale n s

/-- A held vote acts (R459). -/
def voteAct (p : Nat) (s : State) (v : HeldVote) : State :=
  if v.up then voteUpAct p v.port v.step.toNat v.attempt.toNat v.clean v.nan s
  else voteDownAct p v.port v.step.toNat v.attempt.toNat v.clean v.nan s

end Sys2Proof.Machine
end

