-- ==== Sys2Proof/Machine/Loads.lean ====
section
/-! DEFINITION. Loads and switches of jigs (05): filling slots, the loader's refusals, the fallback load, GO, re-runs
(R306–R308), and the restore of a save image. -/

namespace Sys2Proof.Machine

/-- Every sequencer that waits at a partition-wide instruction stops (R198); a SCAN.OUT that stopped issue waits no more. -/
def stopWaiting (p : Nat) (s : State) : State :=
  let s := s.setPart p { s.part p with frozen := false }
  mapCabs p (fun _ c => if c.seq.issue.isSome then { c with seq := { c.seq with wait := 5, issue := none } } else c) s

/-- A refusal (R198): LOAD_ERR, refused slots, sequencers at a partition-wide instruction stop; inside a step the partition
votes force-unclean; when that step has ended, the program only ends. A re-run that was to come of the present jig is given up
(log 80). -/
def refuse (p kind : Nat) (code : Code) (cab off : Nat) (inside : Bool) (s : State) : State :=
  let v := pack [(0, 8, code.toNat), (8, 16, cab), (24, 32, off)]
  let s := s.setReg (stepAddr s p oLoadErr) (BitVec.ofNat 64 v)
  let s := allCabs p (fun _ c => c.setSlot (fillSide kind c) { st := 3 }) s
  let s := s.setCtx p { s.ctx p with fill := none, load := none, refusal := some code, rerun := 0, marked := none }
  let s := stopWaiting p s
  if inside && inStep s p then
    let s := stepCause p scForced s
    commitTry p (s.setCtx p { s.ctx p with voteReq := true })
  else runEnd p s

/-! ### Retirement and remaps at a load (R346, R496) -/

/-- Cells whose physical place moves when the row map of a column, or the map of a row of cabinets, changes. -/
def movedBy (g h : Nat) (cab : Bool) : Bool :=
  if cab then h / 256 / 16 == g / 256 / 16 && g / 256 ≤ h / 256
  else h / 256 == g / 256 && h % 16 == g % 16 && g % 256 ≤ h % 256

/-- Words with errors among given addresses are copied: uncorrectable ones as zero, all with fresh ECC. -/
def freshWords (hit : Nat → Bool) (s : State) : State :=
  let bad := s.drErr.filter (fun e => hit e.1)
  let s := bad.foldl (fun s e => if e.2 = 2 then s.putBytes e.1 (zeros 8) else s) s
  { s with drErr := s.drErr.filter (fun e => !hit e.1) }

/-- The cell of a drawer-window address. -/
def windowCell (a : Nat) : Nat := (a - bDRAWER) / 0x4000

/-- Cells named while a row of cabinets retires column `c % 16`: those of the retired cabinet are named no more, those east
of it follow their physical cabinet (R82, R496). -/
def shiftPending (c : Nat) (gs : List Nat) : List Nat :=
  gs.filterMap (fun g =>
    if g / 256 / 16 ≠ c / 16 || g / 256 < c then some g else if g / 256 = c then none else some (g - 256))

/-- Cabinets of a row, as `shiftPending`. -/
def shiftCabs (c : Nat) (cs : List Nat) : List Nat :=
  cs.filterMap (fun d => if d / 16 ≠ c / 16 || d < c then some d else if d = c then none else some (d - 1))

/-- Dead cells of the column in which cell `g` retires: those below it follow their physical cell (R19, R81, R496). -/
def shiftDead (g : Nat) (hs : List Nat) : List Nat :=
  hs.filterMap (fun h => if h / 256 ≠ g / 256 || h % 16 ≠ g % 16 || h < g then some h else if h = g then none else some (h - 16))

/-- A pending cell retirement is applied. -/
def retireCellNow (s : State) (g : Nat) : State :=
  let phys := physCell s g
  let s := freshWords (fun a => movedBy g (windowCell a) false) s
  let s := setMapByte (rCellMap (g / 256) 0) (g % 16) (phys / 16) s
  let s : State := { s with integ := { s.integ with pendCell := s.integ.pendCell.filter (· != g), dead := shiftDead g s.integ.dead } }
  retired 0 (.cell g) phys (partOfCell s g) (storeRetired s)

/-- A pending cabinet retirement is applied. -/
def retireCabNow (s : State) (c : Nat) : State :=
  let phys := physCab s c
  let s := freshWords (fun a => movedBy (256 * c) (windowCell a) true) s
  let s := shiftCellMaps c (setMapByte (rCabMap (c / 256) 0) (c % 256 / 16) (phys % 17) s)
  let s : State := { s with integ := { s.integ with pendCab := s.integ.pendCab.filter (· != c), pendCell := shiftPending c s.integ.pendCell,
                                                     dead := shiftPending c s.integ.dead, deadCab := shiftCabs c s.integ.deadCab } }
  retired 1 (.cab c) phys (partOfCab s c) (storeRetired s)

/-- Pending remaps of a cabinet take effect. -/
def remapNow (c : Nat) (s : State) : State :=
  (remapEntries s (c / 256)).foldl (fun s e =>
    if fld e.2 30 1 = 1 && fld e.2 20 9 = physCab s c then
      let s := match (List.range 256).find? (fun n => physCell s (256 * c + n) == fld e.2 11 9) with
        | some n => freshWords (fun a => rowAddr (256 * c + n) (fld e.2 0 9) ≤ a && a < rowAddr (256 * c + n) (fld e.2 0 9) + 32) s
        | none => s
      let s := s.setReg (rRemapDir e.1) (setFld e.2 30 1 0)
      (s.setRf rRemapStatus 16 16 (s.rf rRemapStatus 16 16 - 1)).setRf rRemapStatus 32 16 (s.rf rRemapStatus 32 16 + 1)
    else s) s

/-- What waits for the load of cabinet `c` is applied (R211, R346, R496). -/
def applyPending (c : Nat) (s : State) : State :=
  if retirePend s c then
    let s := (s.integ.pendCab.filter (fun d => d / 16 == c / 16 && d ≤ c)).foldl retireCabNow s
    let s := (s.integ.pendCell.filter (fun g => g / 256 == c)).foldl retireCellNow s
    remapNow c s
  else s

/-- What waits for a load of the partition is applied. -/
def applyAll (p : Nat) (s : State) : State :=
  if (partCabs s p).any (retirePend s) then (partCabs s p).foldl (fun s c => applyPending c s) s else s

/-- A slot gives work to a unit that no spare can replace (R19). -/
def deadWork (s : State) (c : Nat) (x : Slot) : Bool :=
  !x.img.isEmpty && (s.integ.deadCab.contains c
    || (List.range 256).any (fun n => s.integ.dead.contains (256 * c + n) && !entryEmpty x.img n))

/-! ### The loader's checks (R196) -/

/-- Protocol level that an entry of the layer table finds on port `n`: that of the out port and of its ring's IN port
(R188, R371). -/
def entryLevel (s : State) (n : Nat) : Nat :=
  let lvl := fun m => if portUp s m then s.rf (rPortStatus m) 5 2 else 0
  if ringSizeOf s n = 0 then 0 else min (lvl n) (lvl (ringIn s n))

/-- The port is none of the running context's (R188, R447). -/
def portForeign (s : State) (p n : Nat) : Bool :=
  !holdsField s p (portField n) || fld (s.ctx p).ports n 1 != 1

/-- What an image is checked against; units count as dead as they will once the retirements that wait for the load are applied
(R19, R496). -/
def loadEnv (s : State) (p : Nat) (inside : Bool) : LoadEnv :=
  let t := applyAll p s
  { fields := partF s p, top := 512 - stackRows s p, inside := inside,
    routeOk := fun c n d => (chanTo s ((256 * partFirst s p + c) * 256 + n) d).isSome,
    portBad := fun n => portForeign s p n || (ringSizeOf s n != 0 && portForeign s p (ringIn s n)),
    level := entryLevel s,
    deadCell := fun c n => t.integ.dead.contains ((256 * partFirst s p + c) * 256 + n),
    deadCab := fun c => t.integ.deadCab.contains (256 * partFirst s p + c) }

/-- The jig-load right on a range; a gated plinth is noted (R413, R414). -/
def jigDenied (p a n : Nat) (s : State) : Option State :=
  match hbmDenied s (mPart s p) kJig a n with
  | none => none
  | some c => some (if c = eGated then setHostCause hcGated s else s)

/-- The image at an address with what stands against it (R196). -/
def readImage (p a : Nat) (inside : Bool) (s : State) : Option Breach × List Byte × State :=
  let err := fun code => some { row := 0, code := code, cab := noCab, off := 0 : Breach }
  if a % 4096 ≠ 0 then (err eAlign, [], s)
  else match jigDenied p a 64 s with
    | some t => (err eAccess, [], t)
    | none =>
      let size := max 64 (hSize (s.seen a 64))
      match jigDenied p a size s with
      | some t => (err eAccess, [], t)
      | none =>
        let r := hbmReadPlain (some p) a size s
        (imageBreach (loadEnv r.2 p inside) r.1, r.1, r.2)

/-! ### Configuring without end tokens (R211, R212) -/

/-- Cells of a cabinet that a slot's image or an earlier jig concerns. -/
def cellsToLoad (s : State) (c : Nat) (img : List Byte) : List Nat :=
  let old := (s.cells.filter (fun e => e.1 / 256 == c)).map (·.1)
  let new := if img.isEmpty then [] else ((List.range 256).filter (fun n => !entryEmpty img n)).map (· + 256 * c)
  old ++ new.filter (fun g => !old.contains g)

/-- A cell takes a configuration with no end token; `ahead` says whether its epoch runs ahead of JIG_STATUS. -/
def configureCell (g : Nat) (cfg : CellCfg) (ahead : Bool) (s : State) : State :=
  let c := s.cell g
  let b := { installBench cfg true c.bench with ahead := ahead, inQ := ⟨[], [], [], [], []⟩, outQ := ⟨[], [], [], [], []⟩ }
  let d := { installDrawer cfg c.dr with taken := ahead, endSent := ahead }
  let w : Switch := { route := cfg.route }
  initRows g cfg (s.setCell g { bench := b, sw := w, dr := d })

/-- Every cell of a cabinet takes the configuration of a slot; `inits` says whether its init records apply (R223). -/
def configureCab (c : Nat) (x : Slot) (ahead inits : Bool) (s : State) : State :=
  (cellsToLoad s c x.img).foldl (fun s g =>
    let cfg := slotCfg s x g
    configureCell g (if inits then cfg else { cfg with inits := [] }) ahead s) s

/-- The slots exchange roles and the new spare slot is empty. -/
def swapSlots (c : Cab) : Cab := { c.setSlot c.cur c.now.leave with cur := !c.cur }

/-- The sequencer caches are invalidated as their cabinet switches (R117). -/
def clearCaches (c : Cab) : Cab := { c with icache := [], dcache := [] }

/-- `JIG_STATUS` as the jig of an image starts, and the epoch that its cells take (R212, R228). -/
def jigStatus (p a : Nat) (go : Bool) (s : State) : State :=
  let v := s.stepReg p oJigStatus
  let n := pack [(0, 32, ofBytes (s.seen (a + 8) 4)), (32, 1, 1 - fld v 32 1), (33, 1, go.toNat), (40, 24, fld v 40 24 + 1)]
  fieldsTake p (s.setReg (stepAddr s p oJigStatus) (BitVec.ofNat 64 n))

/-- The segment of a slot's image. -/
def Seq.toSegment (q : Seq) (x : Slot) : Seq := { q with seg := x.addr + cabCtrlOff x.img, len := x.ctrlWords }

/-- What a load makes of a sequencer (R211–R213, R219, R308, R464). -/
def seqLoaded (s : State) (p kind c : Nat) (k : Cab) : Cab :=
  let q := k.seq
  let stop : Seq := { q with wait := 5, issue := none, due := true }
  if kind = fRun then Cab.settle { k with seq := { stop with x := [] } }
  else if kind = fRetry then
    { k with seq := { q with x := q.rX, pos := q.rPos, wait := if k.now.ctrlWords = 0 then 5 else 0, issue := none,
                             due := false }.toSegment k.now }
  else if kind = fDeadline then
    Cab.settle { k with seq := { stop with x := sset (sset q.x 0 (BitVec.ofNat 64 (s.ctx p).skipped)) 1 (s.reg (rPcycle p)) } }
  else if kind = fAgain then
    match (s.ctx p).goRec.bind (fun r => r.seqs.find? (fun e => e.1 == c)) with
    | some (_, pos, x) =>
      { k with seq := { q with x := x, pos := pos, wait := 0, issue := none, due := false }.toSegment k.now }
    | none => Cab.settle { k with seq := stop }
  else if kind = fScanIn || kind = fRestore then k
  else Cab.settle { k with seq := stop }

/-- The events, semaphores and stream positions recorded at the marked jig's GO (R308). -/
def restoreGo (p : Nat) (s : State) : State :=
  match (s.ctx p).goRec with
  | none => s
  | some r =>
    let s := s.setCtx p { s.ctx p with ev := r.ev, sem := r.sem, marked := none, rerun := 2, begun := true }
    r.reads.zipIdx.foldl (fun s x => s.setReg (rIstrRead p x.2) x.1) s

/-- What a save image's restore does once its jig is configured (R223). -/
def finishRestore (p a : Nat) (s : State) : State :=
  let r := scanRead p a (imageRead (partF s p) (scanRead p a 64 s).1 a) s
  let m := r.1
  let full : Bool := memNum m (a + 6) 1 = 1
  let go : Bool := bitsOf (memNum m (a + 32) 1) 0 1 = 1
  let s := scanIn p a m full go r.2
  let s := (s.setStepRf p oJigStatus 0 32 (memNum m (a + 8) 4)).setStepRf p oJigStatus 33 1 go.toNat
  let rec0 := cellAddr a full 0 0
  let s := fieldsTake p (s.setStepRf p oJigStatus 32 1 (xor (recEpoch m rec0) (full && recAhead m rec0)).toNat)
  let s := s.setCtx p { s.ctx p with begun := inStep s p }
  let s := s.setPart p { s.part p with swStart := none }
  let next := memNum m (a + 24) 8
  -- a cabinet that has switched to that image already has no slot to fill
  if next ≠ 0 then mapCabs p (fun _ k => if k.now.next then k.setSlot (!k.cur) {} else k) (startFill p fNext next s) else s

/-! ### What follows a load or a restore -/

/-- `CTX_SWITCH_TIME` at the GO or the resume of the incoming context (R457). -/
def ctxTime (p : Nat) (s : State) : State :=
  match (s.part p).ctxStart with
  | none => s
  | some t =>
    let n := min (s.clk.cclk - t) 0xFFFFFFFF
    let s := s.setPart p { s.part p with ctxStart := none }
    let a := rCtxSwitchTime p
    (s.setRf a 0 32 n).setRf a 32 32 (max n (s.rf a 32 32))

/-- The RUN attached to the running context starts in IDLE when no control program of it runs (R34, R69, R425, R450). -/
def runKick (p : Nat) (s : State) : State :=
  let x := s.ctx p
  match x.run with
  | some q =>
    if (s.part p).running && !(s.part p).halted && !testing s p && !x.prog && x.fill.isNone && x.load.isNone
        && stepState s p = sIdle then
      startFill p fRun q.image (s.setCtx p { x with prog := true, refusal := none, dlUsed := false, voteReq := false })
    else s
  | none => s

/-- A context resumes: a fill under way goes on, what waited for it acts (R450, R451, R459, R460), and a RUN that waits
starts. -/
def resumed (p : Nat) (go : Bool) (s : State) : State :=
  let x := s.ctx p
  let s := s.setCtx p { x with saved := none, votes := [], again := none }
  let s := match x.again with
    | some (kind, a, at_) => startFill p kind a (s.setCtx p { s.ctx p with scanAt := at_ })
    | none => s
  let s := (x.semQ.map (·.sem)).foldl (fun s i => semRun p i s) s
  let s := match x.resolve with
    | some b => stepResolve p b s
    | none => s
  let s := x.votes.foldl (voteAct p) (wakeWaits p (s.part p).slot s)
  runKick p (if go then ctxTime p s else s)

/-- The load (R212): pending retirements, the slots, every cell, the sequencers; behind it the restore of a save image. -/
def performLoad (p kind : Nat) (s : State) : State :=
  let s := flushCells p s
  let s := applyAll p s
  let s := if inPlace kind then s else allCabs p (fun _ c => swapSlots c) s
  let a := curImage s p
  let s := (partCabs s p).foldl (fun s c => configureCab c (s.cab c).now false (kind != fScanIn && kind != fRestore) s) s
  let s := if kind = fRestore then s else jigStatus p a false s
  let s := allCabs p (fun c k => clearCaches (seqLoaded s p kind c k)) s
  let x := s.ctx p
  let s := s.setCtx p { x with jig := a, load := none, begun := false,
                               skipped := if kind = fRestore then x.skipped else 0,
                               marked := if inPlace kind || kind = fRestore then x.marked else none,
                               semQ := if kind = fRestore then x.semQ else [], rerun := if kind = fRegen then 1 else if kind = fRestore then x.rerun else 0,
                               goRec := if inPlace kind || kind = fRestore then x.goRec else none }
  let y := s.part p
  let s := s.setPart p { y with check := BitVec.ofNat 3 (s.rf (rPartCtrl p) 0 3),
                                swStart := if kind = fScanIn || kind = fRestore then none else some s.clk.cclk }
  let s := if kind = fAgain then restoreGo p s else s
  if kind = fRestore then resumed p (goBit s p) (finishRestore p (s.ctx p).scanAt s)
  else runEnd p (if kind = fScanIn then finishRestore p (s.ctx p).scanAt s else s)

/-- A load that waits proceeds once the partition is quiet (R212), that of SCAN.IN too (log 15); that of JIG.LOAD not while a
marked jig has to run again (R308). An image that would put work on a unit that has become irreplaceable since its check is
refused (R19). -/
def tryLoad (p : Nat) (s : State) : State :=
  match (s.ctx p).load with
  | some kind =>
    if partQuiet s p && !stands s p && !(kind == fLoad && (s.ctx p).marked.isSome) then
      if (partCabs s p).any (fun c => deadWork (applyAll p s) c ((s.cab c).slotAt (fillSide kind (s.cab c)))) then
        refuse p kind eCapacity noCab 0 (s.ctx p).fillIn s
      else performLoad p kind s
    else s
  | none => s

/-! ### SLOT_FILL (R184, R196, R198) -/

/-- Cells that an image of JIG.NEXT gives something are listed, so that each of them changes over. -/
def listCells (p : Nat) (s : State) : State :=
  (partCabs s p).foldl (fun s c =>
    ((cellsToLoad s c (s.cab c).spare.img)).foldl (fun s g => s.setCell g (s.cell g)) s) s

/-- Cabinets of which no cell is listed exchange their slots at once, when the present jig has its GO: their drawers have no read
word and emit their end tokens as the slot is ready, which starts the time of the switch (R200, R228). -/
def idleExchange (p : Nat) (s : State) : State :=
  if goBit s p then
    (partCabs s p).foldl (fun s c =>
      if (s.cab c).nextReady && !(s.cab c).now.next && !cabHeld s p c && !(s.cells.any (fun e => e.1 / 256 == c)) then
        switchBegins p (s.setCab c (s.cab c).exchange)
      else s) s
  else s

/-- The slots hold the checked image. -/
def fillDone (p kind : Nat) (img : List Byte) (s : State) : State :=
  allCabs p (fun c k =>
    let x := k.slotAt (fillSide kind k)
    if x.st = 1 then k.setSlot (fillSide kind k) { x with st := 2, img := cabImage img (cabIndex s p c) } else k) s

/-- A JIG.LOAD of the image already in the spare slots waits in the sequencers. -/
def loadWaits (s : State) (p : Nat) : Bool :=
  (cabsOf s p).any (fun e => match e.2.seq.issue with
    | some i => cwOp i.word == cJIGLOAD && fld i.word 0 1 == 1
    | none => false)

/-- JIG.LOAD with IMM[0] 1 ends the old program and lets the switch run to its end (R215). -/
def loadNext (p : Nat) (s : State) : State :=
  if loadWaits s p then
    mapCabs p (fun _ c => if c.seq.issue.isSome then { c with seq := { c.seq with wait := 5, issue := none } } else c) s
  else s

/-- SLOT_FILL (R184, R196, R198): a fill ends and the loader checks the image; a fallback load follows when the partition is
quiet. -/
def execSlotFill (p : BitVec 4) (s : State) : Host.Outcome State Fault Refusal :=
  let p := p.toNat
  let x := s.ctx p
  if !partOn s p || stands s p then done s s
  else match x.fill with
    | none => done s (tryLoad p s)
    | some (kind, a) =>
      let r := readImage p a (x.fillIn) s
      match r.1 with
      | some b => done s (refuse p kind b.code b.cab b.off x.fillIn r.2.2)
      | none =>
        let t := fillDone p kind r.2.1 r.2.2
        let t := t.setCtx p { t.ctx p with fill := none }
        if kind = fNext then done s (idleExchange p (loadNext p (listCells p t)))
        else done s (tryLoad p (t.setCtx p { t.ctx p with load := some kind }))

/-! ### GO (R209, R210, R463–R465) -/

/-- The image's control segments hold STEP.BEGIN (R210), by the bytes in HBM. -/
def holdsBegin (s : State) (a : Nat) : Bool := imageHas (s.seen a (hSize (s.seen a 64))) cBEGIN

/-- Lowest present frequency of a partition's fields, in sixteenths of MHz, throttle included (R463). -/
def lowestClk (s : State) (p : Nat) : Nat :=
  let fs := (List.range (partF s p)).map (fun i =>
    let f := partFirst s p + i
    s.rf (rFclkStatus f) 0 12 * s.rf (rFclkStatus f) 12 5)
  fs.foldl min (fs.headD 0)

/-- The monitor projects a miss for the image at `a` (R463). -/
def projectedMiss (s : State) (p a : Nat) : Bool :=
  let h := s.seen a 64
  let est := if isV2 h then hEst h else 0
  let f := lowestClk s p
  let cycles := if f = 0 then 0 else (est * 16000 + f - 1) / f
  (s.stepReg p oDeadline).toNat < (s.reg (rPcycle p)).toNat + cycles + s.stepRf p oDlCtrl 32 32

def monitorOn (s : State) (p : Nat) : Bool := !testing s p && s.stepRf p oDlCtrl 0 1 == 1 && (s.stepReg p oFallback).toNat != 0

/-- The fallback takes the place of the jig about to start (R464). -/
def deadlineFallback (p a : Nat) (s : State) : State :=
  let s := setPartCause p pcDeadline ((s.setStepRf p oDlCtrl 0 1 0).setStepRf p oDlCtrl 1 1 0)
  let s := allCabs p (fun _ c => c.setSlot (!c.cur) {}) s
  startFill p fDeadline (s.stepReg p oFallback).toNat (s.setCtx p { s.ctx p with skipped := a, dlUsed := true })

/-- What the GO of a jig records for its re-run (R308). -/
def goRecord (s : State) (p : Nat) : GoRec :=
  let x := s.ctx p
  { seqs := (cabsOf s p).map (fun e => (e.1, e.2.seq.pos, e.2.seq.x)), ev := x.ev, sem := x.sem, jig := x.jig,
    reads := istrs.map (fun i => s.reg (rIstrRead p i)), frames := (cellsOf s p).map (fun e => (e.1, e.2.dr.frames)) }

/-- `SWITCH_TIME` (R228). -/
def switchTime (p : Nat) (s : State) : State :=
  match (s.part p).swStart with
  | none => s
  | some t =>
    let n := min (s.clk.cclk - t) 0xFFFFFFFF
    let s := s.setPart p { s.part p with swStart := none }
    (s.setStepRf p oSwitchTime 0 32 n).setStepRf p oSwitchTime 32 32 (max n (s.stepRf p oSwitchTime 32 32))

/-- GO is sent: the cells leave the change, STRM.START proceeds. -/
def sendGo (p : Nat) (switch : Bool) (s : State) : State :=
  let s := fclkRelock p s
  let a := curImage s p
  let s := if switch then jigStatus p a true s else s.setStepRf p oJigStatus 33 1 1
  let s := mapCells p (fun c => { c with bench := { c.bench with ahead := false, ords := [] },
                                         dr := { c.dr with taken := false, endSent := false } }) s
  let s := mapCabs p (fun _ c =>
    let n := c.now
    let c := c.setSlot c.cur { n with next := false }
    if c.seq.wait = 4 then { c with seq := { c.seq with wait := 0 } } else c) s
  let x := s.ctx p
  let s := s.setCtx p { x with jig := a, begun := false, rerun := if switch then 0 else x.rerun }
  let y := s.part p
  let s := s.setPart p { y with goCount := if stepState s p = sIdle && !testing s p then y.goCount + 1 else y.goCount }
  let s := if switch then s.setPart p { s.part p with check := BitVec.ofNat 3 (s.rf (rPartCtrl p) 0 3) } else s
  let s := if (s.ctx p).rerun = 0 then s.setCtx p { s.ctx p with goRec := some (goRecord s p) } else s
  idleExchange p (ctxTime p (switchTime p s))

/-- A SCAN.OUT of the boundary form has been issued (R220). -/
def scanWaits (s : State) (p : Nat) : Bool :=
  allAt s p [cSCANOUT] && (cabsOf s p).any (fun e => e.2.seq.issue.any (fun i => fld i.word 0 1 == 0))

/-- GO (R209, R210, R220, R463–R465): once every cell has installed and is quiet, the old streams are complete, a STEP.BEGIN of
the image has completed and no SCAN.OUT of the boundary form waits; the deadline monitor may put the fallback in its place,
and an image that it has not started gets no GO. -/
def execGo (p : BitVec 4) (s : State) : Host.Outcome State Fault Refusal :=
  let p := p.toNat
  let x := s.ctx p
  let switch := switching s p
  let a := curImage s p
  if !partOn s p || stands s p then done s s
  else if x.load.isSome then done s (tryLoad p s)
  else if (if switch then !allSwitched s p else goBit s p || (s.cab (firstCab s p)).now.st ≠ 2 || inPlaceFill x)
      || !(cellsOf s p).all (cellQuiet s) || listsRun s p || (holdsBegin s a && !x.begun) || scanWaits s p
      || (x.skipped = a && a ≠ 0) then done s s
  else if monitorOn s p && (projectedMiss s p a || s.stepRf p oDlCtrl 1 1 = 1) then
    if stepState s p ≠ sIdle then done s (sendGo p switch (s.setStepRf p oDlCtrl 1 1 1))
    else done s (deadlineFallback p a s)
  else done s (sendGo p switch s)
where inPlaceFill (x : Ctx) : Bool := match x.fill with
  | some (k, _) => inPlace k
  | none => false

/-- SEGMENT_START (R211): a stopped sequencer starts the new segment at word 0 once its cabinet has installed. -/
def execSegmentStart (c : CabId) (s : State) : Host.Outcome State Fault Refusal :=
  let n := c.toNat
  let k := s.cab n
  match partOfCab s n with
  | none => done s s
  | some p =>
    if k.seq.due && k.seq.wait = 5 && !stands s p && k.now.st = 2 then
      let q : Seq := { k.seq with pos := 0, wait := 0, issue := none, due := false, was := 0 < k.seq.len }
      let q := q.toSegment k.now
      done s (runEnd p (s.setCab n { k with seq := if q.len = 0 then { q with wait := 5 } else q }))
    else done s s

/-! ### CABINET_LOAD (R211) -/

/-- A cell has emitted its end tokens and is quiet but for the end token of its own drawer. A cell that took the new configuration
before the retirement became pending has. -/
def readyToLoad (s : State) (e : Nat × Cell) : Bool :=
  let b := e.2.bench
  let left := { b with outQ := { b.outQ with d := b.outQ.d.filter (fun t => t.kind != .fin) } }
  cellQuiet s (e.1, { e.2 with bench := left }) && (b.ahead || rowsReady e.1 b)
    && (e.2.dr.taken || (e.2.dr.endSent && writesDone e.2.dr))

/-- CABINET_LOAD (R211): a cabinet with a retirement pending, or of a marked jig, loads itself from its slot without end
tokens; a fallback load that waits proceeds. -/
def execCabinetLoad (c : CabId) (s : State) : Host.Outcome State Fault Refusal :=
  let n := c.toNat
  match partOfCab s n with
  | none => done s s
  | some p =>
    if (s.ctx p).load.isSome then done s (tryLoad p s)
    else if (s.cab n).nextReady && goBit s p && !stands s p && fieldRuns s (n / 256) && retirePend s n
        && (s.ctx p).marked.isNone && (s.ctx p).rerun ≠ 1
        && (s.cells.filter (fun e => e.1 / 256 == n)).all (readyToLoad s) then
      let t := (s.cells.filter (fun e => e.1 / 256 == n)).foldl (fun t e => flushCell e.1 t) s
      let t := applyPending n t
      if deadWork t n (t.cab n).spare then done s (refuse p fNext eCapacity noCab 0 (stepState s p != sIdle) s)
      else
        let t := configureCab n (t.cab n).spare true true t
        done s (t.setCab n (t.cab n).exchange)
    else done s s

/-! ### RE_RUN (R306–R308) -/

/-- Every taking-part sequencer has stopped or waits in STEP.VOTE. -/
def atVote (s : State) (p : Nat) : Bool :=
  (takingPart s p).all (fun e => e.2.seq.wait == 5 || e.2.seq.issue.any (fun i => cwOp i.word == cVOTE || cwOp i.word == cDISCARD))

/-- The frame of a marked jig as it stood at the jig's GO. -/
def truncateFrames (p : Nat) (r : GoRec) (s : State) : State :=
  { s with cells := s.cells.map (fun e =>
      if inPart s p (e.1 / 256) then
        let f := ((r.frames.find? (fun x => x.1 == e.1)).map (·.2)).getD 0
        (e.1, { e.2 with dr := { e.2.dr with stack := e.2.dr.stack.filter (fun x => x.frame ≤ f), frames := f, framed := false,
                                             popped := 0, popTail := [] } })
      else e) }

/-- The regenerating image of entry `n` of the table is filled. A read of the entry that the access tables deny refuses the
image with E_ACCESS (R308, R409, log 83). -/
def regenStart (p n : Nat) (r : GoRec) (s : State) : State :=
  let e := (s.stepReg p oRegenBase).toNat + 16 * (n - 1)
  let c := hbmDenied s (mPart s p) kRead e 16
  if c.isSome then refuse p fRegen eAccess noCab 0 (stepState s p != sIdle) (noteGated c s)
  else
    let v := hbmReadPlain (some p) e 16 s
    let t := v.2.setCtx p { v.2.ctx p with rerun := 1 }
    let t := mapCabs p (fun _ c => if c.spare.next then c else c.setSlot (!c.cur) c.spare.leave) t
    startFill p fRegen (leAt v.1 0 8) (noteSpill p (truncateFrames p r t))

/-- RE_RUN (R308): a marked jig that has run out, at its switch or at STEP.VOTE, gives way to its regenerating image; after
that image's STOP the marked jig is loaded again. Its JIG.LOAD comes again with its program: the image that one had filled is
dropped, an image of JIG.NEXT stays. -/
def execReRun (p : BitVec 4) (s : State) : Host.Outcome State Fault Refusal :=
  let p := p.toNat
  let x := s.ctx p
  if !partOn s p || stands s p || !partQuiet s p || !goBit s p || x.fill.isSome || (x.load.any (· != fLoad)) || switching s p then
    done s s
  else if x.rerun = 1 then
    match x.goRec with
    | some r => if (takingPart s p).all (fun e => e.2.seq.wait == 5) then done s (startFill p fAgain r.jig s) else done s s
    | none => done s s
  else match x.marked, x.goRec with
    | some n, some r =>
      if (cabsOf s p).any (fun e => e.2.nextReady) || atVote s p then
        done s (regenStart p n r s)
      else done s s
    | _, _ => done s s

end Sys2Proof.Machine
end

