-- ==== Sys2Proof/Machine/Sequencer.lean ====
section
/-! DEFINITION. The cabinet sequencers (05): control words through the instruction cache, loads and stores through the data
cache, streams, events, semaphores, and the partition-wide instructions with the step they drive (02). -/

namespace Sys2Proof.Machine

/-! ### Fetch and faults (R117, R214, R218) -/

/-- A line of HBM through the narrow path (R117, R310). -/
def lineFill (p a : Nat) (s : State) : CLine × State :=
  let r := narrows (some p) (a / 64 * 64) 2 s
  ({ addr := a / 64 * 64, data := r.1 }, r.2)

/-- Both sectors of the line of an address can be served for the sequencer of cabinet `c` (R312). -/
def lineReady (s : State) (c a : Nat) : Bool := narrowReady s (reqSeq c) (a / 64 * 64) 2
/-- Its requests wait for slots; their slots are free again. -/
def lineJoin (c a : Nat) (s : State) : State := narrowJoin (reqSeq c) (a / 64 * 64) 2 s
def lineDone (c a : Nat) (s : State) : State := narrowFree (reqSeq c) (a / 64 * 64) 2 s

/-- The present control word through the instruction cache: its line is filled on a miss (R117). -/
def seqFetch (p c : Nat) (s : State) : Word × State :=
  let a := seqAddr (s.cab c)
  let r := match cacheLine (s.cab c).icache icSets a with
    | some l => (l, s)
    | none => let x := lineFill p a s; (x.1, lineDone c a x.2)
  let k := r.2.cab c
  (BitVec.ofNat 64 (leAt r.1.data (a % 64) 8), r.2.setCab c { k with icache := cacheUse k.icache icSets r.1 })

/-- The sequencer of a cabinet of a partition whose context runs, and which is not halted. -/
def seqPart (s : State) (c : Nat) : Option Nat :=
  match partOfCab s c with
  | some p => if holdsFabric s p (s.part p).slot then some p else none
  | none => none

/-- The sequencer stands inside its segment, at a word of an opcode, and runs or waits in it. -/
def seqAt (s : State) (c op : Nat) (waits : List Nat) : Bool :=
  let q := (s.cab c).seq
  waits.contains q.wait && q.pos < q.len && cwOp (seqPeek s c) == op

/-- The sequencer waits, as `SEQ_STATUS.WAIT` says (R227). -/
def seqWait (c w : Nat) (s : State) : State := putSeq c { (s.cab c).seq with wait := w } s

def setX (c i : Nat) (v : Word) (s : State) : State :=
  let q := (s.cab c).seq
  putSeq c { q with x := sset q.x i v } s

/-- A sequencer fault at a word of opcode `op` (R218, R490): cause, report, halt. -/
def seqFaultOp (op p c cause : Nat) (s : State) : State :=
  let d := pack [(0, 11, (s.cab c).seq.pos), (12, 4, cause)]
  let s := halt p (report { kind := 0x14, unit := .cab c, part := some p, clock := 1, opcode := op, detail := d } []
    (setCabCause c ccSeq s))
  if testing s p then putSeq c { (s.cab c).seq with wait := 5, issue := none } s else s

/-- A sequencer fault at the present word (R218). -/
def seqFault (p c cause : Nat) (s : State) : State :=
  seqFaultOp (if (s.cab c).seq.pos < (s.cab c).seq.len then cwOp (seqPeek s c) else 0) p c cause s

/-- The present word is in the instruction cache. -/
def fetchHit (s : State) (c : Nat) : Bool := (cacheLine (s.cab c).icache icSets (seqAddr (s.cab c))).isSome

/-- The present word is fetched, then executed. A fetch the access tables deny is a sequencer fault of cause 4 (R409, log 59);
a miss waits for the request slots of the narrow path (R312). -/
def fetchThen (p c : Nat) (f : Word → State → State) (s : State) : State :=
  let a := seqAddr (s.cab c)
  let d := hbmDenied s (mPart s p) kJig a 8
  if !fetchHit s c && d.isSome then seqFaultOp 0 p c 4 (noteGated d s)
  else if !fetchHit s c && !lineReady s c a then lineJoin c a s
  else
    let r := seqFetch p c s
    f r.1 r.2

/-- The word a sequencer executes: nothing happens where it does not stand at that opcode (log 3). -/
def seqExec (c op : Nat) (waits : List Nat) (f : Nat → Word → State → State) (s : State) : State :=
  match seqPart s c with
  | some p => if seqAt s c op waits then fetchThen p c (f p) s else s
  | none => s

/-- IMM sign-extended (R215). -/
def immSigned (w : Word) : Word := BitVec.ofInt 64 (toSigned (fld w 0 48) 48)

/-! ### Cabinet instructions (R215) -/

/-- NOP. -/
def execNop (c : CabId) (s : State) : Host.Outcome State Fault Refusal :=
  done s (seqExec c.toNat cNOP [0] (fun _ _ s => seqNext c.toNat s) s)

/-- LDI: x[XA] becomes IMM, zero-extended. -/
def execLdi (c : CabId) (s : State) : Host.Outcome State Fault Refusal :=
  done s (seqExec c.toNat cLDI [0] (fun _ w s =>
    seqNext c.toNat (setX c.toNat (cwXa w) (BitVec.ofNat 64 (fld w 0 48)) s)) s)

/-- ADDX: x[XA] becomes x[XB] + IMM, sign-extended, modulo 2^64. -/
def execAddx (c : CabId) (s : State) : Host.Outcome State Fault Refusal :=
  done s (seqExec c.toNat cADDX [0] (fun p w s =>
    seqNext c.toNat (setX c.toNat (cwXa w) (xReg s p c.toNat (cwXb w) + immSigned w) s)) s)

/-- Address of LDX and STX. -/
def seqMemAddr (s : State) (p c : Nat) (w : Word) : Nat := (xReg s p c (cwXb w) + immSigned w).toNat

/-- The 64-bit word at an address through the data cache (R117). -/
def dataRead (p c a : Nat) (s : State) : Word × State :=
  let r := match cacheLine (s.cab c).dcache dcSets a with
    | some l => (l, s)
    | none => let x := lineFill p a s; (x.1, lineDone c a x.2)
  let k := r.2.cab c
  (BitVec.ofNat 64 (leAt r.1.data (a % 64) 8), r.2.setCab c { k with dcache := cacheUse k.dcache dcSets r.1 })

/-- An access of a sequencer that R218 (4) faults: misaligned, or denied. -/
def seqDenied (s : State) (p kind a n : Nat) : Bool := a % 8 != 0 || (hbmDenied s (mPart s p) kind a n).isSome

/-- The fault of R218 (4); a gated plinth is noted (R414). -/
def seqMemFault (p c kind a n : Nat) (s : State) : State := seqFault p c 4 (noteGated (hbmDenied s (mPart s p) kind a n) s)

/-- LDX: a miss waits for the request slots of the narrow path (R227, R312). -/
def execLdx (c : CabId) (s : State) : Host.Outcome State Fault Refusal :=
  let n := c.toNat
  done s (seqExec n cLDX [0, 7] (fun p w s =>
    let a := seqMemAddr s p n w
    if seqDenied s p kRead a 8 then seqMemFault p n kRead a 8 s
    else if (cacheLine (s.cab n).dcache dcSets a).isNone && !lineReady s n a then seqWait n 7 (lineJoin n a s)
    else
      let r := dataRead p n a s
      seqNext n (setX n (cwXa w) r.1 r.2)) s)

/-- Bytes of a line replaced. -/
def CLine.put (l : CLine) (off : Nat) (bs : List Byte) : CLine :=
  { l with data := l.data.take off ++ bs ++ l.data.drop (off + bs.length) }

/-- A store writes HBM and updates the line where it is present; a miss allocates none (R117). -/
def dataWrite (p c a : Nat) (v : Word) (s : State) : State :=
  let bs := leBytes 8 v.toNat
  let s := hbmWrite (some p) a bs s
  let k := s.cab c
  match cacheLine k.dcache dcSets a with
  | some l => s.setCab c { k with dcache := cacheUse k.dcache dcSets (l.put (a % 64) bs) }
  | none => s

/-- STX; the store of a field test changes nothing it has to leave alone (R500). -/
def execStx (c : CabId) (s : State) : Host.Outcome State Fault Refusal :=
  let n := c.toNat
  done s (seqExec n cSTX [0] (fun p w s =>
    let a := seqMemAddr s p n w
    if seqDenied s p kWrite a 8 then seqMemFault p n kWrite a 8 s
    else if testHolds s p a 8 then seqNext n s
    else seqNext n (dataWrite p n a (xReg s p n (cwXa w)) s)) s)

/-- The condition of BR on the value of x[XA]. -/
def branchTaken (cond : Nat) (v : Word) : Bool :=
  if cond = 0 then true
  else if cond = 1 then v == 0
  else if cond = 2 || cond = 5 then v != 0
  else if cond = 3 then v.toInt < 0
  else 0 ≤ v.toInt

/-- BR: COND 5 counts x[XA] down first; a target outside the segment is a fault (R218). -/
def branch (p c : Nat) (w : Word) (s : State) : State :=
  let cond := fld w 45 3
  let s := if cond = 5 then setX c (cwXa w) (xReg s p c (cwXa w) - 1) s else s
  if branchTaken cond (xReg s p c (cwXa w)) then
    let q := (s.cab c).seq
    let t : Int := q.pos + toSigned (fld w 0 32) 32
    if t < 0 || (q.len : Int) ≤ t then seqFault p c 3 s else putSeq c { q with pos := t.toNat } s
  else seqNext c s

def execBr (c : CabId) (s : State) : Host.Outcome State Fault Refusal :=
  done s (seqExec c.toNat cBR [0] (fun p w s => branch p c.toNat w s) s)

/-- WAIT: the sequencer goes on once the event has reached x[XA][31:0]. -/
def execWait (c : CabId) (s : State) : Host.Outcome State Fault Refusal :=
  let n := c.toNat
  done s (seqExec n cWAIT [0, 2] (fun p w s => if waitMet s p n w then seqNext n s else seqWait n 2 s) s)

/-- SIGNAL adds to an event of the context; sequencers that wait for it go on (R215, R216). -/
def execSignal (c : CabId) (s : State) : Host.Outcome State Fault Refusal :=
  done s (seqExec c.toNat cSIGNAL [0] (fun p w s =>
    addEvent p (s.part p).slot (fld w 0 8) (fld w 8 32) (seqNext c.toNat s)) s)

/-! ### Streams (R315, R323) -/

/-- The jig of the program that a sequencer executes has received GO: a program whose cabinet has switched under it
belongs to the jig before (R211, R215). -/
def goSent (s : State) (p : Nat) (k : Cab) : Bool := if k.seq.due then true else if k.now.next then false else goBit s p

/-- STRM.START of a list at `a` on engine `e`. -/
def streamStart (p c e a : Nat) (s : State) : State :=
  let x := s.edge e
  let sl := (s.part p).slot
  let bad : Active := { list := a, lid := x.nextId, home := e, idx := 0, part := p, slot := sl, istr := none }
  if !goSent s p (s.cab c) then seqWait c 4 s
  else if 16 ≤ x.lists.length then seqWait c 0 s
  else match hbmDenied s (mPart s p) kRead a 64 with
    | some d => listFault e 0x23 bad a (noteGated (some d) s)
    | none =>
      let r := hbmReadPlain (some p) a 64 s
      match listHeader a r.1 with
      | none => listFault e 0x22 bad a r.2
      | some h => seqNext c (r.2.setEdge e ((r.2.edge e).append a p sl h.1 h.2))
where
  /-- A list header that is illegal or denied is reported at its own address (log 21). -/
  listFault (e kind : Nat) (bad : Active) (a : Nat) (s : State) : State :=
    let s := s.orReg (rEeCause e) (if kind = 0x22 then 1 else 2)
    halt bad.part (report { kind := kind, unit := .engine (e / 32) (e % 32), part := some bad.part, clock := 3,
                            detail := a } [] s)

/-- STRM.START: appends a block list to the queue of an engine after GO of the present jig (R215, R315). -/
def execStrmStart (c : CabId) (s : State) : Host.Outcome State Fault Refusal :=
  done s (seqExec c.toNat cSTRM [0, 4] (fun p w s =>
    streamStart p c.toNat (fld w 8 3 * 32 + fld w 0 5) (xReg s p c.toNat (cwXa w)).toNat s) s)

/-! ### Semaphores (R216) -/

/-- SEM.P: takes its count when no other waits and the value covers it, or joins the queue. -/
def semTake (p c i n : Nat) (s : State) : State :=
  let x := s.ctx p
  if x.semQ.any (fun w => w.sem == i && w.cab == c) then semRun p i s
  else if !x.semQ.any (fun w => w.sem == i) && n ≤ semValue s p i then seqNext c (setSem p i (semValue s p i - n) s)
  else seqWait c 3 (s.setCtx p { x with semQ := x.semQ ++ [{ cab := c, sem := i, count := n }] })

def execSemP (c : CabId) (s : State) : Host.Outcome State Fault Refusal :=
  done s (seqExec c.toNat cSEMP [0, 3] (fun p w s => semTake p c.toNat (fld w 0 6) (fld w 8 32) s) s)

/-- SEM.V: adds to the semaphore; an overflow is a sequencer fault and leaves it unchanged. -/
def execSemV (c : CabId) (s : State) : Host.Outcome State Fault Refusal :=
  let n := c.toNat
  done s (seqExec n cSEMV [0] (fun p w s =>
    let i := fld w 0 6
    let v := semValue s p i + fld w 8 32
    if 0xFFFFFFFF < v then seqFault p n 8 s else semRun p i (seqNext n (setSem p i v s))) s)

/-! ### Partition-wide instructions (R217, R218) -/

/-- The cabinet waits at a partition-wide instruction of that jig. -/
def waiting (s : State) (p : Nat) (old : Bool) (k : Cab) : Bool := behind s p k == old && k.seq.issue.isSome

/-- The cabinet has executed STOP for that jig. -/
def gone (s : State) (p : Nat) (old : Bool) (k : Cab) : Bool := if behind s p k == old then k.seq.wait == 5 else old

/-- Every cabinet that takes part has issued its instruction. -/
def allIssued (s : State) (p : Nat) (old : Bool) : Bool := (takers s p old).all (fun e => waiting s p old e.2)

/-- Sequencers that wait at a partition-wide instruction of a jig go on, or stop. -/
def passSide (p : Nat) (old : Bool) (s : State) : State :=
  mapCabs p (fun _ k => if waiting s p old k then k.stepOn else k) s
def stopSide (p : Nat) (old : Bool) (s : State) : State :=
  mapCabs p (fun _ k =>
    if waiting s p old k then Cab.settle { k with seq := { k.seq with wait := 5, issue := none } } else k) s

/-- Two issues of one partition-wide instruction differ (R217). -/
def mismatch (i j : Issue) : Bool :=
  cwOp i.word != cwOp j.word || fld i.word 0 48 != fld j.word 0 48 || i.xa != j.xa || i.xb != j.xb

/-- What a cabinet issues. -/
def issueOf (s : State) (p c : Nat) (w : Word) : Issue :=
  { word := w, xa := if cwUsesXa w then xReg s p c (cwXa w) else 0, xb := if cwUsesXb w then xReg s p c (cwXb w) else 0 }

/-- A cabinet arrives at a partition-wide instruction (R198, R217, R218): the answer says whether it waits there now. -/
def arrive (p c : Nat) (w : Word) (s : State) : Bool × State :=
  let k := s.cab c
  let old := behind s p k
  let i := issueOf s p c w
  if (s.ctx p).refusal.isSome then (false, commitTry p (runEnd p (seqWait c 5 s)))
  else if (takers s p old).any (fun e => e.1 != c && gone s p old e.2) then (false, seqFault p c 2 s)
  else if (takers s p old).any (fun e => waiting s p old e.2 && e.2.seq.issue.any (mismatch i)) then (false, seqFault p c 1 s)
  else (true, putSeq c { k.seq with wait := 1, issue := some i } s)

/-- A partition-wide instruction: the cabinet arrives, and what the instruction does once all have issued it. `again` says
that the cabinet had arrived before. -/
def wide (c op : Nat) (f : Nat → Issue → Bool → Bool → State → State) (s : State) : State :=
  seqExec c op [0, 1] (fun p w s =>
    let again := (s.cab c).seq.issue.isSome
    let r := if again then (true, s) else arrive p c w s
    let old := behind r.2 p (r.2.cab c)
    match r.1, (r.2.cab c).seq.issue with
    | true, some i => if allIssued r.2 p old then f p i old again r.2 else r.2
    | _, _ => r.2) s

/-- A sequencer stops (R215, R218). -/
def stopNow (p c : Nat) (s : State) : State :=
  let old := behind s p (s.cab c)
  if (takers s p old).any (fun e => e.1 != c && waiting s p old e.2) then seqFault p c 2 s
  else commitTry p (runEnd p (s.setCab c (Cab.settle { s.cab c with seq := { (s.cab c).seq with wait := 5 } })))

/-- STOP, and running past the last word (R215, R218). -/
def execStop (c : CabId) (s : State) : Host.Outcome State Fault Refusal :=
  let n := c.toNat
  match seqPart s n with
  | none => done s s
  | some p =>
    let k := s.cab n
    if k.seq.wait = 0 && k.seq.len ≤ k.seq.pos then done s (stopNow p n s)
    else if k.seq.wait = 0 && cwOp (seqPeek s n) = cSTOP then done s (fetchThen p n (fun _ s => stopNow p n s) s)
    else done s s

/-- BAR. -/
def execBar (c : CabId) (s : State) : Host.Outcome State Fault Refusal :=
  done s (wide c.toNat cBAR (fun p _ old _ s => passSide p old s) s)

/-- The spare slot is empty or refused (R198). -/
def Slot.free (x : Slot) : Bool := x.st == 0 || x.st == 3

/-- The slot that holds the image a program has made ready: the spare one, or the present one when the cabinet has switched
under the program. -/
def Cab.readied (k : Cab) : Slot := if k.seq.due then k.now else k.spare

/-- JIG.NEXT (R184, R215, R218): the fill starts, and the sequencers go on. -/
def execJigNext (c : CabId) (s : State) : Host.Outcome State Fault Refusal :=
  done s (wide c.toNat cJIGNEXT (fun p i old _ s =>
    if (partCabs s p).all (fun d => (s.cab d).spare.free) then startFill p fNext i.xa.toNat (passSide p old s)
    else seqFault p c.toNat 5 s) s)

/-- JIG.LOAD with IMM[0] 1 (R215): it waits for a fill; the switch of JIG.NEXT runs to its end. -/
def jigTake (p c : Nat) (old : Bool) (s : State) : State :=
  let xs := (takers s p old).map (fun e => e.2.readied)
  if xs.any Slot.free then seqFault p c 5 s
  else if xs.any (fun x => x.st == 1) then s
  else if xs.any (fun x => x.next) || old then stopSide p old s
  else
    let s := stopSide p old s
    tryLoad p (s.setCtx p { s.ctx p with load := some fLoad })

/-- JIG.LOAD (R212, R215, R218). -/
def execJigLoad (c : CabId) (s : State) : Host.Outcome State Fault Refusal :=
  done s (wide c.toNat cJIGLOAD (fun p i old _ s =>
    if fld i.word 0 1 = 1 then jigTake p c.toNat old s
    else if (partCabs s p).all (fun d => (s.cab d).spare.free) then stopSide p old (startFill p fLoad i.xa.toNat s)
    else seqFault p c.toNat 5 s) s)

/-! ### The step (R30, R51–R61, R219) -/

/-- A STEP.BEGIN may start a step: in IDLE, or the retry's in DISCARDING (R219). -/
def beginLegal (s : State) (p : Nat) : Bool :=
  stepState s p == sIdle || (stepState s p == sDiscarding && (s.ctx p).retry)

/-- The ring that started the program holds 16 completions (R429). -/
def ringFull (s : State) (p : Nat) : Bool := (s.ctx p).run.any (fun r => 16 ≤ (s.ring r.ring).held.length)

/-- STEP.BEGIN performed: the address of the present image is recorded; votes held for the attempt may go up. -/
def beginNow (p : Nat) (old : Bool) (mask : Nat) (s : State) : State :=
  let img := if old then (s.ctx p).jig else curImage s p
  let go := old || goBit s p && !switching s p
  let s := stepBegin p mask s
  let s := s.setCtx p { s.ctx p with rJig := img, begun := (s.ctx p).begun || !go }
  voteTry p (passSide p old s)

/-- STEP.BEGIN (R30, R219, R429). -/
def execStepBegin (c : CabId) (s : State) : Host.Outcome State Fault Refusal :=
  done s (wide c.toNat cBEGIN (fun p i old _ s =>
    if !beginLegal s p then seqFault p c.toNat 6 s
    else if ringFull s p then s
    else beginNow p old (fld i.word 16 16) s) s)

/-- STEP.COMMIT (R56, R219). -/
def execStepCommit (c : CabId) (s : State) : Host.Outcome State Fault Refusal :=
  done s (wide c.toNat cCOMMIT (fun p _ _ again s =>
    if !again && stepState s p ≠ sVoting then seqFault p c.toNat 6 s else commitTry p s) s)

/-- The reductions and gathers that the running context has started are complete on this device (R51). -/
def linksDone (s : State) (p : Nat) : Bool :=
  s.links.all (fun l => !l.2.entries.any (fun e => e.part == p && e.slot == (s.part p).slot && entryOpen s e))

/-- The captures of the attempt have been compared (R51, R479). -/
def capturesDone (s : State) (p : Nat) : Bool :=
  (cellsOf s p).all (fun e => e.2.bench.cap0.isNone && e.2.bench.cap1.isNone)

/-- The waits of R51 have ended. A jig marked for its re-run has still to run again (R308). -/
def voteReady (s : State) (p : Nat) : Bool :=
  linksDone s p && partQuiet s p && capturesDone s p && (s.ctx p).marked.isNone && (s.ctx p).rerun != 1

/-- The local flags after the checks and flushes at the vote (R46, R52, R53, R57, R260). -/
def sendFlags (p : Nat) (s : State) : State :=
  let s := if stackHeld s p then stepCause p scStack s else s
  let s := drainFlushes p (flushCells p s)
  let x := s.ctx p
  let own := (cleanFlag x, nanFlag x)
  let s := s.setCtx p { x with own := some own }
  let s := s.setStepRf p oVoteWait 0 48 0
  let s := setStepState p sVoting s
  let s := match x.held with
    | some (false, _) => if own.1 then stepCause p scPeer s else s
    | _ => s
  commitTry p (voteTry p (passIssued p [cVOTE] s))

/-- The vote of a RUNNING step, once every sequencer waits for it and the waits of R51 have ended. -/
def voteSend (p : Nat) (s : State) : State :=
  if stepState s p = sRunning && allAt s p [cVOTE, cDISCARD] && voteReady s p then sendFlags p s else s

/-- STEP.VOTE (R51, R55, R219): the vote waits for R51; SEND_LOCAL_FLAGS, or the command given again, lets the sequencers go
on (log 3). -/
def execStepVote (c : CabId) (s : State) : Host.Outcome State Fault Refusal :=
  done s (wide c.toNat cVOTE (fun p i _ again s =>
    if again then voteSend p s
    else if stepState s p ≠ sRunning then seqFault p c.toNat 6 s
    else if fld i.word 0 1 = 1 then stepCause p scForced s else s) s)

/-- STEP.DISCARD (R219): STEP.VOTE with force-unclean, then STEP.COMMIT. -/
def execStepDiscard (c : CabId) (s : State) : Host.Outcome State Fault Refusal :=
  done s (wide c.toNat cDISCARD (fun p _ _ again s =>
    if again then (if stepState s p = sRunning then voteSend p s else commitTry p s)
    else if stepState s p ≠ sRunning then seqFault p c.toNat 6 s else stepCause p scForced s) s)

/-- SEND_LOCAL_FLAGS (R46, R51–R53, R198, R260): once every sequencer waits in STEP.VOTE or STEP.DISCARD, or all have
stopped after a refusal inside the step, the refusal of a retry's image among them, and the waits of R51 have ended, the device
sends its flags. -/
def execSendLocalFlags (p : BitVec 4) (s : State) : Host.Outcome State Fault Refusal :=
  let p := p.toNat
  let stopped := (s.ctx p).voteReq && (takingPart s p).all (fun e => e.2.seq.wait == 5)
  let again := stepState s p = sDiscarding && (s.ctx p).retry && (s.ctx p).voteReq
  if partOn s p && holdsFabric s p (s.part p).slot && (stepState s p = sRunning || again)
      && (stopped || allAt s p [cVOTE, cDISCARD]) && voteReady s p then done s (sendFlags p s)
  else done s s

/-- RANGE_FLUSH (R260, R270): the first flush under way reaches the tensor table. -/
def execRangeFlush (p : BitVec 4) (s : State) : Host.Outcome State Fault Refusal :=
  let p := p.toNat
  match (s.part p).flushes with
  | [] => done s s
  | f :: fs => done s (applyFlush p f (s.setPart p { s.part p with flushes := fs }))

/-! ### Votes on the wire (R56, R385, R459) -/

/-- A vote flit arrives: it acts, or waits for a context that is out or in its restore (R459). -/
def voteTake (v : HeldVote) (s : State) : State :=
  match partOfPort s v.port with
  | none => voteStale v.port s
  | some p =>
    match (List.range 8).find? (fun sl => (s.ctxAt p sl).alive && fld (s.ctxAt p sl).ports v.port 1 == 1) with
    | none =>
      match portParked s p v.port with
      | some k => if k.ctx.saved.isSome then setParked p k.ctx.cid (fun x => { x with votes := x.votes ++ [v] }) s else voteStale v.port s
      | none => voteStale v.port s
    | some sl =>
      let x := s.ctxAt p sl
      if (s.part p).running && (s.part p).slot = sl && x.saved.isNone then voteAct p s v
      else if x.saved.isSome then s.setCtxAt p sl { x with votes := x.votes ++ [v] }
      else voteStale v.port s

/-- VOTE_UP (R385, R459). -/
def execVoteUp (f : FlitAt) (step : BitVec 32) (attempt : BitVec 2) (clean nan : Bool) (s : State) :
    Host.Outcome State Fault Refusal :=
  done s (controlFlit f.port.toNat f.hdr
    (voteTake { up := true, port := f.port.toNat, step := step, attempt := attempt, clean := clean, nan := nan }) s)

/-- VOTE_DOWN (R56, R385, R459). -/
def execVoteDown (f : FlitAt) (step : BitVec 32) (attempt : BitVec 2) (clean nan : Bool) (s : State) :
    Host.Outcome State Fault Refusal :=
  done s (controlFlit f.port.toNat f.hdr
    (voteTake { up := false, port := f.port.toNat, step := step, attempt := attempt, clean := clean, nan := nan }) s)

/-! ### Coefficients, save images, explicit reductions (R215, R220, R223, R382) -/

/-- Rows of FP32 values into a coefficient table from row `r` on. -/
def putCoef (r : Nat) (bs : List Byte) (t : Sparse (BitVec 32)) : Sparse (BitVec 32) :=
  (List.range (bs.length / 4)).foldl (fun t i => sset t (16 * r + i) (BitVec.ofNat 32 (leAt bs (4 * i) 4))) t

/-- COEF.LOAD (R215, R218): rows go into the coefficient table of every cabinet; a denied read changes no row. -/
def execCoefLoad (c : CabId) (s : State) : Host.Outcome State Fault Refusal :=
  done s (wide c.toNat cCOEF (fun p i old _ s =>
    let a := i.xa.toNat
    let n := 64 * (fld i.word 8 8 + 1)
    if stepState s p ≠ sIdle then seqFault p c.toNat 7 s
    else if seqDenied s p kRead a n then seqMemFault p c.toNat kRead a n s
    else
      let r := hbmReadPlain (some p) a n s
      passSide p old (allCabs p (fun _ k => { k with coef := putCoef (fld i.word 0 8) r.1 k.coef }) r.2)) s)

/-- No dowel operation of the partition is outstanding (R220): no granted write waits for its data. A request without all its
grants waits on; a remote read has its rows at once. -/
def dowelIdle (s : State) (p : Nat) : Bool :=
  !s.dowel.any (fun k => inPart s p (k.writer / 256) && (k.arrived || k.granted.length == k.targets.length))

/-- Every flit of the context's ports has been acknowledged (R388). -/
def flitsAcked (s : State) (p : Nat) : Bool := (portsOf (s.ctx p).ports.toNat).all (fun n => (s.link n).unacked.isEmpty)

/-- Issue stops, or goes on (R220). -/
def setFrozen (p : Nat) (b : Bool) (s : State) : State := s.setPart p { s.part p with frozen := b }

/-- Issue goes on, and the ports of the context send again what waited (R220, R388). -/
def thaw (p : Nat) (s : State) : State :=
  (portsOf (s.ctx p).ports.toNat).foldl (fun s n => pump n s) (setFrozen p false s)

/-- SCAN.OUT (R220–R222, R388, R448): form 0 waits for a boundary; form 1 stops issue and waits for the dowel operations under
way and the acknowledgements of the ports. -/
def execScanOut (c : CabId) (s : State) : Host.Outcome State Fault Refusal :=
  done s (wide c.toNat cSCANOUT (fun p i old _ s =>
    let full := fld i.word 0 1 = 1
    if !full && !partQuiet s p then s
    else if full && !(dowelIdle s p && flitsAcked s p) then setFrozen p true s
    else
    if (hbmDenied s (mPart s p) kWrite i.xa.toNat (scanBytes s p full)).isSome then
      ctxDeny p kWrite i.xa.toNat (scanBytes s p full) (setFrozen p false s)
    else thaw p (passSide p old (scanOut p i.xa.toNat full true s))) s)

/-- The image at JIG_ADDR of a save image, with what R223 checks; a refusal acts as R198 lays down. -/
def scanInStart (p kind a : Nat) (s : State) : State :=
  let h := scanRead p a 64 s
  let n := imageRead (partF s p) h.1 a
  let jig := memNum h.1 (a + 16) 8
  let jid := ofBytes (h.2.seen (jig + 8) 4)
  match scanBad h.1 a (partF s p) jid with
  | some (code, off) => refuse p kind code noCab off (stepState s p != sIdle) h.2
  | none =>
    if (hbmDenied h.2 (mPart s p) kRead a n).isSome then ctxDeny p kRead a n h.2
    else startFill p kind jig (h.2.setCtx p { h.2.ctx p with scanAt := a })

/-- SCAN.IN (R223): the sequencers wait until the restore sets their positions. -/
def execScanIn (c : CabId) (s : State) : Host.Outcome State Fault Refusal :=
  done s (wide c.toNat cSCANIN (fun p i _ again s =>
    if again then s
    else if (hbmDenied s (mPart s p) kRead i.xa.toNat 64).isSome then ctxDeny p kRead i.xa.toNat 64 s
    else scanInStart p fScanIn i.xa.toNat s) s)

/-- The blocks of a part read from SRC (R382). -/
def srcBlocks (e : Entry) (bs : List Byte) : List (List (BitVec 32)) :=
  (chunks (blockBytes e.dtype) e.blocks bs).map (bytesBlock e.dtype)

/-- The explicit reduction of an entry starts on port `n`: its part is read from SRC (R382). -/
def redPort (p i : Nat) (le : List Byte) (s : State) (n : Nat) : State :=
  if (s.part p).halted then s
  else
    let e := newEntry p (s.part p).slot n i le
    let a := e.src + e.first * blockBytes e.dtype
    let len := e.blocks * blockBytes e.dtype
    if (hbmDenied s (mPart s p) kRead a len).isSome then redDeny n p kRead a len s
    else
      let r := hbmReadPlain (some p) a len s
      startEntry n { e with recv := e.blocks, locals := (srcBlocks e r.1).zipIdx.map (fun b => (b.2, b.1)) } r.2

/-- RED.START (R215, R382): the entry of the layer table of the image of the program. -/
def execRedStart (c : CabId) (s : State) : Host.Outcome State Fault Refusal :=
  done s (wide c.toNat cRED (fun p i old _ s =>
    let img := if old then (s.ctx p).jig else curImage s p
    let le := layerAt s img (fld i.word 0 8)
    (portsOf (lePorts le)).foldl (redPort p (fld i.word 0 8) le) (passSide p old s)) s)

end Sys2Proof.Machine
end

