-- ==== Sys2Proof/Machine/Contexts.lean ====
section
/-! DEFINITION. Contexts and the scheduler (11): the states of contexts, posts, the switch, forced scan-outs, eviction. -/

namespace Sys2Proof.Machine

/-! ### States of contexts (R451) -/

def evOf (x : Ctx) (i : Nat) : Nat := (sget 0 x.ev i).toNat
def semOf (x : Ctx) (i : Nat) : Nat := (sget 0 x.sem i).toNat

/-- The first SEM.P that waits at a semaphore. -/
def firstWaiter (x : Ctx) (i : Nat) : Option SemWait := x.semQ.find? (fun w => w.sem == i)

/-- A saved sequencer waits in WAIT or SEM.P on a condition that does not hold. -/
def seqStuck (s : State) (p : Nat) (x : Ctx) (step : Nat) (e : Nat × Seq) : Bool :=
  let q := e.2
  let w : Word := BitVec.ofNat 64 (ofBytes (s.seen (q.seg + 8 * q.pos) 8))
  let a := cwXa w
  let v := if a = 14 then cabIndex s p e.1 else if a = 15 then step else fld (sget 0 q.x a) 0 32
  if q.wait = 2 then evOf x (fld w 0 8) < v % 2 ^ 32
  else if q.wait = 3 then
    match firstWaiter x (fld w 0 6) with
    | some f => !(f.cab == e.1 && f.count ≤ semOf x (fld w 0 6))
    | none => fld w 8 32 > semOf x (fld w 0 6)
  else false

/-- Every taking-part sequencer is stuck. -/
def allStuck (s : State) (p : Nat) (x : Ctx) (step : Nat) (qs : List (Nat × Seq)) : Bool :=
  let mine := qs.filter (fun e => 0 < e.2.len)
  !mine.isEmpty && mine.all (seqStuck s p x step)

/-- No control program runs and no RUN is pending. -/
def ctxIdle (x : Ctx) : Bool := !x.prog && x.run.isNone

/-- The context of a slot holds the fabric, or did last. -/
def isRunning (s : State) (p sl : Nat) : Bool := (s.part p).running && (s.part p).slot == sl

/-- The restore of the running context is in progress. -/
def restoring (s : State) (p : Nat) : Bool :=
  (s.ctx p).fill.any (fun f => f.1 == fRestore) || (s.ctx p).load == some fRestore

def slotStep (s : State) (p sl : Nat) : Nat := s.rf (rStep p sl oStepNumber) 0 32

/-- A fill or load of a re-run is under way: the current slots hold no jig (R308, log 80). -/
def reloading (x : Ctx) : Bool := x.fill.any (fun f => inPlace f.1) || x.load.any inPlace

/-- A boundary of the running context (R452). -/
def boundary (s : State) (p : Nat) : Bool :=
  let sl := (s.part p).slot
  partQuiet s p && !reloading (s.ctx p) && s.links.all (fun l => !l.2.entries.any (fun e => e.part == p && e.slot == sl
    && (e.state == 1 || entryOpen s e)))
    && (portsOf (s.ctx p).ports.toNat).all (fun n => s.rf (rCopyStatus n) 0 1 == 0)
    && stepState s p != sCommitting && stepState s p != sDiscarding

/-- The running context is blocked: at a boundary, not in VOTING, every taking-part sequencer stuck, no image on its way. -/
def runBlocked (s : State) (p : Nat) : Bool :=
  (s.ctx p).fill.isNone && (s.ctx p).load.isNone && stepState s p != sVoting
    && allStuck s p (s.ctx p) (stepNumber s p) ((cabsOf s p).map (fun e => (e.1, e.2.seq))) && boundary s p

/-- A context that is out is blocked: it was saved at a boundary, its STATE `st` is not VOTING, and every taking-part sequencer is
stuck. -/
def outBlocked (s : State) (p : Nat) (x : Ctx) (st step : Nat) : Bool :=
  x.saved == some false && x.prog && x.again.isNone && st != sVoting && allStuck s p x step x.keepSeq

/-- `SLOT.STATE` (R451). -/
def ctxState (s : State) (p sl : Nat) : Nat :=
  let x := s.ctxAt p sl
  if !x.alive then 0
  else if isRunning s p sl then
    if restoring s p then 5 else if ctxIdle x then 1 else if runBlocked s p then 4 else 3
  else if ctxIdle x then 1
  else if outBlocked s p x (s.rf (rStep p sl oStepStatus) 0 3) (slotStep s p sl) then 4
  else 2

def slots : List Nat := List.range 8

/-- The context that runs next: the one CTX.SWITCH named, or the next runnable slot in ascending order (R453). -/
def nextSlot (s : State) (p : Nat) : Option Nat :=
  let x := s.part p
  match x.target with
  | some t => if ctxState s p t = 2 then some t else ring x.slot
  | none => ring x.slot
where
  ring (from_ : Nat) : Option Nat := ((List.range 8).map (fun i => (from_ + 1 + i) % 8)).find? (fun sl => ctxState s p sl == 2)

/-! ### The switch (R456, R458) -/

/-- A cell whose work has been saved away. -/
def stillCell (c : Cell) : Cell :=
  { c with bench := { c.bench with iters := [], resv := [], store := [], inQ := ⟨[], [], [], [], []⟩,
                                   outQ := ⟨[], [], [], [], []⟩, cap0 := none, cap1 := none },
           sw := { c.sw with hop := ⟨[], [], [], []⟩, wait := ⟨[], [], [], []⟩ },
           dr := { gensComplete c.dr with reads := [], tile := [], tileOut := [], popRows := [] } }

/-- What of a fill or a load is under way and no image has a place for: its kind, the image, the save image it restores. An
image of JIG.NEXT is in the header. -/
def underWay (s : State) (p : Nat) : Option (Nat × Nat × Nat) :=
  let x := s.ctx p
  match x.fill, x.load with
  | some (kind, a), _ => if kind = fNext then none else some (kind, a, x.scanAt)
  | none, some kind => some (kind, (s.cab (firstCab s p)).spare.addr, x.scanAt)
  | none, none => none

/-- The fabric of a partition is free: nothing of the context that held it is under way there, and the slots hold no image. -/
def freeFabric (p : Nat) (s : State) : State :=
  let s := dropFills p (mapCells p stillCell s)
  let s := mapCabs p (fun _ k => { k with slot0 := k.slot0.leave, slot1 := k.slot1.leave, seq := {}, icache := [], dcache := [] }) s
  let s : State := { s with dowel := s.dowel.filter (fun k => !inPart s p (k.writer / 256)) }
  s.setPart p { s.part p with running := false, switch := false, parking := none, swStart := none, frozen := false }

/-- Steps 1 and 2 of R456: the running context's fabric state and block go to its area, and the fabric is free. -/
def switchOut (p : Nat) (full : Bool) (s : State) : State :=
  let sl := (s.part p).slot
  let x := s.ctx p
  if (hbmDenied s (mPart s p) kWrite x.area (0x1000 + scanBytes s p full)).isSome then
    ctxDeny p kWrite x.area (0x1000 + scanBytes s p full) s
  else
    -- a context whose cabinets hold no image has no fabric state to save
    let held := (s.cab (firstCab s p)).now.st == 2
    let s := if held then
        let s := scanOut p (x.area + 0x1000) full false s
        s.setCtx p { s.ctx p with saved := some full }
      else s
    let s := blockWrite p sl s
    let s := if full && held then freezeLinks p s else s
    freeFabric p (s.setCtx p { s.ctx p with again := underWay s p, fill := none, load := none })

/-- Steps 3 and 4 of R456: a saved context is restored; another one loads the image of its RUN, or goes on filling it. -/
def enterCtx (p sl : Nat) (start : Option Nat) (s : State) : State :=
  let s := s.setPart p { s.part p with slot := sl, running := true, ctxStart := start, reqAt := none, switch := false,
                                       target := none }
  let x := s.ctx p
  match x.saved with
  | none => runKick p (match x.again with
    | some (kind, a, at_) => startFill p kind a (s.setCtx p { x with again := none, scanAt := at_ })
    | none => s)
  | some _ =>
    if (hbmDenied s (mPart s p) kRead x.area 0x1040).isSome then ctxDeny p kRead x.area 0x1040 s
    else scanInStart p fRestore (x.area + 0x1000) (blockRead p sl s)

/-- The context of a slot is switched in (R456, R457, R469). -/
def switchIn (p sl : Nat) (s : State) : State :=
  let t := (s.part p).reqAt
  enterCtx p sl (if t.isSome then t else some s.clk.cclk) (s.setRf (rRunStatus p) 32 32 (s.rf (rRunStatus p) 32 32 + 1))

/-- A request lapses at a boundary at which no other context is runnable (R453). -/
def lapse (p : Nat) (s : State) : State := s.setPart p { s.part p with switch := false, target := none, reqAt := none }

/-- The next runnable context takes the free fabric; with none a request lapses. -/
def switchNext (p : Nat) (s : State) : State :=
  match nextSlot s p with
  | some sl => switchIn p sl s
  | none => lapse p s

/-! ### Slots and the parked list (R445, R449, R461) -/

/-- The work of a context in engines takes another slot number: 0–7 for a resident context, 8 + CID for a parked one. -/
def renameSlot (p old new : Nat) (s : State) : State :=
  let act := fun (a : Active) => if a.part = p ∧ a.slot = old then { a with slot := new } else a
  let eng := fun (e : Nat × Eng) => (e.1, { e.2 with
    lists := e.2.lists.map (fun l => if l.part = p ∧ l.slot = old then { l with slot := new } else l),
    stolen := e.2.stolen.map act, issued := e.2.issued.map act })
  { s with edges := s.edges.map eng, gathers := s.gathers.map eng }

/-- The step registers of a slot, by offset. -/
def slotRegs (s : State) (p sl : Nat) : List (Nat × Word) := stepOffsets.map (fun r => (r.lo, s.reg (rStep p sl r.lo)))

/-- The step registers of a slot at their reset values. -/
def clearSlotRegs (p sl : Nat) (s : State) : State :=
  { s with csr := s.csr.filter (fun e => e.1 < rStep p sl 0 || rStep p sl 0 + 0x1000 ≤ e.1) }

/-- The saved state of a port with what waits there: its flits, and an abort that waits (`frozen`). -/
def Link.withWaiting (k l : Link) : Link :=
  { k with rx := { k.rx with w := k.rx.w ++ l.rx.w, n := k.rx.n ++ l.rx.n }, frozen := k.frozen || (l.frozen && l.aborted) }

/-- A context becomes resident with a port that a parked one has too: what waits there for the parked context goes with it, and
its credits return when it resumes (R447, R459). -/
def claimPort (p : Nat) (s : State) (n : Nat) : State :=
  let l := s.link n
  match portParked s p n with
  | none => s
  | some k =>
    if !l.frozen && l.rx.w.isEmpty && l.rx.n.isEmpty then s
    else
      let s := setParked p k.ctx.cid (fun x => { x with keepLink := sset x.keepLink n ((sget {} x.keepLink n).withWaiting l) }) s
      s.setLink n { l with frozen := false, aborted := !l.frozen && l.aborted, rx := { l.rx with w := [], n := [] } }

/-- What waits for a context at its ports is there again as it becomes resident; the ports of one that was forced out stay
stopped until it resumes (R459). -/
def takePort (p sl : Nat) (s : State) (n : Nat) : State :=
  let x := s.ctxAt p sl
  let k := sget {} x.keepLink n
  let l := s.link n
  let out := x.saved == some true
  let s := s.setLink n { l with frozen := out, aborted := l.aborted || (out && k.frozen),
                                rx := { l.rx with w := k.rx.w ++ l.rx.w, n := k.rx.n ++ l.rx.n } }
  if x.keepLink.any (fun e => e.1 == n) then
    s.setCtxAt p sl { x with keepLink := sset x.keepLink n { k with frozen := false, rx := { k.rx with w := [], n := [] } } }
  else s

/-- The ports of a context that is no more are free: what waits there is dropped. -/
def freePorts (p sl : Nat) (s : State) : State :=
  (portsOf (s.ctxAt p sl).ports.toNat).foldl (fun s n =>
    let l := s.link n
    if l.frozen then s.setLink n { l with frozen := false, aborted := false, rx := { l.rx with w := [], n := [] } } else s) s

/-- The context of a slot joins the parked list. -/
def parkCtx (p sl : Nat) (held : Bool) (s : State) : State :=
  let x := s.ctxAt p sl
  let k : Parked := { ctx := x, regs := slotRegs s p sl, held := held }
  let s := clearSlotRegs p sl (renameSlot p sl (8 + x.cid.toNat) s)
  (s.setCtxAt p sl {}).setPart p { s.part p with parked := (s.part p).parked ++ [k] }

/-- A parked context becomes resident in a slot. At a port where the flits of another parked context wait it claims the port
first; what waits there for itself stays. -/
def unparkCtx (p sl : Nat) (k : Parked) (s : State) : State :=
  let ns := portsOf k.ctx.ports.toNat
  let other := ns.filter (fun n => (portParked s p n).any (fun y => y.ctx.cid != k.ctx.cid))
  let s := other.foldl (claimPort p) s
  let s := s.setPart p { s.part p with parked := (s.part p).parked.filter (fun y => y.ctx.cid != k.ctx.cid) }
  let s := s.setCtxAt p sl k.ctx
  let s := k.regs.foldl (fun s r => s.setReg (rStep p sl r.1) r.2) s
  renameSlot p (8 + k.ctx.cid.toNat) sl (ns.foldl (takePort p sl) s)

/-- A CTX.PARK that waited for the running context to be out completes (R449). -/
def parkDue (p : Nat) (who : Option Nat) (s : State) : State :=
  match who with
  | some r => completeRing r cOk 0 (parkCtx p (s.part p).slot true s)
  | none => s

/-! ### Slices and switches (R453–R458) -/

/-- A switch is requested (R453). -/
def requestSwitch (p : Nat) (s : State) : State :=
  let y := s.part p
  s.setPart p { y with switch := true, reqAt := if y.switch then y.reqAt else some s.clk.cclk }

/-- `PART_SCHED.PREEMPT_EN`. -/
def preempts (s : State) (p : Nat) : Bool := s.rf (rPartSched p) 40 1 == 1

/-- The slice of the running context has begun: its restore or its first load has completed (R453). -/
def sliceRuns (s : State) (p : Nat) : Bool := (s.part p).running && !restoring s p && (s.cab (firstCab s p)).now.st == 2

/-- The scheduler of the partition works (R466, R499). -/
def scheduling (s : State) (p : Nat) : Bool := partOn s p && !unitGated s 56 && !(s.part p).halted && !testing s p

/-- SLICE_EXPIRY (R453, R455): a switch is requested; without another runnable context the slice starts anew. -/
def execSliceExpiry (p : BitVec 4) (s : State) : Host.Outcome State Fault Refusal :=
  let p := p.toNat
  if scheduling s p && sliceRuns s p && preempts s p && (nextSlot s p).isSome then
    done s (requestSwitch p s)
  else done s s

/-- A switch at a boundary is due: one is requested and pre-emption enabled, the context is to be parked, or it is blocked or
idle (R449, R453–R455). -/
def switchDue (s : State) (p : Nat) : Bool :=
  let y := s.part p
  let st := ctxState s p y.slot
  y.parking.isSome || (((y.switch && preempts s p) || st == 4 || st == 1) && (nextSlot s p).isSome)

/-- CONTEXT_SWITCH (R453, R454, R456): the outgoing context is saved at its boundary and the next runnable one comes in; with none
runnable there a request lapses. -/
def execContextSwitch (p : BitVec 4) (s : State) : Host.Outcome State Fault Refusal :=
  let p := p.toNat
  if !scheduling s p then done s s
  else if !(s.part p).running then done s (switchNext p s)
  else if restoring s p || !boundary s p then done s s
  else if !switchDue s p then done s (if (nextSlot s p).isNone then lapse p s else s)
  else
    let t := switchOut p false s
    done s (if (t.part p).running then t else switchNext p (parkDue p (s.part p).parking t))

/-- A forced switch may take place: one is requested, another context is runnable, and STATE is neither COMMITTING nor DISCARDING
(R455, R458). -/
def forcedDue (s : State) (p : Nat) : Bool :=
  scheduling s p && (s.part p).running && (s.part p).switch && preempts s p && (nextSlot s p).isSome && !restoring s p
    && !reloading (s.ctx p) && stepState s p != sCommitting && stepState s p != sDiscarding

/-- A SCAN.OUT of the full form waits (R220). -/
def fullWaits (s : State) (p : Nat) : Bool :=
  allAt s p [cSCANOUT] && (cabsOf s p).any (fun e => e.2.seq.issue.any (fun i => fld i.word 0 1 == 1))

/-- FORCED_SCAN_OUT (R220, R388, R458, R459): PREEMPT_LIMIT has passed after a request without a boundary: issue stops, and once
the dowel operations under way have completed and the flits are acknowledged the context is saved in full form. -/
def execForcedScanOut (p : BitVec 4) (s : State) : Host.Outcome State Fault Refusal :=
  let p := p.toNat
  if !forcedDue s p then done s (if (s.part p).frozen && !fullWaits s p then thaw p s else s)
  else if dowelIdle s p && flitsAcked s p then
    let t := switchOut p true s
    done s (if (t.part p).running then t else switchNext p (parkDue p (s.part p).parking (setPartCause p pcForced t)))
  else done s (setFrozen p true s)

/-- The parked context's wait conditions hold, or it has work that waits for no condition. -/
def parkedRunnable (s : State) (p : Nat) (k : Parked) : Bool :=
  let kept := fun (off w : Nat) => ((k.regs.find? (fun r => r.1 == off)).map (fun r => fld r.2 0 w)).getD 0
  !ctxIdle k.ctx && !outBlocked s p k.ctx (kept oStepStatus 3) (kept oStepNumber 32)

/-! ### Eviction (R461) -/

/-- Ports of the resident contexts but for one slot. -/
def portsTaken (s : State) (p but : Nat) : BitVec 16 :=
  (slots.filter (· != but)).foldl (fun m sl => if (s.ctxAt p sl).alive then m ||| (s.ctxAt p sl).ports else m) 0

/-- The context an eviction takes out: the one blocked longest, the lowest slot among equals (R461). -/
def victim (s : State) (p : Nat) : Option Nat :=
  let bs := slots.filter (fun sl => ctxState s p sl == 4)
  let most := (bs.map (fun sl => (s.ctxAt p sl).blockedFor)).foldl max 0
  bs.find? (fun sl => (s.ctxAt p sl).blockedFor == most)

/-- EVICTION (R461): with every resident context blocked or idle, the one blocked longest gives its slot to a parked runnable
context with HELD 0. -/
def execEviction (p : BitVec 4) (s : State) : Host.Outcome State Fault Refusal :=
  let p := p.toNat
  if scheduling s p && (s.part p).parking.isNone && s.rf (rBlockEvict p) 0 32 != 0 && slots.all (fun sl => [0, 1, 4].contains (ctxState s p sl)) then
    match victim s p with
    | none => done s s
    | some v =>
      match (s.part p).parked.find? (fun k => !k.held && parkedRunnable s p k && k.ctx.ports &&& portsTaken s p v == 0) with
      | none => done s s
      | some k =>
        if isRunning s p v && !boundary s p then done s s
        else
          let t := if isRunning s p v then switchOut p false s else s
          if isRunning t p v then done s t
          else
            let t := setPartCause p pcEvict (unparkCtx p v k (parkCtx p v false t))
            done s (if (t.part p).running then t else switchIn p v t)
  else done s s

/-- One CCLK cycle of the time each resident context has been blocked (R461). -/
def tickBlocked (s : State) : State :=
  s.ctxs.foldl (fun s e =>
    let p := e.1 / 8
    let sl := e.1 % 8
    let x := s.ctxAt p sl
    if !x.alive then s
    else if ctxState s p sl = 4 then s.setCtxAt p sl { x with blockedFor := x.blockedFor + 1 }
    else if x.blockedFor = 0 then s else s.setCtxAt p sl { x with blockedFor := 0 }) s

/-! ### Posts to a context (R216, R460) -/

/-- The saved copy of a context that is out holds a posted value too (R460). -/
def savedCopy (p sl off v : Nat) (s : State) : State :=
  let x := s.ctxAt p sl
  if x.saved.isSome then hbmWrite (some p) (x.area + off) (leBytes 4 v) s else s

/-- An event of a resident context is posted. -/
def postEvent (p sl i n : Nat) (s : State) : State :=
  let s := addEvent p sl i n s
  savedCopy p sl (4 * i) (evOf (s.ctxAt p sl) i) s

/-- A semaphore of a resident context takes a value; waiting SEM.P of the running context are served. -/
def postSem (p sl i v : Nat) (s : State) : State :=
  let x := s.ctxAt p sl
  let s := s.setCtxAt p sl { x with sem := sset x.sem i (BitVec.ofNat 32 v) }
  if isRunning s p sl && !restoring s p then semRun p i s else savedCopy p sl (0x400 + 4 * i) v s

/-- A parked context takes a posted event or semaphore value. -/
def postParked (p : Nat) (cid : BitVec 32) (event : Bool) (i v : Nat) (s : State) : State :=
  let f := fun (x : Ctx) => if event then { x with ev := sset x.ev i (BitVec.ofNat 32 v) }
    else { x with sem := sset x.sem i (BitVec.ofNat 32 v) }
  let s := match (s.part p).parked.find? (fun k => k.ctx.cid == cid) with
    | some k => if k.ctx.saved.isSome then hbmWrite (some p) (k.ctx.area + (if event then 4 * i else 0x400 + 4 * i)) (leBytes 4 v) s else s
    | none => s
  setParked p cid f s

end Sys2Proof.Machine
end

