-- ==== Sys2Proof/Machine/Registers.lean ====
section
/-! DEFINITION. Register accesses (15): what a register reads as, what a write that is taken sets off, and the commands
that are register writes. -/

namespace Sys2Proof.Machine

/-! ### Registers that show other state -/

/-- `PORT_PENDING` (R390). -/
def portPending (s : State) : Nat := bitMask ((List.range 16).map (fun n => s.reg (rPortCause n) != 0))

/-- `MEM_CAUSE` (R352). -/
def memCause (s : State) : Nat :=
  bitMask ((List.range 8).map (fun k => s.reg (rPlCause k) != 0)
    ++ (List.range 8).map (fun k => (List.range 32).any (fun e => s.reg (rEeCause (32 * k + e)) != 0)))

/-- `EE_STATUS` of an edge engine (R350). -/
def eeStatus (s : State) (e : Nat) : Nat :=
  let x := s.edge e
  pack [(0, 1, x.busy.toNat), (1, 5, x.lists.length), (6, 4, ((present e x).map (·.part)).getD 0)]

/-- `SLOT` of a context slot (R469). -/
def slotWord (s : State) (p sl : Nat) : Nat :=
  let x := s.ctxAt p sl
  pack [(0, 32, x.cid.toNat), (32, 3, ctxState s p sl), (35, 1, if x.saved = some true then 1 else 0), (48, 16, x.ports.toNat)]

/-- `PARKED` of an entry of the parked list (R469). -/
def parkedWord (s : State) (p k : Nat) : Nat :=
  match (s.part p).parked[k]? with
  | some y => pack [(0, 32, y.ctx.cid.toNat), (32, 1, 1), (33, 1, y.held.toNat), (34, 1, (parkedRunnable s p y).toNat)]
  | none => 0

/-- `RUN_STATUS` but for SWITCHES (R469). -/
def runStatus (s : State) (p : Nat) : Nat :=
  let y := s.part p
  let mask := fun st => bitMask (slots.map (fun sl => ctxState s p sl == st))
  pack [(0, 3, y.slot), (3, 1, y.running.toNat), (4, 1, (y.running && restoring s p).toNat), (8, 8, mask 2), (16, 8, mask 4)]

/-- `PART_STATUS` (R502). -/
def partStatus (s : State) (p : Nat) : Nat :=
  let y := s.part p
  pack [(0, 3, y.check.toNat), (3, 1, y.window.toNat), (4, 2, y.test)]

/-- `TEST_STORE` k (R501). -/
def testStore (s : State) (k : Nat) : Nat :=
  match s.integ.pkgs[k]? with
  | some x => pack [(0, 16, x.id.toNat), (16, 1, 1)]
  | none => 0

/-- A scoreboard word of a cabinet (R118, R129). -/
def cellBits (c k : Nat) (f : Nat → Bool) : Nat := bitMask ((List.range 64).map (fun b => f (c * 256 + 64 * k + b)))
def quietBit (s : State) (g : Nat) : Bool := cellQuiet s (g, s.cell g)
/-- DRAIN of a cell (R118, R201): 0 after reset (R129), and 1 from the start of a jig for a bench without a program. -/
def drainBit (s : State) (g : Nat) : Bool :=
  let b := s.bench g
  drained g b && (ports.any (fun p => namedPort b p) || (fieldJig s (g / 65536)).taken)

/-- Columns of a cabinet that can still retire a cell (R126). -/
def spareLeft (s : State) (c : Nat) : Nat := ((List.range 16).filter (fun col => cellSpare s (c * 256 + col))).length

def cabEpoch (s : State) (c : Nat) : Bool := xor (fieldJig s (c / 256)).epoch (s.cab c).now.next

/-- WAIT of a sequencer (R227): one that has not stopped in a halted partition shows the halt. -/
def waitShown (s : State) (c : Nat) : Nat :=
  let w := (s.cab c).seq.wait
  match partOfCab s c with
  | some p => if stands s p && w ≠ 5 then 6 else w
  | none => w

/-- `CAB_STATUS` (R126). -/
def cabStatus (s : State) (c : Nat) : Nat :=
  let all := fun f => (List.range 256).all (fun i => f (c * 256 + i))
  pack [(0, 1, if (s.cab c).seq.wait = 5 then 0 else 1), (1, 1, (all (quietBit s)).toNat), (2, 1, (all (drainBit s)).toNat),
    (3, 1, (cabEpoch s c).toNat), (4, 5, spareLeft s c)]

/-- `SLOT_STATUS` (R225). -/
def slotStatus (s : State) (c : Nat) : Nat :=
  let k := s.cab c
  pack [(0, 1, k.cur.toNat), (1, 2, k.slot0.st), (3, 2, k.slot1.st), (5, 1, (retirePend s c).toNat)]

/-- `SEQ_STATUS` (R227). -/
def seqStatus (s : State) (c : Nat) : Nat :=
  let k := s.cab c
  seqWord k.seq (waitShown s c) (if k.seq.pos < k.seq.len then cwOp (seqPeek s c) else 0)

/-- `CAB_PENDING` k of field f (R123). -/
def cabPending (s : State) (f k : Nat) : Nat :=
  bitMask ((List.range 64).map (fun b => s.reg (rCabCause (f * 256 + k * 64 + b)) != 0))

/-- `FABRIC.CAUSE` (R122). -/
def fabCause (s : State) : Nat :=
  bitMask ((List.range 16).map (fun f =>
    s.csr.any (fun e => bFABRIC + f * 0x1000000 ≤ e.1 && e.1 < bFABRIC + (f + 1) * 0x1000000
      && (e.1 - bFABRIC) % 0x10000 == 8 && e.2 != 0)))

/-- A register of a cabinet page. -/
def cabValue (s : State) (c off : Nat) (w : Word) : Word :=
  let n := fun v => BitVec.ofNat 64 v
  if off = 0 then n (cabStatus s c)
  else if 0x20 ≤ off ∧ off < 0x40 then n (cellBits c ((off - 0x20) / 8) (quietBit s))
  else if 0x40 ≤ off ∧ off < 0x60 then n (cellBits c ((off - 0x40) / 8) (drainBit s))
  else if 0x60 ≤ off ∧ off < 0x80 then n (cellBits c ((off - 0x60) / 8) (cellEpoch s))
  else if off = 0x180 then n (slotStatus s c)
  else if off = 0x188 then n (if (s.cab c).slot0.st = 2 || (s.cab c).slot0.st = 1 then (s.cab c).slot0.addr &&& pageMask else 0)
  else if off = 0x190 then n (if (s.cab c).slot1.st = 2 || (s.cab c).slot1.st = 1 then (s.cab c).slot1.addr &&& pageMask else 0)
  else if off = 0x198 then n (seqStatus s c)
  else if 0x1000 ≤ off ∧ off < 0x2000 then
    let d := s.dr (c * 256 + (off - 0x1000) / 16)
    if off % 16 = 0 then mqStat d else mqPtr d
  else w

/-- A register of the SCHED block outside the partition registers that are stored. -/
def schedValue (s : State) (a : Nat) (w : Word) : Word :=
  let n := fun v => BitVec.ofNat 64 v
  if a = rSchedCause then n (bitMask ((List.range 16).map (fun p => s.reg (rPartCause p) != 0)))
  else if rPartPage 0 0 ≤ a ∧ a < rPartPage 16 0 then
    let p := (a - rPartPage 0 0) / 0x1000
    let off := (a - rPartPage 0 0) % 0x1000
    if off = 0x20 then setFld w 0 32 (runStatus s p)
    else if 0x40 ≤ off ∧ off < 0x80 then n (slotWord s p ((off - 0x40) / 8))
    else if 0x100 ≤ off ∧ off < 0x180 then n (parkedWord s p ((off - 0x100) / 8))
    else w
  else
    match stepPlace s a with
    | some (p, sl, off) =>
      if off = oVoteCtrl then
        setFld w 32 16 (reportedPorts (s.ctxAt p sl))
      else if off = oCtxArea then n ((s.ctxAt p sl).area &&& pageMask)
      else w
    | none => w

/-- What the register at an address reads as (R552). -/
def csrValue (a : Nat) (s : State) : Word :=
  let n := fun v => BitVec.ofNat 64 v
  let w := s.reg (homeAddr s a)
  match blockOf a with
  | some 0 => if a = rAttnSummary then n (attnSummary s) else w
  | some 6 => if (a - bLINK) % 0x100000 = 0xF0 then n (portPending s) else w
  | some 7 =>
    if a = rMemCause then n (memCause s)
    else if a = rClassCtrl then setFld w 16 16 (rawUsed s)
    else if memEdgeLo ≤ a && a < memCommonLo && (a - memEdgeLo) % 0x1000 == 0 then
      n (eeStatus s ((a - memEdgeLo) / 0x80000 * 32 + (a - memEdgeLo) % 0x80000 / 0x1000))
    else w
  | some 8 => schedValue s a w
  | some 9 =>
    match indexAt a (rTestStore 0) 8 16, indexAt a (rPartStatus 0) 0x100 16, indexAt a (rSampleKey 0) 0x100 16 with
    | some k, _, _ => n (testStore s k)
    | _, some p, _ => n (partStatus s p)
    | _, _, some p => n (sampleKey s p)
    | _, _, _ => w
  | some 10 =>
    if a = rFabCause then n (fabCause s)
    else
      match indexAt a (rCabPending 0 0) 8 64 with
      | some k => n (cabPending s (k / 4) (k % 4))
      | none => if a < bFABBLK then cabValue s ((a - bFABRIC) / 0x10000) ((a - bFABRIC) % 0x10000) w else w
  | _ => w

/-- A register read by a master (R551, R552): the value, or the code that rejects it. -/
def csrRead (m a : Nat) (s : State) : Code × Word × State :=
  match csrDenied m a false s with
  | some c => (c, 0, csrReject c m false a s)
  | none => (cOk, csrValue a s, s)

/-! ### What a write sets off -/

/-- The RUNs of a ring that is turned off have no ring to complete on. -/
def detachRuns (r : Nat) (s : State) : State :=
  let f := fun (x : Ctx) => { x with run := x.run.map (fun q => if q.ring = r then { q with ring := 256 } else q) }
  { s with ctxs := s.ctxs.map (fun e => (e.1, f e.2)),
           parts := s.parts.map (fun e => (e.1, { e.2 with parked := e.2.parked.map (fun k => { k with ctx := f k.ctx }) })) }

/-- A field test ends: the context that it put aside is restored (R499). -/
def endTest (p : Nat) (s : State) : State :=
  let y := s.part p
  let s := s.setPart p { y with test := 0, testKeep := false, testCtx := none, testStep := 0 }
  let s := match y.testCtx with
    | some k =>
      (s.setReg (stepAddr s p oStepStatus) y.testStep).setCtx p
        { s.ctx p with jig := k.jig, goRec := k.goRec, begun := k.begun, rerun := k.rerun, marked := k.marked, refusal := k.refusal,
                       fill := none, load := none, ev := k.ev, sem := k.sem, causes := k.causes, nanIn := k.nanIn, own := k.own,
                       held := k.held, voteReq := k.voteReq, upSent := k.upSent, sentVote := k.sentVote, retry := k.retry, jFull := k.jFull, rJig := k.rJig,
                       win := k.win }
    | none => s
  if y.testKeep then enterCtx p y.slot none s else s

/-- A write of `RING_CFG.EN` (R418, R429): 0 to 1 sets the indices to 0; 1 to 0 discards the completions held and the
descriptor that runs. A completion that has gone out still waits for its acknowledgement (R402). -/
def ringSwitch (r : Nat) (old new : Word) (s : State) : State :=
  if fld old 0 1 = 0 ∧ fld new 0 1 = 1 then
    let s := (((s.setReg (rRingHead r) 0).setReg (rRingTail r) 0).setReg (rRingDone r) 0).setReg (rCqTail r) 0
    { s with cqHead := sset s.cqHead r 0 }.setRing r { unacked := (s.ring r).unacked }
  else if fld old 0 1 = 1 ∧ fld new 0 1 = 0 then
    let p := ringPart s r
    let test := (s.ring r).cur.any (fun d => fld d 0 8 == 0x19) && (s.ring r).started && (s.part p).test != 0
    let s := (detachRuns r s).setRing r { unacked := (s.ring r).unacked }
    let s : State := { s with parts := s.parts.map (fun e =>
      (e.1, { e.2 with parking := if e.2.parking = some r then none else e.2.parking })) }
    if test then endTest p s else s
  else s

/-- Queue pair `q` enters the error state: the completions of every ring that uses it stop (R429). -/
def qpStop (q : Nat) (s : State) : State :=
  let rs := (List.range 256).filter (fun r => ringOn s r && s.rf (rCqCfg r) 0 12 == q)
  if rs.isEmpty then s
  else setHostCause hcCqErr (rs.foldl (fun s r => s.setRing r { s.ring r with stopped := true }) s)

/-- Rate of a data port in Mb/s (R393). -/
def ethRate (s : State) (n : Nat) : Nat := 100000 * 2 ^ s.rf (rEthCtrl n) 1 2

/-- The queue pair whose packet a frame is. -/
def Sent.qp : Sent → Option (BitVec 12)
  | .rdmaAck q | .rdmaData q _ | .nakAccess q | .nakInvalid q | .completion _ q _ _ _ | .cnp _ q => some q
  | .frame _ _ _ | .mgmtResp _ _ _ _ _ _ _ _ | .attention _ _ _ | .pause _ _ _ | .arp _ _ | .neighbour _ _ | .echo _ _ | .flit _ _ _
  | .capability _ _ _ _ _ _ _ _ _ | .spdm _ _ _ | .spdmRefused | .accepted _ => none

/-- Everything in flight on a queue pair is discarded (R401): requests that wait, frames that wait to go out, completions that wait
for their acknowledgement. -/
def qpDiscard (q : Nat) (s : State) : State :=
  let mine := fun (x : Sent) => x.qp.any (fun k => k.toNat == q)
  { s with rdma := s.rdma.filter (fun x => x.q.toNat != q),
           eths := s.eths.map (fun e => (e.1, { e.2 with out := e.2.out.filter (fun f => !mine f.2) })),
           rings := s.rings.map (fun e => (e.1, { e.2 with unacked := e.2.unacked.filter (· != q) })) }

/-- A write of the first word of a queue pair (R399, R401, R429). -/
def qpSwitch (q : Nat) (old new : Word) (s : State) : State :=
  let st := fld new 0 3
  if st = fld old 0 3 then s
  else if st = 0 then qpDiscard q s
  else if st = 3 then s.setRf (rQp q 5) 0 32 (ethRate s (fld new 4 2))
  else if st = 4 then qpStop q s
  else s

/-- Empty the sector cache of a plinth (R311). -/
def ncInvalidate (k : Nat) (s : State) : State := s.setPlinth k { s.plinth k with sets := [] }

/-- A write of `CLASS_MAP` k (R300): the contents of the lowest region whose class changes and of every higher one become
undefined. -/
def classChanged (k : Nat) (old new : Word) (s : State) : State :=
  match (List.range 32).find? (fun i => fld old (2 * i) 2 != fld new (2 * i) 2) with
  | none => s
  | some i =>
    let n := 32 * k + i
    { s with mem := s.mem.forgetFrom n s.fresh, fresh := s.fresh + 1,
             hbmErr := s.hbmErr.filter (fun e => e.1 < n * 2 ^ 30) }

/-- A write of `ISTR_RELEASE` of position P (R331). -/
def istrRelease (p i pos : Nat) (s : State) : State :=
  let s := s.setRf (rIstrReleased p i) 0 56 pos
  let s := if istrPos s (rIstrRead p i) < pos then s.setRf (rIstrRead p i) 0 56 pos else s
  s.setRf (rIstrMark p i) 63 1 0

/-- A write of `ISTR_SIZE` sets the four positions to 0 (R329). -/
def istrZero (p i : Nat) (s : State) : State :=
  [rIstrWrite p i, rIstrRead p i, rIstrMark p i, rIstrReleased p i].foldl (fun s a => s.setRf a 0 56 0) s

/-- A write of `STEP_RESOLVE` through the page or view of a context (R68, R446): at once for the context that holds the
fabric, at its next switch in for another. -/
def resolveWrite (p sl : Nat) (v : Word) (s : State) : State :=
  let b := fld v 0 1 == 1
  if isRunning s p sl && !restoring s p then runKick p (stepResolve p b s)
  else s.setCtxAt p sl { s.ctxAt p sl with resolve := some b }

/-- A write of `PART_CTRL` (R483, R486). -/
def partCtrl (p : Nat) (v : Word) (s : State) : State :=
  let s := if fld v 3 1 = 1 then runKick p (resumePart p s) else s
  if fld v 4 1 = 1 then closeWindow p s else s

/-- A write of `MQ_STAT` clears UNDERRUN and QRESET where it holds 1 (R355). -/
def mqClear (g : Nat) (v : Word) (s : State) : State :=
  let d := s.dr g
  s.setDr g { d with under := d.under && fld v 11 1 == 0, qreset := d.qreset && fld v 12 1 == 0 }

/-- Every RUN that a ring has fetched and that is not complete, attached to its context or not, completes with HALTED (R532). -/
def haltRuns (s : State) : State :=
  (List.range 256).foldl (fun s r =>
    let x := s.ring r
    if x.cur.any (fun d => fld d 0 8 == 2) && x.ending.isNone then completeRing r cHalted 0 s else s) s

/-- The port has a started layer-table entry, in its place or in the saved link state of a context that is out. -/
def entryStarted (s : State) (n : Nat) : Bool :=
  let kept := fun (x : Ctx) => x.saved.isSome && (sget {} x.keepLink n).entries.any Entry.started
  (s.link n).entries.any Entry.started || s.ctxs.any (fun e => kept e.2) || s.parts.any (fun e => e.2.parked.any (fun k => kept k.ctx))

/-- A register that a fabric reset keeps (R531): the remap directory and the retirement map lie among the FABRIC
registers. -/
def fabricKeeps (a : Nat) : Bool :=
  a < bSCHED || (bINTEG + 0x1000000 ≤ a && a < bFABRIC)
    || (bFABRIC ≤ a && a < bFABBLK && 0xA0 ≤ (a - bFABRIC) % 0x10000 && (a - bFABRIC) % 0x10000 < 0xB0)
    || (rCabMap 0 0 ≤ a && a < rCabMap 16 0) || a = rRemapStatus || rRemapDir 0 ≤ a

/-- The gather engines and the sequencers wait for no narrow read any more. -/
def Plinth.noReaders (k : Plinth) : Plinth :=
  let stays := fun (r : Nat × Nat) => r.1 < 0x80
  let q := giveSlots (k.slots.filter stays) (k.queue.filter stays)
  { k with slots := q.1, queue := q.2 }

/-- The fabric reset (R530–R532). An update under way ends without a code (R546, log 65). -/
def fabricReset (s : State) : State :=
  let s := ((List.range 16).filter (entryStarted s)).foldl (fun s n => ownAbort n (setPortCause n lcAbort s)) s
  let s := haltRuns s
  let t : State := { s with
    csr := s.csr.filter (fun e => fabricKeeps e.1), cells := [], fields := [], dowel := [], cabs := [], ctxs := [], parts := [],
    edges := [], gathers := [],
    links := s.links.map (fun l =>
      (l.1, { l.2 with entries := [], comb := [], gateOut := [], frozen := false, aborted := false })),
    plinths := s.plinths.map (fun k => (k.1, k.2.noReaders)),
    integ := { s.integ with pkgs := [] } }
  let t := t.setRf rRemapStatus 0 16 0
  if t.sec.upd.isSome then (abortUpd t).setRf rUpdStatus 0 1 0 else t

/-- A write of `RESET_CTRL` (R530, R533). -/
def resetCtrl (v : Word) (s : State) : State :=
  if shutDown s then s
  else if fld v 0 1 = 1 then moduleReset s
  else if fld v 1 1 = 1 then fabricReset s
  else s

/-- What a write of a HOST register sets off. -/
def hostEffect (a : Nat) (old v : Word) (s : State) : State :=
  match indexAt a (rRingCfg 0) 0x100 256 with
  | some r => ringSwitch r old v s
  | none =>
    match doorbellRing a with
    | some r =>
      if (a - rDoorbell 0) % 0x1000 = 0 then s.setReg (rRingTail r) (BitVec.ofNat 64 (fld v 0 32))
      else { s with cqHead := sset s.cqHead r (BitVec.ofNat 32 (fld v 0 32)) }
    | none =>
      match indexAt a (rQp 0 0) 0x40 4096 with
      | some q => qpSwitch q old v s
      | none => s

/-- What a write of a LINK register sets off. -/
def linkEffect (a : Nat) (old v : Word) (s : State) : State :=
  let n := (a - bLINK) / 0x100000
  let off := (a - bLINK) % 0x100000
  if off = 0 then portCtrl n old v s else if off = 0x48 then copyGo n v s else s

/-- What a write of a MEM register sets off. -/
def memEffect (a : Nat) (old v : Word) (s : State) : State :=
  match indexAt a (rPlCtrl 0) 0x100000 8 with
  | some k => if fld v 1 1 = 1 then ncInvalidate k s else s
  | none =>
    match indexAt a (rClassMap 0) 8 16 with
    | some k => classChanged k old v s
    | none =>
      if rIstr 0 0 0 ≤ a && a < rIstr 16 0 0 then
        let p := (a - rIstr 0 0 0) / 0x1000
        let i := (a - rIstr 0 0 0) % 0x1000 / 0x40
        let off := (a - rIstr 0 0 0) % 0x40
        if off = 0x08 then istrZero p i s else if off = 0x30 then istrRelease p i (fld v 0 56) s else s
      else s

/-- What a write of a FABRIC register sets off. -/
def fabricEffect (a : Nat) (v : Word) (s : State) : State :=
  if a = rRemapReq then (remapRequest (fld v 24 12 * 256 + fld v 16 8) (fld v 0 9) s).getD s
  else if bFABRIC ≤ a && a < bFABBLK then
    let off := (a - bFABRIC) % 0x10000
    if 0x1000 ≤ off && off % 16 = 0 then mqClear ((a - bFABRIC) / 0x10000 * 256 + (off - 0x1000) / 16) v s else s
  else s

/-- What a write that is taken sets off, the register holding its new value. -/
def csrEffect (a : Nat) (old v : Word) (s : State) : State :=
  match blockOf a with
  | some 1 =>
    if a = rClkEnable0 then clkEnabled old v s
    else if a = rMeasCtrl then measStart v s
    else
      match indexAt a (rFclkSet 0) 8 16 with
      | some f => fclkSet f s
      | none => s
  | some 3 =>
    if a = rResetCtrl then resetCtrl v s
    else if a = rUpdCmd then updCmd v s
    else if a = rUpdData then updData v s
    else s
  | some 4 => hostEffect a old v s
  | some 6 => linkEffect a old v s
  | some 7 => memEffect a old v s
  | some 8 =>
    match stepPlace s a with
    | some (p, sl, off) => if off = oStepResolve then resolveWrite p sl v s else s
    | none => s
  | some 9 =>
    if a = rLogBase || a = rLogSize then (s.setReg rLogHead 0).setReg rLogTail 0
    else
      match indexAt a (rPartCtrl 0) 0x100 16 with
      | some p => partCtrl p v s
      | none => s
  | some 10 => fabricEffect a v s
  | _ => s

/-- A register write by a master (R9, R551, R561): rejected with a code, or stored with what it sets off. -/
def csrWrite (m a : Nat) (v : Word) (s : State) : Code × State :=
  match csrWriteCode m a v s with
  | some c => (c, csrReject c m true a s)
  | none =>
    let h := homeAddr s a
    let old := s.reg h
    (cOk, csrEffect a old v (s.setReg h (regStored a old v)))

/-- The outcome of a command that is a register write. -/
def writes (m a : Nat) (v : Word) (s : State) : Host.Outcome State Fault Refusal := done s (csrWrite m a v s).2

/-! ### The commands that are register writes -/

/-- REGISTER_WRITE (R9). -/
def execRegisterWrite (m : BitVec 7) (addr v : Word) (s : State) : Host.Outcome State Fault Refusal :=
  writes m.toNat addr.toNat v s

/-- STEP_RESOLVE_COMMIT (R68): the step page of `p` takes COMMIT with the step number. -/
def execStepResolveCommit (m : BitVec 7) (p : BitVec 4) (step : BitVec 32) (s : State) : Host.Outcome State Fault Refusal :=
  writes m.toNat (rStepPage p.toNat oStepResolve) (BitVec.ofNat 64 (step.toNat * 2 ^ 32 + 1)) s

/-- STEP_RESOLVE_DISCARD (R68). -/
def execStepResolveDiscard (m : BitVec 7) (p : BitVec 4) (step : BitVec 32) (s : State) : Host.Outcome State Fault Refusal :=
  writes m.toNat (rStepPage p.toNat oStepResolve) (BitVec.ofNat 64 (step.toNat * 2 ^ 32 + 2)) s

/-- ISTR_WRITE (R329): the end of the data the host has written. -/
def execIstrWrite (m : BitVec 7) (p i : BitVec 4) (v : Word) (s : State) : Host.Outcome State Fault Refusal :=
  writes m.toNat (rIstrWrite p.toNat i.toNat) v s

/-- ISTR_RELEASE (R331). -/
def execIstrRelease (m : BitVec 7) (p i : BitVec 4) (v : Word) (s : State) : Host.Outcome State Fault Refusal :=
  writes m.toNat (rIstrRelease p.toNat i.toNat) v s

/-- ISTR_SIZE (R329). -/
def execIstrSize (m : BitVec 7) (p i : BitVec 4) (v : Word) (s : State) : Host.Outcome State Fault Refusal :=
  writes m.toNat (rIstrSize p.toNat i.toNat) v s

/-- NC_INV (R311, R349): a write of `PL_CTRL` with NC_INV set. -/
def execNcInv (m : BitVec 7) (k : BitVec 3) (v : Word) (s : State) : Host.Outcome State Fault Refusal :=
  writes m.toNat (rPlCtrl k.toNat) (setFld v 1 1 1) s

/-- REMAP_REQ (R345). -/
def execRemapReq (m : BitVec 7) (v : Word) (s : State) : Host.Outcome State Fault Refusal := writes m.toNat rRemapReq v s

/-- CLASS_MAP_WRITE (R299, R300). -/
def execClassMapWrite (m : BitVec 7) (k : BitVec 4) (v : Word) (s : State) : Host.Outcome State Fault Refusal :=
  writes m.toNat (rClassMap k.toNat) v s

/-- The address is a register of the access tables. -/
def isAccReg (a : Nat) : Bool := rAccHbm 0 0 ≤ a && a < rAccCsr 128

/-- ACC_WRITE (R408, R412): a write of `ACC_HBM` or `ACC_CSR`; another address is no such write. -/
def execAccWrite (m : BitVec 7) (addr v : Word) (s : State) : Host.Outcome State Fault Refusal :=
  if isAccReg addr.toNat then writes m.toNat addr.toNat v s else done s s

/-- RETRAIN (R364): a write of `PORT_CTRL` with RETRAIN set. -/
def execRetrain (m : BitVec 7) (n : BitVec 4) (v : Word) (s : State) : Host.Outcome State Fault Refusal :=
  writes m.toNat (rPortCtrl n.toNat) (setFld v 5 1 1) s

/-- COPY_GO (R387): a write of `COPY_CMD` with GO set. -/
def execCopyGo (m : BitVec 7) (n : BitVec 4) (v : Word) (s : State) : Host.Outcome State Fault Refusal :=
  writes m.toNat (rCopyCmd n.toNat) (setFld v 0 1 1) s

/-- QP_STATE_WRITE (R401): a write of the word of a queue pair that holds STATE. -/
def execQpStateWrite (m : BitVec 7) (q : BitVec 12) (v : Word) (s : State) : Host.Outcome State Fault Refusal :=
  writes m.toNat (rQp q.toNat 0) v s

/-- DOORBELL (R419, R420). -/
def execDoorbell (m : BitVec 7) (r : BitVec 8) (v : Word) (s : State) : Host.Outcome State Fault Refusal :=
  writes m.toNat (rDoorbell r.toNat) v s

/-- CQ_HEAD_DOORBELL (R428, R439). -/
def execCqHeadDoorbell (m : BitVec 7) (r : BitVec 8) (v : Word) (s : State) : Host.Outcome State Fault Refusal :=
  writes m.toNat (rCqHead r.toNat) v s

/-- RING_ENABLE (R418, R429): a write of `RING_CFG`. -/
def execRingEnable (m : BitVec 7) (r : BitVec 8) (v : Word) (s : State) : Host.Outcome State Fault Refusal :=
  writes m.toNat (rRingCfg r.toNat) v s

/-- RESUME (R486): a write of `PART_CTRL` with RESUME set. -/
def execResume (m : BitVec 7) (p : BitVec 4) (v : Word) (s : State) : Host.Outcome State Fault Refusal :=
  writes m.toNat (rPartCtrl p.toNat) (setFld v 3 1 1) s

/-- CLOSE (R483): a write of `PART_CTRL` with CLOSE set. -/
def execClose (m : BitVec 7) (p : BitVec 4) (v : Word) (s : State) : Host.Outcome State Fault Refusal :=
  writes m.toNat (rPartCtrl p.toNat) (setFld v 4 1 1) s

/-- LOG_RESET (R489): a write of `LOG_BASE` or `LOG_SIZE`. -/
def execLogReset (m : BitVec 7) (size : Bool) (v : Word) (s : State) : Host.Outcome State Fault Refusal :=
  writes m.toNat (if size then rLogSize else rLogBase) v s

/-- FCLK_SET (R507). -/
def execFclkSet (m : BitVec 7) (f : BitVec 4) (v : Word) (s : State) : Host.Outcome State Fault Refusal :=
  writes m.toNat (rFclkSet f.toNat) v s

/-- MEASURE_START (R511): a write of `MEAS_CTRL` with START set. -/
def execMeasureStart (m : BitVec 7) (v : Word) (s : State) : Host.Outcome State Fault Refusal :=
  writes m.toNat rMeasCtrl (setFld v 10 1 1) s

/-- CLK_ENABLE (R514–R516). -/
def execClkEnable (m : BitVec 7) (one : Bool) (v : Word) (s : State) : Host.Outcome State Fault Refusal :=
  writes m.toNat (if one then rClkEnable1 else rClkEnable0) v s

/-- MODULE_RESET (R530, R533): a write of `RESET_CTRL` with MODULE set. -/
def execModuleReset (m : BitVec 7) (v : Word) (s : State) : Host.Outcome State Fault Refusal :=
  writes m.toNat rResetCtrl (setFld v 0 1 1) s

/-- FABRIC_RESET (R530–R533): a write of `RESET_CTRL` with FABRIC set and MODULE clear. -/
def execFabricReset (m : BitVec 7) (v : Word) (s : State) : Host.Outcome State Fault Refusal :=
  writes m.toNat rResetCtrl (setFld v 0 2 2) s

/-- UPD_WRITE (R545): `UPD_CMD` takes WRITE. -/
def execUpdWrite (m : BitVec 7) (v : Word) (s : State) : Host.Outcome State Fault Refusal :=
  writes m.toNat rUpdCmd (setFld v 0 3 1) s

/-- ACTIVATE (R545). -/
def execActivate (m : BitVec 7) (v : Word) (s : State) : Host.Outcome State Fault Refusal :=
  writes m.toNat rUpdCmd (setFld v 0 3 2) s

/-- RAISE_SVN (R545). -/
def execRaiseSvn (m : BitVec 7) (v : Word) (s : State) : Host.Outcome State Fault Refusal :=
  writes m.toNat rUpdCmd (setFld v 0 3 3) s

/-- STREAM (R545). -/
def execStream (m : BitVec 7) (v : Word) (s : State) : Host.Outcome State Fault Refusal :=
  writes m.toNat rUpdCmd (setFld v 0 3 4) s

/-- REVOKE (R545). -/
def execRevoke (m : BitVec 7) (v : Word) (s : State) : Host.Outcome State Fault Refusal :=
  writes m.toNat rUpdCmd (setFld v 0 3 5) s

/-- UPD_DATA (R545): the next 8 bytes of a STREAM. -/
def execUpdData (m : BitVec 7) (v : Word) (s : State) : Host.Outcome State Fault Refusal := writes m.toNat rUpdData v s

end Sys2Proof.Machine
end

