-- ==== Sys2Proof/Machine/Ethernet.lean ====
section
/-! DEFINITION. The Ethernet data ports, RDMA and the management port (10). -/

namespace Sys2Proof.Machine

/-! ### Frames (R394, R395, R398) -/

/-- A data port is on, clocked and up. -/
def ethUp (s : State) (n : Nat) : Bool :=
  n < 4 && s.rf (rEthCtrl n) 0 1 == 1 && !unitGated s (48 + n) && s.rf (rEthStatus n) 0 1 == 1

/-- Frame counters (R440): 0 RX_FRAMES, 1 TX_FRAMES, 2 RX_DROP, 3 PAUSE_RX, 4 PAUSE_TX, 5 CNP_RX, 6 CNP_TX, 7 ECN_CE. -/
def ethCount (n k : Nat) (s : State) : State := s.count (rEthCount n k) 1

/-- The tag and the priority of a frame that leaves port `n` (R394, R398). -/
def frameHdr (s : State) (n prio dscp : Nat) : FrameOut :=
  { vid := if s.rf (rEthCtrl n) 3 1 = 1 then some (BitVec.ofNat 12 (s.rf (rEthCtrl n) 4 12)) else none,
    prio := BitVec.ofNat 3 prio, dscp := BitVec.ofNat 6 dscp }

/-- Transmission of a priority is stopped. -/
def ethPaused (s : State) (n prio : Nat) : Bool := sget 0 (s.eth n).paused prio != 0

/-- Send a frame through a data port; it waits while its priority is paused (R398). -/
def ethSend (n prio dscp : Nat) (x : Sent) (s : State) : State :=
  let h := frameHdr s n prio dscp
  if ethPaused s n prio then s.setEth n { s.eth n with out := (s.eth n).out ++ [(h, x)] }
  else ethCount n 1 (s.emit (.frame (BitVec.ofNat 2 n) h x))

/-- Frames that waited go out in their order once their priority is not paused. -/
def ethDrain (n : Nat) (s : State) : State :=
  let x := s.eth n
  let goes := fun (f : FrameOut × Sent) => !ethPaused s n f.1.prio.toNat
  (x.out.filter goes).foldl (fun s f => ethCount n 1 (s.emit (.frame (BitVec.ofNat 2 n) f.1 f.2)))
    (s.setEth n { x with out := x.out.filter (fun f => !goes f) })

/-- Send a pause frame: a control frame that no tag and no pause concerns. -/
def pauseSend (n : Nat) (prio : BitVec 3) (on : Bool) (s : State) : State :=
  ethCount n 4 (ethCount n 1 (s.emit (.pause (BitVec.ofNat 2 n) prio on)))

def pfcOn (s : State) (n prio : Nat) : Bool := s.rf (rEthCtrl n) (16 + prio) 1 == 1

/-- Bytes of the receive buffer that each priority has (R398). -/
def pfcShare (s : State) (n : Nat) : Nat := 2097152 / max 1 ((List.range 8).filter (pfcOn s n)).length

/-- The port takes a frame of a size and a tag (R394). -/
def frameFits (s : State) (n bytes : Nat) (vlan : Option (BitVec 12)) : Bool :=
  bytes ≤ s.rf (rEthCtrl n) 32 14 &&
    match vlan with
    | none => true
    | some v => v == 0 || v.toNat == s.rf (rEthCtrl n) 4 12

/-- The port accepts the frame (R394, R395). -/
def frameOk (s : State) (f : Frame) : Bool := frameFits s f.port.toNat f.bytes f.vlan && f.roce

/-- Bytes enter the buffer of a priority of port `n`; above XOFF a pause frame goes out (R398). -/
def frameBuffer (n : Nat) (prio : BitVec 3) (bytes : Nat) (s : State) : State :=
  let q := prio.toNat
  let x := s.eth n
  let fill := sget 0 x.fill q + bytes
  let s := s.setEth n { x with fill := sset x.fill q fill }
  if pfcOn s n q && !x.xoff.contains q && s.rf (rPfcThr n) 0 16 * 1024 < fill then
    pauseSend n prio true (s.setEth n { s.eth n with xoff := q :: x.xoff })
  else s

/-- The share of a priority without flow control has no room for more bytes (R398). -/
def shareFull (s : State) (n : Nat) (prio : BitVec 3) (bytes : Nat) : Bool :=
  !pfcOn s n prio.toNat && pfcShare s n < sget 0 (s.eth n).fill prio.toNat + bytes

/-- Add to a frame counter. -/
def ethCounts (n k v : Nat) (s : State) : State := s.count (rEthCount n k) v

/-- DSCP of the packets of a queue pair (R400). -/
def qpDscp (s : State) (q : Nat) : Nat := s.rf (rQp q 2) 48 6

/-- Send a RoCE v2 packet of a queue pair: priority RDMA_PCP, its DSCP (R398). -/
def roceSend (n q : Nat) (x : Sent) (s : State) : State := ethSend n (s.rf (rEthCtrl n) 24 3) (qpDscp s q) x s

/-- `k` RoCE v2 frames of one request or answer arrive at an up port: the state with its counts and its buffer, and whether they
are accepted. -/
def frameIn (f : Frame) (k : Nat) (q : BitVec 12) (s : State) : Bool × State :=
  let n := f.port.toNat
  let s := ethCounts n 0 k s
  if !frameOk s f || shareFull s n f.prio (k * f.bytes) then (false, ethCounts n 2 k s)
  else
    let s := frameBuffer n f.prio (k * f.bytes) s
    let s := if f.ce then ethCounts n 7 k s else s
    (true, if f.ce && f.cnpGap then ethCount n 6 (roceSend n q.toNat (.cnp f.port q) s) else s)

/-! ### Queue pairs (R396–R403) -/

def qpState (s : State) (q : Nat) : Nat := s.rf (rQp q 0) 0 3
def qpPort (s : State) (q : Nat) : Nat := s.rf (rQp q 0) 4 2
def qpDomain (s : State) (q : Nat) : Nat := s.rf (rQp q 0) 6 6
def qpMtu (s : State) (q : Nat) : Nat := 512 * 2 ^ s.rf (rQp q 0) 12 3

/-- One RoCE v2 frame that is no request arrives: taken, or dropped when a queue pair of another port is named (R394, R398,
R399). -/
def roceTake (f : Frame) (q : BitVec 12) (act : State → State) (s : State) : State :=
  let n := f.port.toNat
  if !ethUp s n then s
  else
    let r := frameIn f 1 q s
    if !r.1 then r.2
    else if qpPort r.2 q.toNat ≠ n then ethCount n 2 r.2
    else act r.2

/-- The device moves a queue pair to the error state (R402, R429). -/
def qpError (q : Nat) (s : State) : State :=
  let s := ((s.setRf (rQp q 0) 0 3 4).orReg rEthCause 32).setReg rQpErrNum (BitVec.ofNat 64 q)
  qpStop q s

/-- Packets of `n` bytes. -/
def packets (s : State) (q n : Nat) : Nat := max 1 ((n + qpMtu s q - 1) / qpMtu s q)

/-- The queue pair expects the next packet after `n` bytes (R400). -/
def qpNext (q n : Nat) (s : State) : State := s.setRf (rQp q 1) 24 24 (s.rf (rQp q 1) 24 24 + packets s q n)

/-- An RDMA access is denied (R397, R413, R414). -/
def rdmaDeny (q : BitVec 12) (code : Code) (write : Bool) (a : Nat) (s : State) : State :=
  let n := qpPort s q.toNat
  let s := setHostCause hcRdmaDeny (hostErr code (qpDomain s q.toNat) write a s)
  let s := if code = eGated then setHostCause hcGated s else s
  roceSend n q.toNat (.nakAccess q) s

/-- Where an RDMA request goes (R549). -/
inductive Target where
  | hbm | drawer | csr | nowhere
deriving DecidableEq, Repr

def targetOf (a : Nat) : Target :=
  if a < hbmEnd then .hbm else if bDRAWER ≤ a && a < drawerEnd then .drawer else if bSYS ≤ a && a < csrEnd then .csr
  else .nowhere

/-- An RDMA access of a form that R417 or R560 does not allow. -/
def rdmaInvalid (q : BitVec 12) (write : Bool) (a : Nat) (s : State) : State :=
  let t := hostErr eAlign (qpDomain s q.toNat) write a s
  roceSend (qpPort s q.toNat) q.toNat (.nakInvalid q) (if targetOf a = .csr then setHostCause hcRegErr t else t)

/-- What stands against an access to a range of the drawer window (R410, R414, R549, R560). -/
def windowDenied (s : State) (m a n : Nat) (write : Bool) : Option Code :=
  let cabs := (List.range ((a + n - 1 - bDRAWER) / 0x400000 - (a - bDRAWER) / 0x400000 + 1)).map
    (fun i => (a - bDRAWER) / 0x400000 + i)
  if drawerEnd < a + n then some eRange
  else if cabs.any (fun c => unitGated s (c / 256)) then some eGated
  else if !cabs.all (fun c => accDrawer s m c write) then some eAccess
  else none

/-- Rows of the drawer window from address `a` on, read or written in address order. -/
def windowReads (a : Nat) : Nat → State → List Byte × State
  | 0, s => ([], s)
  | k + 1, s =>
    let i := (a - bDRAWER) / 32
    let r := drawerRead (i / 512) (i % 512) s
    let t := windowReads (a + 32) k r.2
    (leBytes 32 r.1.toNat ++ t.1, t.2)

/-- Rows of a host write into the drawer window, in address order, as dowel writes of 1 to 8 rows of one drawer that take credits
(R114, R560); rows of a mode region are written as plain rows and no pointer moves (R338). What is left where a drawer has no
room. -/
def windowWrites (a : Nat) (data : List Byte) : Nat → State → List Byte × Nat × State
  | 0, s => (data, a, s)
  | k + 1, s =>
    let i := (a - bDRAWER) / 32
    let g := i / 512
    let n := min (min 8 (data.length / 32)) (512 - i % 512)
    if n = 0 || !landingRoom s g n then (data, a, s)
    else
      let rows := (chunks 32 n data).map (fun b => BitVec.ofNat 256 (ofBytes b))
      windowWrites (a + 32 * n) (data.drop (32 * n)) k (drawerWrites g (i % 512) rows s)

/-- An acknowledged RDMA WRITE. -/
def rdmaWriteDone (q : BitVec 12) (n : Nat) (s : State) : State :=
  roceSend (qpPort s q.toNat) q.toNat (.rdmaAck q) (qpNext q.toNat n s)

/-- Rows of a request that has passed its checks are written as drawers have room; the acknowledgement follows the last one. -/
def rdmaRows (x : HostReq) (s : State) : Option HostReq × State :=
  let r := windowWrites x.addr x.data (x.data.length / 32) s
  if r.1.isEmpty then (none, rdmaWriteDone x.q x.len r.2.2)
  else (some { x with moved := true, data := r.1, addr := r.2.1 }, r.2.2)

/-- An RDMA WRITE with a valid key (R403, R409, R417, R560): what of it waits. -/
def rdmaStore (x : HostReq) (s : State) : Option HostReq × State :=
  let q := x.q
  let m := qpDomain s q.toNat
  let a := x.addr
  let n := x.len
  if x.moved then rdmaRows x s
  else match targetOf a with
  | .hbm =>
    (none, match hbmDenied s m kWrite a n with
      | some c => rdmaDeny q c true a s
      | none => rdmaWriteDone q n (hbmWrite none a x.data s))
  | .drawer =>
    if a % 32 ≠ 0 || n = 0 || n % 32 ≠ 0 then (none, rdmaInvalid q true a s)
    else
      match windowDenied s m a n true with
      | some c => (none, rdmaDeny q c true a s)
      | none => rdmaRows x s
  | .csr =>
    if n ≠ 8 || a % 8 ≠ 0 then (none, rdmaInvalid q true a s)
    else
      let r := csrWrite m a (BitVec.ofNat 64 (ofBytes x.data)) s
      (none, if r.1 = cOk then rdmaWriteDone q n r.2
        else roceSend (qpPort s q.toNat) q.toNat (.nakAccess q) (if r.1 = eAccess then setHostCause hcRdmaDeny r.2 else r.2))
  | .nowhere => (none, rdmaDeny q eRange true a s)

/-- Bytes of an answer's frame beside its data: Ethernet header and check sequence, a tag, IP, UDP, the transport headers of RoCE
v2 and its check sum (PRESUMED, log 87). -/
def answerHeaders (s : State) (q : Nat) : Nat :=
  let n := qpPort s q
  18 + 4 * s.rf (rEthCtrl n) 3 1 + (if s.rf (rQp q 0) 3 1 = 1 then 40 else 20) + 8 + 12 + 4 + 4

/-- Data of one packet of an answer: the path MTU, and no frame above MAXFRAME (R394, R396, log 87). -/
def answerMtu (s : State) (q : Nat) : Nat := min (qpMtu s q) (s.rf (rEthCtrl (qpPort s q)) 32 14 - answerHeaders s q)

/-- An answered RDMA READ: the packets of the data, each of which the queue pair counts (R396, R400). -/
def rdmaReadDone (q : BitVec 12) (data : List Byte) (s : State) : State :=
  let i := q.toNat
  let m := answerMtu s i
  let k := max 1 ((data.length + m - 1) / m)
  (chunks m k data).foldl (fun s b => roceSend (qpPort s i) i (.rdmaData q b) s)
    (s.setRf (rQp i 1) 24 24 (s.rf (rQp i 1) 24 24 + k))

/-- The answer to an RDMA READ with a valid key. -/
def rdmaFetch (q : BitVec 12) (a n : Nat) (s : State) : State :=
  let m := qpDomain s q.toNat
  match targetOf a with
  | .hbm =>
    match hbmDenied s m kRead a n with
    | some c => rdmaDeny q c false a s
    | none =>
      let r := hbmReadPlain none a n s
      rdmaReadDone q r.1 r.2
  | .drawer =>
    if a % 32 ≠ 0 || n = 0 || n % 32 ≠ 0 then rdmaInvalid q false a s
    else
      match windowDenied s m a n false with
      | some c => rdmaDeny q c false a s
      | none =>
        let r := windowReads a (n / 32) s
        rdmaReadDone q r.1 r.2
  | .csr =>
    if n ≠ 8 || a % 8 ≠ 0 then rdmaInvalid q false a s
    else
      let r := csrRead m a s
      if r.1 = cOk then rdmaReadDone q (leBytes 8 r.2.1.toNat) r.2.2
      else roceSend (qpPort s q.toNat) q.toNat (.nakAccess q)
        (if r.1 = eAccess then setHostCause hcRdmaDeny r.2.2 else r.2.2)
  | .nowhere => rdmaDeny q eRange false a s

/-- A request is served (R397): what of it waits. -/
def rdmaServe (x : HostReq) (s : State) : Option HostReq × State :=
  if s.rf (rDomainKey (qpDomain s x.q.toNat)) 0 32 ≠ x.key.toNat then (none, rdmaDeny x.q eAccess x.write x.addr s)
  else if x.write then rdmaStore x s
  else (none, rdmaFetch x.q x.addr x.len s)

/-- Requests are served in order; one waits behind those of its queue pair that wait (R403). Those of a queue pair that is no
longer ready are dropped. -/
def rdmaServes : List HostReq → List HostReq → State → List HostReq × State
  | left, [], s => (left, s)
  | left, x :: xs, s =>
    if qpState s x.q.toNat ≠ 2 && qpState s x.q.toNat ≠ 3 then rdmaServes left xs s
    else if left.any (fun y => y.q == x.q) then rdmaServes (left ++ [x]) xs s
    else
      let r := rdmaServe x s
      rdmaServes (left ++ r.1.toList) xs r.2

/-- A request joins those that wait, and what can be served is. -/
def rdmaRun (xs : List HostReq) (s : State) : State :=
  let r := rdmaServes [] (s.rdma ++ xs) { s with rdma := [] }
  { r.2 with rdma := r.1 }

/-- `k` frames of a RoCE v2 request on a queue pair that is ready to receive: an unsupported one (R396), or one that is served. A
queue pair in another state, or of another port, takes no packet. -/
def rdmaRequest (f : Frame) (supported : Bool) (x : HostReq) (s : State) : State :=
  let n := f.port.toNat
  if !ethUp s n then s
  else
    let k := if x.write then packets s x.q.toNat x.len else 1
    let r := frameIn f k x.q s
    let t := r.2
    let st := qpState t x.q.toNat
    if !r.1 then t
    else if (st ≠ 2 && st ≠ 3) || qpPort t x.q.toNat ≠ n then ethCounts n 2 k t
    else if !supported then roceSend n x.q.toNat (.nakInvalid x.q) (qpError x.q.toNat t)
    else rdmaRun [x] t

/-- RDMA_WRITE (R396, R397, R413, R417, R560). -/
def execRdmaWrite (f : Frame) (supported : Bool) (q : BitVec 12) (key : BitVec 32) (addr : Word) (data : List Byte)
    (s : State) : Host.Outcome State Fault Refusal :=
  done s (rdmaRequest f supported
    { q := q, key := key, write := true, addr := addr.toNat, len := data.length, data := data } s)

/-- RDMA_READ (R396, R397, R413, R417, R560). -/
def execRdmaRead (f : Frame) (supported : Bool) (q : BitVec 12) (key : BitVec 32) (addr : Word) (len : Nat)
    (s : State) : Host.Outcome State Fault Refusal :=
  done s (rdmaRequest f supported { q := q, key := key, write := false, addr := addr.toNat, len := len, data := [] } s)

/-! ### Small protocols (R395, R404) -/

def ipv6Of (s : State) (n : Nat) : Nat := (s.reg (rIpv6Hi n)).toNat * 2 ^ 64 + (s.reg (rIpv6Lo n)).toNat

/-- A packet to a data port is answered when its frame fits, its priority has room and it names the port's address, and dropped
when not (R394, R395, R398). Priority and DSCP of the answer are 0 (log 88). -/
def portAnswer {w : Nat} (f : Packet w) (mine : Bool) (x : Sent) (s : State) : State :=
  let n := f.port.toNat
  if !ethUp s n then s
  else
    let s := ethCount n 0 s
    if frameFits s n f.bytes f.vlan && !shareFull s n f.prio f.bytes && mine then ethSend n 0 0 x (frameBuffer n f.prio f.bytes s)
    else ethCount n 2 s

/-- ARP_REQUEST (R395, R404): port 4 is the management port. -/
def execArpRequest (f : Packet 3) (target : BitVec 32) (mac : BitVec 48) (s : State) :
    Host.Outcome State Fault Refusal :=
  let k := f.port.toNat
  if k < 4 then done s (portAnswer f (s.rf (rIpv4 k) 0 32 == target.toNat) (.arp f.port mac) s)
  else done s (if k = 4 && mgmtUp s && s.rf rMgmtIpv4 0 32 == target.toNat then s.emit (.arp f.port mac) else s)

/-- NEIGHBOUR_SOLICITATION (R395). -/
def execNeighbourSolicitation (f : Packet 2) (target : BitVec 128) (mac : BitVec 48) (s : State) :
    Host.Outcome State Fault Refusal :=
  done s (portAnswer f (ipv6Of s f.port.toNat == target.toNat) (.neighbour f.port mac) s)

/-- ECHO_REQUEST (R395, R404): the management port answers ICMP. -/
def execEchoRequest (f : Packet 3) (v6 : Bool) (target : BitVec 128) (data : List Byte) (s : State) :
    Host.Outcome State Fault Refusal :=
  let k := f.port.toNat
  if k < 4 then
    done s (portAnswer f ((if v6 then ipv6Of s k else s.rf (rIpv4 k) 0 32) == target.toNat) (.echo f.port data) s)
  else done s (if k = 4 && mgmtFull s && !v6 && s.rf rMgmtIpv4 0 32 == target.toNat then s.emit (.echo f.port data) else s)

/-! ### Flow and congestion control (R398, R399) -/

/-- PFC_XON (R398): `drained` bytes have left a priority's buffer; below XON a zero-time pause ends a pause. -/
def execPfcXon (n : BitVec 2) (prio : BitVec 3) (drained : Nat) (s : State) : Host.Outcome State Fault Refusal :=
  let k := n.toNat
  let q := prio.toNat
  let x := s.eth k
  if !ethUp s k then done s s
  else
    let fill := sget 0 x.fill q - drained
    let t := s.setEth k { x with fill := sset x.fill q fill }
    if x.xoff.contains q && fill < t.rf (rPfcThr k) 16 16 * 1024 then
      done s (pauseSend k prio false (t.setEth k { t.eth k with xoff := x.xoff.filter (· != q) }))
    else done s t

/-- PAUSE_FRAME (R398): a priority under flow control stops for the time stated; a time of 0 ends the pause. -/
def execPauseFrame (n : BitVec 2) (prio : BitVec 3) (time : BitVec 16) (s : State) : Host.Outcome State Fault Refusal :=
  let k := n.toNat
  if !ethUp s k then done s s
  else
    let t := ethCount k 3 (ethCount k 0 s)
    let x := t.eth k
    if pfcOn t k prio.toNat then done s (ethDrain k (t.setEth k { x with paused := sset x.paused prio.toNat time.toNat }))
    else done s t

/-- PAUSE_END (R398): the time of a received pause has run out. -/
def execPauseEnd (n : BitVec 2) (prio : BitVec 3) (s : State) : Host.Outcome State Fault Refusal :=
  let x := s.eth n.toNat
  done s (ethDrain n.toNat (s.setEth n.toNat { x with paused := sset x.paused prio.toNat 0 }))

def qpRate (s : State) (q : Nat) : Nat := s.rf (rQp q 5) 0 32

/-- The rate of a queue pair falls with a CNP (R399). -/
def cnpTake (k q : Nat) (s : State) : State :=
  let t := ethCount k 5 s
  if qpState t q = 3 then
    let r := qpRate t q
    t.setRf (rQp q 5) 0 32 (max (t.rf (rCcCtrl k) 40 20) (r - r / 2 ^ t.rf (rCcCtrl k) 8 4))
  else t

/-- CNP (R394, R398, R399). -/
def execCnp (f : Frame) (q : BitVec 12) (s : State) : Host.Outcome State Fault Refusal :=
  done s (roceTake f q (cnpTake f.port.toNat q.toNat) s)

/-- RATE_INCREASE (R399): INC_PERIOD has passed without a CNP. -/
def execRateIncrease (q : BitVec 12) (s : State) : Host.Outcome State Fault Refusal :=
  let i := q.toNat
  let k := qpPort s i
  if qpState s i = 3 && !unitGated s (48 + k) then
    done s (s.setRf (rQp i 5) 0 32 (min (ethRate s k) (qpRate s i + s.rf (rCcCtrl k) 12 16)))
  else done s s

/-! ### The requester (R402) -/

/-- The ring whose completion on a queue pair waits for its acknowledgement: the lowest of them (log 38). -/
def ringUnacked (s : State) (q : Nat) : Option Nat := (List.range 256).find? (fun r => (s.ring r).unacked.contains q)

/-- Codes of NAKs: 0 is the sequence error (PRESUMED: RoCE v2). -/
def nakSequence : Byte := 0

/-- An answer on a queue pair: it acknowledges a request, or a NAK other than the sequence error moves the queue pair to error. -/
def ackTake (q : Nat) (nak : Option Byte) (s : State) : State :=
  match ringUnacked s q, nak with
  | none, _ => s
  | some r, none => s.setRing r { s.ring r with unacked := (s.ring r).unacked.erase q }
  | some _, some c => if c = nakSequence || qpState s q ≠ 3 then s else qpError q s

/-- ACKNOWLEDGEMENT (R394, R398, R399, R402): the frame of an answer arrives at a data port. -/
def execAcknowledgement (x : RoceFrame) (nak : Option Byte) (s : State) : Host.Outcome State Fault Refusal :=
  done s (roceTake x.frame x.q (ackTake x.q.toNat nak) s)

/-- RETRY_TIMEOUT (R402): a request is unacknowledged after its retries. -/
def execRetryTimeout (q : BitVec 12) (s : State) : Host.Outcome State Fault Refusal :=
  let i := q.toNat
  if (ringUnacked s i).isSome && qpState s i = 3 then done s (qpError i s) else done s s

/-! ### Links of the ports (R441, R518) -/

/-- The link of data port `n` is up or down: a change sets its bit of `ETH_CAUSE` (R440, R441). -/
def ethLink (n : Nat) (up : Bool) (s : State) : State :=
  if s.rf (rEthStatus n) 0 1 = up.toNat then s
  else (s.setReg (rEthStatus n) (BitVec.ofNat 64 up.toNat)).orReg rEthCause (2 ^ n)

/-- LINK_CHANGE (R441): port 4 is the management port. A data port that is off or gated has no link. -/
def execLinkChange (n : BitVec 3) (up : Bool) (s : State) : Host.Outcome State Fault Refusal :=
  let k := n.toNat
  if k < 4 then
    if up && (s.rf (rEthCtrl k) 0 1 = 0 || unitGated s (48 + k)) then done s s else done s (ethLink k up s)
  else done s (if k = 4 && mgmtUp s then s.orReg rEthCause 16 else s)

/-- REF156_LOSS (R364, R518): the cause is set, and every Nolosh port and data port fails. -/
def execRef156Loss (s : State) : Host.Outcome State Fault Refusal :=
  let t := s.orReg rClkCause 0x20000
  let t := (List.range 16).foldl (fun s n => portFail n 1 s) t
  done s ((List.range 4).foldl (fun s n => ethLink n false s) t)

/-! ### The register protocol (R405, R406) -/

/-- The source address is one of `MGMT_PEER`. -/
def mgmtPeer (s : State) (src : BitVec 32) : Bool :=
  (List.range 4).any (fun k => s.rf (rMgmtPeer k) 32 1 == 1 && s.rf (rMgmtPeer k) 0 32 == src.toNat)

/-- A request of the register protocol with the value `v` in its last 8 bytes: the answer goes to its source and repeats its
first 16 bytes but for the status. -/
def mgmtRequest (src : UdpSource) (magic : BitVec 16) (op : Byte) (seq : BitVec 32) (a v : Word) (s : State) : State :=
  if !mgmtUp s then s
  else if !mgmtPeer s src.ip then s.count rMgmtDeny 1
  else if magic ≠ 0x4D47 || (op ≠ 1 && op ≠ 2) then s.emit (.mgmtResp src.ip src.port magic op eOpcode seq a 0)
  else if op = 1 then
    let r := csrRead mMgmt a.toNat s
    r.2.2.emit (.mgmtResp src.ip src.port magic op r.1 seq a r.2.1)
  else
    let r := csrWrite mMgmt a.toNat v s
    r.2.emit (.mgmtResp src.ip src.port magic op r.1 seq a 0)

/-- REG_READ (R405, R406): a request that carries no value. -/
def execRegRead (src : UdpSource) (magic : BitVec 16) (op : Byte) (seq : BitVec 32) (addr : Word) (s : State) :
    Host.Outcome State Fault Refusal :=
  done s (mgmtRequest src magic op seq addr 0 s)

/-- REG_WRITE (R405, R406). -/
def execRegWrite (src : UdpSource) (magic : BitVec 16) (op : Byte) (seq : BitVec 32) (addr v : Word) (s : State) :
    Host.Outcome State Fault Refusal :=
  done s (mgmtRequest src magic op seq addr v s)

/-- ATTENTION_PERIOD (R432): EVT_PERIOD has passed with the masked summary non-zero. -/
def execAttentionPeriod (s : State) : Host.Outcome State Fault Refusal :=
  done s (if s.rf rEvtDest 48 1 = 1 && mgmtFull s && attnMasked s ≠ 0 then attentionFrame s else s)

end Sys2Proof.Machine
end

