-- ==== Sys2Proof/Machine/Rings.lean ====
section
/-! DEFINITION. Command rings (10, 11): the fetch of descriptors, their commands, the completion queues. -/

namespace Sys2Proof.Machine

/-! ### Descriptors (R421–R424) -/

/-- A command descriptor (R423). -/
abbrev Cmd := BitVec 512

def dOp (d : Cmd) : Nat := fld d 0 8
def dVersion (d : Cmd) : Nat := fld d 8 4
def dCtx (d : Cmd) : Nat := fld d 13 3
def dDepSeq (d : Cmd) : Nat := fld d 64 32
def dDepRing (d : Cmd) : Nat := fld d 96 8
/-- A version 2 descriptor that waits for another ring. -/
def dDepEn (d : Cmd) : Bool := dVersion d == 2 && fld d 104 1 == 1

/-- The opcodes of R424, R449 and R498. -/
def dOpOk (op : Nat) : Bool := (1 ≤ op && op ≤ 6) || (0x10 ≤ op && op ≤ 0x15) || (0x18 ≤ op && op ≤ 0x1B)

/-- The version is 1 or 2 and `SYS.STEPPING.MLADD_VERS` offers it (R28, R422). -/
def dVersionOk (s : State) (v : Nat) : Bool := (v == 1 || v == 2) && s.rf rStepping (9 + v) 1 == 1

/-- Byte offset of the first illegal header field behind the version: reserved bits, the fields that version 1 reserves, a
DEP_RING that is off (R7, R423). -/
def dHeaderBad (s : State) (d : Cmd) : Option Nat :=
  if fld d 12 1 ≠ 0 then some 1
  else if fld d 16 16 ≠ 0 then some 2
  else if dVersion d = 1 then
    if fld d 64 32 ≠ 0 then some 8 else if fld d 96 8 ≠ 0 then some 12 else if fld d 104 24 ≠ 0 then some 13 else none
  else if fld d 104 1 = 1 ∧ !ringOn s (dDepRing d) then some 12
  else if fld d 105 23 ≠ 0 then some 13
  else none

/-- The dependency of a descriptor has completed (R421). -/
def depMet (s : State) (d : Cmd) : Bool :=
  !(dDepEn d && ringOn s (dDepRing d)) || (s.rf (rRingDone (dDepRing d)) 0 32 + 2 ^ 32 - dDepSeq d) % 2 ^ 32 < 2 ^ 31

/-- Complete with a rejection: the code and the byte offset of the field (R422, R427). -/
def reject (r : Nat) (code : Code) (off : Nat) (s : State) : State := completeRing r code off s

/-- A fetched descriptor whose dependency is met and whose opcode or version is not accepted completes (R421, R422). -/
def headerCheck (r : Nat) (s : State) : State :=
  match (s.ring r).cur with
  | none => s
  | some d =>
    if !depMet s d then s
    else if !dOpOk (dOp d) then reject r eOpcode 0 s
    else if !dVersionOk s (dVersion d) then reject r eVersion 1 s
    else s

/-- DESCRIPTOR_FETCH (R421, R422, R429): the next descriptor is copied and HEAD advances. A ring whose plinth is gated waits and
notes it (R414). -/
def execDescriptorFetch (r : BitVec 8) (s : State) : Host.Outcome State Fault Refusal :=
  let r := r.toNat
  let x := s.ring r
  let head := s.rf (rRingHead r) 0 32
  let a := (s.reg (rRingBase r)).toNat + 64 * (head % ringSize s r)
  if !ringOn s r then done s s
  else if x.cur.isSome then done s (if x.started then s else headerCheck r s)
  else if head = s.rf (rRingTail r) 0 32 || 16 ≤ x.held.length || hbmEnd < a + 64 then done s s
  else if hbmGated s a 64 then done s (setHostCause hcGated s)
  else
    let b := hbmReadPlain none a 64 s
    let t := b.2.setRing r { b.2.ring r with cur := some (BitVec.ofNat 512 (ofBytes b.1)), started := false }
    done s (headerCheck r (t.setRf (rRingHead r) 0 32 (head + 1)))

/-- The descriptor of ring `r` is one of an opcode, and may start: its command acts (R421, R422). -/
def command (r op : Nat) (f : Cmd → State → State) (s : State) : State :=
  match (s.ring r).cur with
  | some d =>
    if ringOn s r && dOp d == op && (s.ring r).ending.isNone && ((s.ring r).started || (depMet s d && dVersionOk s (dVersion d)))
    then f d s else s
  | none => s

/-- A command whose unit is gated completes with E_GATED (R414). -/
def unlessGated (r unit : Nat) (f : State → State) (s : State) : State :=
  if unitGated s unit then reject r eGated 0 (setHostCause hcGated s) else f s

/-- The first code that applies, by the order of R561, with the byte offset of its field. -/
def firstBad (cs : List (Bool × Code × Nat)) : Option (Code × Nat) :=
  match firstCode (cs.map (fun c => (c.1, c.2.1))) with
  | none => none
  | some code => (cs.find? (fun c => c.1 && c.2.1 == code)).map (·.2)

/-- An illegal field of the header of ring `r`'s descriptor. -/
def headerBad (s : State) (r : Nat) : List (Bool × Code × Nat) :=
  (((s.ring r).cur.bind (dHeaderBad s)).map (fun off => (true, eRange, off))).toList

/-- A command with its rejections, those of the header among them: the first that applies, or its effect (R422, R561). -/
def checked (r : Nat) (cs : List (Bool × Code × Nat)) (f : State → State) (s : State) : State :=
  match firstBad (headerBad s r ++ cs) with
  | some (code, off) => reject r code off s
  | none => f s

/-- The descriptor has started and goes on. -/
def markStarted (r : Nat) (s : State) : State := s.setRing r { s.ring r with started := true }

/-! ### The commands of R424 -/

/-- CMD_NOP (R424). -/
def execCmdNop (r : BitVec 8) (s : State) : Host.Outcome State Fault Refusal :=
  done s (command r.toNat 0x01 (fun _ s => checked r.toNat [] (completeRing r.toNat cOk 0) s) s)

/-- The resident context with a CID. -/
def slotOfCid (s : State) (p cid : Nat) : Option Nat :=
  slots.find? (fun sl => (s.ctxAt p sl).alive && (s.ctxAt p sl).cid.toNat == cid)

/-- A RUN may join a context: no other RUN is attached to it, and no control program of it runs. -/
def runRoom (x : Ctx) : Bool := x.run.isNone && !x.prog

/-- A RUN joins the context with a CID, resident or parked, once it may, and starts when that one holds the fabric (R425,
R450). -/
def runStart (r p : Nat) (cid : BitVec 32) (d : Cmd) (s : State) : State :=
  let q : RunReq := { ring := r, seq := BitVec.ofNat 32 (s.rf (rRingDone r) 0 32), cookie := BitVec.ofNat 32 (fld d 32 32),
                      image := fld d 128 64 }
  match slotOfCid s p cid.toNat with
  | some sl =>
    let s := if !(s.ring r).started && runRoom (s.ctxAt p sl) then
        markStarted r (s.setCtxAt p sl { s.ctxAt p sl with run := some q })
      else s
    if isRunning s p sl && (s.ring r).started then runKick p s else s
  | none =>
    let mine := fun (k : Parked) => k.ctx.cid == cid && runRoom k.ctx
    if !(s.ring r).started && (s.part p).parked.any mine then
      markStarted r (s.setPart p { s.part p with
        parked := (s.part p).parked.map (fun k => if mine k then { k with ctx := { k.ctx with run := some q } } else k) })
    else s

/-- RUN (R425, R450): the descriptor is bound to the CID of the context it names. -/
def execRun (r : BitVec 8) (s : State) : Host.Outcome State Fault Refusal :=
  let r := r.toNat
  let p := ringPart s r
  done s (command r 0x02 (fun d => unlessGated r 56 (fun s =>
    match (s.ring r).cid with
    | some cid => runStart r p cid d s
    | none => checked r [(!(s.ctxAt p (dCtx d)).alive, eState, 1)] (fun s =>
        let cid := (s.ctxAt p (dCtx d)).cid
        runStart r p cid d (s.setRing r { s.ring r with cid := some cid })) s)) s)

/-- SEM (R424): MODE 0 sets the semaphore, MODE 1 adds a signed value. -/
def execSem (r : BitVec 8) (s : State) : Host.Outcome State Fault Refusal :=
  let r := r.toNat
  let p := ringPart s r
  done s (command r 0x03 (fun d => unlessGated r 56 (fun s =>
    let i := fld d 128 6
    let v : Int := if fld d 136 1 = 0 then (fld d 160 32 : Nat) else semOf (s.ctxAt p (dCtx d)) i + toSigned (fld d 160 32) 32
    checked r [(!(s.ctxAt p (dCtx d)).alive, eState, 1), (v < 0 || 0xFFFFFFFF < v, eRange, 20)]
      (fun s => completeRing r cOk 0 (postSem p (dCtx d) i v.toNat s)) s)) s)

/-- EVENT (R424): adds to an event, saturating. -/
def execEvent (r : BitVec 8) (s : State) : Host.Outcome State Fault Refusal :=
  let r := r.toNat
  let p := ringPart s r
  done s (command r 0x04 (fun d => unlessGated r 56 (checked r
    [(!(s.ctxAt p (dCtx d)).alive, eState, 1), (fld d 160 32 = 0, eRange, 20)]
    (fun s => completeRing r cOk 0 (postEvent p (dCtx d) (fld d 128 8) (fld d 160 32) s)))) s)

/-- Write a 64-bit value to every word of a range (R424). -/
def fillWords (a n v : Nat) (s : State) : State :=
  if v = 0 then hbmZero none a n s else hbmWrite none a ((List.replicate (n / 8) (leBytes 8 v)).flatten) s

/-- FILL (R424). -/
def execFill (r : BitVec 8) (s : State) : Host.Outcome State Fault Refusal :=
  let r := r.toNat
  done s (command r 0x05 (fun d s =>
    let a := fld d 128 64
    let n := fld d 192 64
    let bad := hbmDenied s (ringDomain s r) kWrite a n
    let t := if bad = some eGated then setHostCause hcGated s else s
    checked r [(bad = some eAccess, eAccess, 16), (bad = some eRange, eRange, 16), (a % 256 ≠ 0, eAlign, 16),
        (n % 256 ≠ 0 || n = 0, eAlign, 24), (bad = some eGated, eGated, 16)]
      (fun s => completeRing r cOk 0 (fillWords a n (fld d 256 64) s)) t) s)

/-- Some context of the partition has a control program that runs. -/
def programRuns (s : State) (p : Nat) : Bool :=
  slots.any (fun sl => (s.ctxAt p sl).prog) || (s.part p).parked.any (fun k => k.ctx.prog)

/-- Rows `lo` to `hi` − 1 of every drawer of the partition hold a 32-bit value in each word (R426). -/
def fillDrawers (p v lo hi : Nat) (s : State) : State :=
  let fill := fun (s : State) (a n : Nat) =>
    let s : State := { s with drErr := sfilter s.drErr (fun x => x < a || a + n ≤ x) }
    if v = 0 then { s with mem := s.mem.zeroRange a (a + n) } else s.putBytes a ((List.replicate (n / 4) (leBytes 4 v)).flatten)
  if !partOn s p then s
  else if lo = 0 && hi = 512 then fill s (rowAddr (partFirst s p * 65536) 0) (partF s p * 2 ^ 30)
  else (List.range (partF s p * 65536)).foldl (fun s g => fill s (rowAddr (partFirst s p * 65536 + g) lo) (32 * (hi - lo))) s

/-- DFILL (R424, R426): once the partition is IDLE and no control program of it runs, it writes one row of every drawer in each
of the FCLK cycles that have passed, `cycles` more with this command. -/
def execDfill (r : RingCycles) (s : State) : Host.Outcome State Fault Refusal :=
  let cycles := r.cycles
  let r := r.ring.toNat
  let p := ringPart s r
  done s (command r 0x06 (fun d => unlessGated r 56 (fun s =>
    let acc := s.reg (rAccCsr (ringDomain s r))
    let go := fun (s : State) =>
      let lo := (s.ring r).filled
      let hi := min 512 (lo + cycles)
      let t := fillDrawers p (fld d 128 32) lo hi s
      if hi = 512 then completeRing r cOk 0 t else markStarted r (t.setRing r { t.ring r with filled := hi })
    if (s.ring r).started then go s
    else checked r [(fld acc 17 1 = 0 || fld acc p 1 = 0, eAccess, 0), (!(s.ctxAt p (dCtx d)).alive, eState, 1)]
      (fun s => if stepState s p ≠ sIdle || programRuns s p then s else go s) s)) s)

/-! ### Context commands (R449) -/

/-- The CID is in use in the partition (R445). -/
def cidUsed (s : State) (p : Nat) (cid : BitVec 32) : Bool :=
  slots.any (fun sl => (s.ctxAt p sl).alive && (s.ctxAt p sl).cid == cid) || (s.part p).parked.any (fun k => k.ctx.cid == cid)

/-- CTX_CREATE. -/
def execCtxCreate (r : BitVec 8) (s : State) : Host.Outcome State Fault Refusal :=
  let r := r.toNat
  let p := ringPart s r
  done s (command r 0x10 (fun d => unlessGated r 56 (fun s =>
    let sl := dCtx d
    let area := fld d 128 64
    let ports := fld d 192 16
    let cid : BitVec 32 := BitVec.ofNat 32 (fld d 224 32)
    checked r [((portsTaken s p 8).toNat &&& ports ≠ 0, eBusy, 24), ((s.ctxAt p sl).alive, eState, 1),
        (ports &&& partPorts s p ≠ ports, ePartition, 24), (cidUsed s p cid, eRange, 28), (area % 4096 ≠ 0, eAlign, 16)]
      (fun s => (clearSlotRegs p sl ((portsOf ports).foldl (claimPort p) (completeRing r cOk 0 s))).setCtxAt p sl
        { alive := true, cid := cid, ports := BitVec.ofNat 16 ports, area := area }) s)) s)

/-- The work of a slot in the engines is dropped. -/
def dropWork (p sl : Nat) (s : State) : State :=
  let mine := fun (a : Active) => a.part == p && a.slot == sl
  let eng := fun (e : Nat × Eng) =>
    let x := if (present e.1 e.2).any mine then e.2.rest else e.2
    (e.1, { x with lists := x.lists.filter (fun l => !(l.part == p && l.slot == sl)), issued := x.issued.filter (fun a => !mine a) })
  { s with edges := s.edges.map eng, gathers := s.gathers.map eng }

/-- A slot is emptied; the fabric is free when its context held it, and its image is gone from the slots (log 66). -/
def emptySlot (p sl : Nat) (s : State) : State :=
  let s := freePorts p sl (dropWork p sl s)
  let s := if isRunning s p sl then freeFabric p s else s
  s.setCtxAt p sl {}

/-- CTX_DESTROY. -/
def execCtxDestroy (r : BitVec 8) (s : State) : Host.Outcome State Fault Refusal :=
  let r := r.toNat
  let p := ringPart s r
  done s (command r 0x11 (fun d => unlessGated r 56 (fun s =>
    let x := s.ctxAt p (dCtx d)
    let waits := (List.range 256).any (fun q => ringPart s q == p && (s.ring q).cid == some x.cid)
    checked r [(!x.alive || !ctxIdle x || waits, eState, 1)] (fun s => completeRing r cOk 0 (emptySlot p (dCtx d) s)) s)) s)

/-- CTX_PARK: a context that holds the fabric is parked when it has been switched out at its next boundary. -/
def execCtxPark (r : BitVec 8) (s : State) : Host.Outcome State Fault Refusal :=
  let r := r.toNat
  let p := ringPart s r
  done s (command r 0x12 (fun d => unlessGated r 56 (fun s =>
    let sl := dCtx d
    let waits := (s.part p).parking
    -- started before, and the context has gone since: by a fabric reset, or CTX.DESTROY
    if (s.ring r).started then (if waits = some r then s else completeRing r eState 1 s)
    else checked r [(!(s.ctxAt p sl).alive, eState, 1),
        (16 ≤ (s.part p).parked.length + (if waits.isSome then 1 else 0), eCapacity, 1)]
      (fun s =>
        if !isRunning s p sl then parkCtx p sl true (completeRing r cOk 0 s)
        else if waits.isSome then s
        else markStarted r (s.setPart p { s.part p with parking := some r })) s)) s)

/-- CTX_UNPARK. -/
def execCtxUnpark (r : BitVec 8) (s : State) : Host.Outcome State Fault Refusal :=
  let r := r.toNat
  let p := ringPart s r
  done s (command r 0x13 (fun d => unlessGated r 56 (fun s =>
    let sl := dCtx d
    let k? := (s.part p).parked.find? (fun k => k.ctx.cid.toNat == fld d 224 32)
    let ports := (k?.map (·.ctx.ports)).getD 0
    checked r [(ports &&& portsTaken s p 8 != 0, eBusy, 28), ((s.ctxAt p sl).alive, eState, 1), (k?.isNone, eRange, 28)]
      (fun s =>
        match k? with
        | some k => completeRing r cOk 0 (unparkCtx p sl k s)
        | none => s) s)) s)

/-- CTX_POST: adds to a semaphore or an event of a context, resident or parked. -/
def execCtxPost (r : BitVec 8) (s : State) : Host.Outcome State Fault Refusal :=
  let r := r.toNat
  let p := ringPart s r
  done s (command r 0x14 (fun d => unlessGated r 56 (fun s =>
    let i := fld d 128 8
    let event := fld d 136 1 == 1
    let n := fld d 160 32
    let cid := fld d 224 32
    let sl? := slotOfCid s p cid
    let k? := (s.part p).parked.find? (fun k => k.ctx.cid.toNat == cid)
    let x := match sl? with
      | some sl => s.ctxAt p sl
      | none => (k?.map (·.ctx)).getD {}
    let v := semOf x i + n
    checked r [(!event && 63 < i, eRange, 16), (n = 0, eRange, 20), (!event && 0xFFFFFFFF < v, eRange, 20),
        (sl?.isNone && k?.isNone, eRange, 28)]
      (fun s =>
        let t := match sl? with
          | some sl => if event then postEvent p sl i n s else postSem p sl i v s
          | none => postParked p (BitVec.ofNat 32 cid) event i (if event then min (evOf x i + n) 0xFFFFFFFF else v) s
        completeRing r cOk 0 t) s)) s)

/-- CTX_SWITCH (R449, R453, R455): the slot is the next to run. -/
def execCtxSwitch (r : BitVec 8) (s : State) : Host.Outcome State Fault Refusal :=
  let r := r.toNat
  let p := ringPart s r
  done s (command r 0x15 (fun d => unlessGated r 56 (fun s =>
    let sl := dCtx d
    let x := s.ctxAt p sl
    checked r [(!x.alive || ctxIdle x || s.rf (rPartSched p) 40 1 = 0, eState, 1)]
      (fun s => completeRing r cOk 0 (requestSwitch p (s.setPart p { s.part p with target := some sl }))) s)) s)

/-! ### Completions (R427–R429) -/

/-- The 32 bytes of a completion. -/
def complBytes (r : Nat) (x : Compl) : List Byte :=
  leBytes 32 (pack [(0, 8, x.status.toNat), (8, 8, x.opcode.toNat), (16, 8, r), (24, 1, x.phase.toNat), (25, 1, x.kind.toNat),
    (32, 32, x.seq.toNat), (64, 32, x.cookie.toNat), (96, 32, x.step.toNat), (128, 32, x.detail.toNat),
    (192, 64, x.epoch.toNat)])

/-- A completion can be written: the queue has room, the queue pair is ready to send, its port can transmit (R398, R428). -/
def canWrite (s : State) (r : Nat) : Bool :=
  let q := s.rf (rCqCfg r) 0 12
  let n := qpPort s q
  ringOn s r && !(s.ring r).stopped && qpState s q == 3 && ethUp s n && !ethPaused s n (s.rf (rEthCtrl n) 24 3)
    && (s.rf (rCqTail r) 0 32 + 2 ^ 32 - (sget 0 s.cqHead r).toNat) % 2 ^ 32 < cqSize s r

/-- COMPLETION_WRITE (R428, R429): the oldest completion held goes to the host, and makes room for one that waits. -/
def execCompletionWrite (r : BitVec 8) (s : State) : Host.Outcome State Fault Refusal :=
  let n := r.toNat
  let x := s.ring n
  match x.held with
  | [] => done s s
  | c :: rest =>
    if canWrite s n then
      let q := s.rf (rCqCfg n) 0 12
      let j := s.rf (rCqTail n) 0 32
      let a := (s.reg (rCqAddr n)) + BitVec.ofNat 64 (32 * (j % cqSize s n))
      let t := s.setRing n { x with held := rest, unacked := x.unacked ++ [s.rf (rCqCfg n) 0 12] }
      let t := (t.setRf (rCqTail n) 0 32 (j + 1)).setRf (rQp q 1) 0 24 (s.rf (rQp q 1) 0 24 + 1)
      let t := roceSend (qpPort s q) q
        (.completion r (BitVec.ofNat 12 q) (BitVec.ofNat 32 (s.rf (rCqCfg n) 32 32)) a (complBytes n c)) t
      done s (match x.ending with
        | some e => completeRing n e.1 e.2 t
        | none => t)
    else done s s

end Sys2Proof.Machine
end

