-- ==== Sys2Proof/Machine/FieldTests.lean ====
section
/-! DEFINITION. Field tests and the RETIRE command (12). -/

namespace Sys2Proof.Machine

/-! ### Test packages (R497) -/

def pkId (b : List Byte) : Nat := leAt b 6 2
def pkPatterns (b : List Byte) : Nat := leAt b 11 1
def pkSigOff (b : List Byte) : Nat := leAt b 12 4
def pkSize (b : List Byte) : Nat := leAt b 16 4

/-- Fields of pattern entry `i`. -/
def ptImg (b : List Byte) (i : Nat) : Nat := leAt b (64 + 32 * i) 4
def ptImgSize (b : List Byte) (i : Nat) : Nat := leAt b (68 + 32 * i) 4
def ptRow (b : List Byte) (i : Nat) : Nat := bitsOf (leAt b (72 + 32 * i) 4) 0 9
def ptRows (b : List Byte) (i : Nat) : Nat := bitsOf (leAt b (72 + 32 * i) 4) 16 7
def ptExp (b : List Byte) (i : Nat) : Nat := leAt b (76 + 32 * i) 4

/-- A pattern entry with an illegal field. -/
def patternBad (b : List Byte) (i : Nat) : Bool :=
  let w := leAt b (72 + 32 * i) 4
  ptImg b i % 4096 != 0 || bitsOf w 9 7 != 0 || bitsOf w 23 9 != 0 || ptRows b i == 0 || 64 < ptRows b i
    || 512 < ptRow b i + ptRows b i || pkSigOff b < ptImg b i + ptImgSize b i || ptImgSize b i < 64
    || pkSigOff b < ptExp b i + 32 * ptRows b i || leAt b (80 + 32 * i) 16 != 0

/-- MAGIC or a field of the package is illegal. -/
def packageBad (b : List Byte) (n : Nat) : Bool :=
  leAt b 0 4 != 0x4B505446 || pkPatterns b == 0 || 64 < pkPatterns b || pkSigOff b % 8 != 0 || pkSize b != pkSigOff b + 16608
    || n < pkSize b || leAt b 20 44 != 0 || pkSigOff b < 64 + 32 * pkPatterns b
    || (List.range (pkPatterns b)).any (patternBad b)

/-- VERSION, PART or STEPPING differ from R497. -/
def packageVersionBad (b : List Byte) : Bool := leAt b 4 2 != 1 || leAt b 8 2 != 1 || leAt b 10 1 != 0xA1

/-- The channel of a cell leads to another cell of a field (R108). -/
def inField (c n : Nat) (side : Side) : Bool :=
  match neighbour (c * 256 + n) side with
  | some h => h / 65536 == 0
  | none => false

/-- What a pattern image is checked against: a one-field jig outside a step (R498). -/
def testEnv (s : State) (p : Nat) : LoadEnv :=
  { fields := 1, top := 512 - stackRows s p, inside := false, routeOk := inField, portBad := fun _ => true,
    level := fun _ => 0, deadCell := fun _ _ => false, deadCab := fun _ => false }

/-- The image of pattern `i`. -/
def ptImage (b : List Byte) (i : Nat) : List Byte := (b.drop (ptImg b i)).take (ptImgSize b i)

/-- What stands against the image of pattern `i` (R196). -/
def patternBreach (s : State) (p : Nat) (b : List Byte) (i : Nat) : Option Breach :=
  let x := ptImage b i
  if x.length < hSize x then some { row := rIllegal, code := eRange, cab := noCab, off := 28 } else imageBreach (testEnv s p) x

/-- The lowest place in the test region, at a multiple of 4 KiB, with room for `n` bytes. -/
def testPlace (s : State) (n : Nat) : Option Nat :=
  let base := (s.reg rTestBase).toNat
  let top := base + (s.reg rTestSize).toNat
  let starts := (base :: s.integ.pkgs.map (fun k => (k.base + k.size + 4095) / 4096 * 4096)).mergeSort
  starts.find? (fun a => a + n ≤ top && s.integ.pkgs.all (fun k => a + n ≤ k.base || k.base + k.size ≤ a))

/-- The loaded package with an identifier. -/
def pkgOf (s : State) (id : Nat) : Option Pkg := s.integ.pkgs.find? (fun k => k.id.toNat == id)

/-- TEST.LOAD of the bytes of a package (R498); the signatures hold under the test keys of the running image (R538). -/
def testLoad (r p : Nat) (v : SigVerdict) (b : List Byte) (n : Nat) (align : Bool) (s : State) : State :=
  let at? := testPlace s (pkSize b)
  let breach := (List.range (pkPatterns b)).findSome? (patternBreach s p b)
  checked r [((pkgOf s (pkId b)).isSome, eState, 16), (packageBad b n, eRange, 16), (align, eAlign, 16),
      (16 ≤ s.integ.pkgs.length || at?.isNone, eCapacity, 24), (packageVersionBad b, eVersion, 16),
      (!(testKeys s).any (verdictOk v), eSignature, 16)]
    (fun s =>
      match breach with
      | some x => reject r x.code x.off s
      | none =>
        let k : Pkg := { id := BitVec.ofNat 16 (pkId b), base := at?.getD 0, size := pkSize b }
        let s := hbmWrite none k.base (b.take k.size) s
        completeRing r cOk 0 { s with integ := { s.integ with pkgs := s.integ.pkgs ++ [k] } }) s

/-- TEST_LOAD (R498); the verdicts over the two signatures come from outside (log 7). -/
def execTestLoad (r : BitVec 8) (v : SigVerdict) (s : State) : Host.Outcome State Fault Refusal :=
  let r := r.toNat
  done s (command r 0x18 (fun d => unlessGated r 57 (fun s =>
    let a := fld d 128 64
    let n := fld d 192 32
    let bad := hbmDenied s (ringDomain s r) kRead a n
    let t := if bad = some eGated then setHostCause hcGated s else s
    match bad with
    | some c => checked r [(c = eAccess, eAccess, 16), (c = eRange, eRange, 16), (a % 4096 ≠ 0, eAlign, 16), (true, c, 16)] id t
    | none =>
      let b := hbmReadPlain none a n t
      testLoad r (ringPart s r) v b.1 n (a % 4096 ≠ 0) b.2)) s)

/-! ### TEST.RUN (R499, R500) -/

def tdPkg (d : Cmd) : Nat := fld d 128 16
def tdPattern (d : Cmd) : Nat := fld d 144 6
def tdAll (d : Cmd) : Bool := fld d 150 1 == 1
def tdRetire (d : Cmd) : Bool := fld d 151 1 == 1

/-- Bytes of a loaded package, as its read sees them. -/
def pkgBytes (s : State) (k : Pkg) : List Byte := s.seen k.base k.size

/-- Pattern `i` of a package is loaded in every field of the partition, each field as a one-field jig. -/
def loadPattern (p : Nat) (k : Pkg) (i : Nat) (s : State) : State :=
  let r := hbmReadPlain none k.base k.size s
  let x := ptImage r.1 i
  let a := k.base + ptImg r.1 i
  let s := allCabs p (fun c y =>
    let slot : Slot := { st := 2, addr := a, img := cabImage x (c % 256) }
    let q : Seq := { pos := 0, wait := if slot.ctrlWords = 0 then 5 else 0 }
    { y with slot0 := slot, slot1 := y.slot1.leave, cur := false, seq := q.toSegment slot, icache := [], dcache := [] }) r.2
  let s := (partCabs s p).foldl (fun s c => configureCab c (s.cab c).now false true s) s
  let s := jigStatus p a false s
  let y := s.part p
  (s.setCtx p { s.ctx p with jig := a, begun := false, rerun := 0, marked := none, refusal := none }).setPart p
    { y with testPat := i, swStart := some s.clk.cclk }

/-- The context of the partition is put aside, and the test runs (R499). -/
def testBegin (p : Nat) (k : Pkg) (d : Cmd) (keep : Bool) (s : State) : State :=
  let first := if tdAll d then 0 else tdPattern d
  let y := s.part p
  let s := s.setPart p { y with test := 2, testKeep := keep, testBad := 0, testCtx := some (s.ctx p), testStep := s.stepReg p oStepStatus }
  loadPattern p k first s

/-- The test of a partition may start: it has no running context or is halted, or its context is IDLE at a boundary. -/
def testStart (p : Nat) (k : Pkg) (d : Cmd) (s : State) : State :=
  let y := s.part p
  if !y.running || y.halted then testBegin p k d false s
  else if stepState s p = sIdle && boundary s p && !restoring s p && y.parking.isNone then
    let t := switchOut p false s
    if (t.part p).running then t else testBegin p k d true t
  else s.setPart p { y with test := 1 }

/-- First of some rows that differs from the expected ones. -/
def differs (rows : List Row) (want : List Byte) : Option Nat :=
  rows.zipIdx.findSome? (fun e => if e.1 != BitVec.ofNat 256 (leAt want (32 * e.2) 32) then some e.2 else none)

/-- One cell is compared (R499): a difference sets FAULT and TEST_FAIL, is reported and counted. -/
def testCell (p : Nat) (k : Pkg) (b : List Byte) (i : Nat) (retire : Bool) (s : State) (g : Nat) : State :=
  let r := drawerReads g (ptRow b i) (ptRows b i) s
  let s := r.2
  match differs r.1 (b.drop (ptExp b i)) with
  | none => s
  | some j =>
    let s := report { kind := 5, unit := .cell g, part := some p, clock := 0, detail := pack [(0, 6, i), (8, 7, j)] } []
      (setIntegCause icTestFail s)
    let s := countFault g s
    let s := if retire then retireCell g s else s
    let n := min ((s.part p).testBad + 1) 0xFFFF
    let s := s.setPart p { s.part p with testBad := n }
    s.setReg (rTestResult p) (BitVec.ofNat 64 (pack [(0, 16, k.id.toNat), (16, 7, s.rf (rTestResult p) 16 7), (32, 16, n)]))

/-- The sequencers of a pattern have stopped and every cell is QUIET. -/
def patternDone (s : State) (p : Nat) : Bool :=
  !partOn s p || goBit s p && (takingPart s p).all (fun e => e.2.seq.wait == 5 && !e.2.seq.due) && (cellsOf s p).all (cellQuiet s)

/-- A pattern has run: its cells are compared, and the next one is loaded or the test ends. -/
def testNext (r p : Nat) (k : Pkg) (d : Cmd) (s : State) : State :=
  let b := pkgBytes s k
  let i := (s.part p).testPat
  let gs := ((cellsOf s p).map (·.1)).filter (fun g => !(s.bench g).prog.isEmpty)
  let s := gs.foldl (testCell p k b i (tdRetire d)) s
  let s := s.setReg (rTestResult p) (BitVec.ofNat 64 (pack [(0, 16, k.id.toNat), (16, 7, s.rf (rTestResult p) 16 7 + 1),
    (32, 16, (s.part p).testBad)]))
  if tdAll d && i + 1 < pkPatterns b then loadPattern p k (i + 1) s else completeRing r cOk 0 (endTest p s)

/-- TEST_RUN (R498–R500): it starts when it may, and goes on pattern by pattern as it is commanded again. -/
def execTestRun (r : BitVec 8) (s : State) : Host.Outcome State Fault Refusal :=
  let r := r.toNat
  let p := ringPart s r
  done s (command r 0x19 (fun d => unlessGated r 57 (fun s =>
    let y := s.part p
    let busy := s.rf (rPartSched p) 40 1 = 0 && y.running
    match pkgOf s (tdPkg d) with
    | none =>
      if (s.ring r).started then completeRing r eRange 16 (endTest p s)
      else checked r [(busy, eBusy, 0), (true, eRange, 16)] id s
    | some k =>
      if (s.ring r).started then
        if y.test = 2 then (if patternDone s p then testNext r p k d s else s) else testStart p k d s
      else if y.test ≠ 0 then s
      else
        checked r [(busy, eBusy, 0), (!tdAll d && pkPatterns (pkgBytes s k) ≤ tdPattern d, eRange, 18)]
          (fun s => testStart p k d (markStarted r (s.setReg (rTestResult p) (BitVec.ofNat 64 k.id.toNat)))) s)) s)

/-- TEST_DROP (R498). -/
def execTestDrop (r : BitVec 8) (s : State) : Host.Outcome State Fault Refusal :=
  let r := r.toNat
  done s (command r 0x1A (fun d => unlessGated r 57 (fun s =>
    let id := tdPkg d
    let pending := (List.range 256).any (fun q => ringOn s q && (s.ring q).cur.any (fun c => dOp c == 0x19 && tdPkg c == id))
    checked r [(pending, eState, 16), ((pkgOf s id).isNone, eRange, 16)]
      (fun s => completeRing r cOk 0 { s with integ := { s.integ with pkgs := s.integ.pkgs.filter (fun k => k.id.toNat != id) } })
      s)) s)

/-! ### RETIRE (R494, R495, R498) -/

/-- A request for a unit can be served, or is already pending. -/
def canRetire (s : State) (g : Nat) (cab : Bool) : Bool :=
  let c := g / 256
  if cab then s.integ.pendCab.contains c || (!s.integ.deadCab.contains c && cabSpare s c)
  else
    s.integ.pendCell.contains g || s.integ.pendCab.contains c
      || (!cellGone s g && (cellSpare s g || cabSpare s c))

/-- RETIRE (R498): completes when the request is pending. -/
def execRetire (r : BitVec 8) (s : State) : Host.Outcome State Fault Refusal :=
  let r := r.toNat
  let p := ringPart s r
  done s (command r 0x1B (fun d => unlessGated r 57 (fun s =>
    let c := fld d 128 12
    let g := c * 256 + fld d 140 8
    let cab := fld d 148 1 == 1
    checked r [(!inPart s p c, ePartition, 16), (!canRetire s g cab, eCapacity, 16)]
      (fun s => completeRing r cOk 0 (if cab then retireCab c s else retireCell g s)) s)) s)

end Sys2Proof.Machine
end

