-- ==== Sys2Proof/Machine/Tick.lean ====
section
/-! DEFINITION. What a CCLK cycle does while no command waits (log 5): the counters of CCLK cycles, the time contexts are
blocked and the stall monitors. -/

namespace Sys2Proof.Machine

/-- A token waits in a port queue or the matching store of a bench (R120). -/
def tokenWaits (b : Bench) : Bool :=
  !b.store.isEmpty || ports.any (fun p => !(fiveGet b.inQ p).isEmpty || !(fiveGet b.outQ p).isEmpty)

/-- Listed cells of a cabinet. -/
def cabCells (s : State) (c : Nat) : List (Nat × Cell) := s.cells.filter (fun e => e.1 / 256 == c)

/-- A token waits in the cabinet, and its monitor is on (R120). -/
def stallDue (s : State) (c : Nat) : Bool :=
  s.rf (rCabCtrl c) 0 16 != 0 && fieldRuns s (c / 256) && (cabCells s c).any (fun e => tokenWaits e.2.bench)

/-- The stall monitor reaches its limit: cause, report, the count restarts; the partition does not halt (R120, R492). -/
def stallFire (c : Nat) (s : State) : State :=
  let s := s.setCab c { s.cab c with stall := 0 }
  report { kind := 0x12, unit := .cab c, part := partOfCab s c, clock := 1, detail := s.rf (rCabCtrl c) 0 16 * 1024 } [] (setCabCause c ccStall s)

/-- Cabinets with a listed cell. -/
def busyCabs (s : State) : List Nat := (s.cells.map (·.1 / 256)).eraseDups

/-- One cycle of the stall monitor of a cabinet. -/
def tickStall (s : State) (c : Nat) : State :=
  if stallDue s c then
    let n := (s.cab c).stall + 1
    if s.rf (rCabCtrl c) 0 16 * 1024 ≤ n then stallFire c s else s.setCab c { s.cab c with stall := n }
  else s

/-- PCYCLE counts CCLK cycles at all times while the scheduler is clocked (R463, R514). -/
def tickPcycle (s : State) (p : Nat) : State := s.count (rPcycle p) 1

/-- VOTE_WAIT of a context one cycle later: it counts while the context is in VOTING and no vote result is held, and saturates
(R56, R66, R75). -/
def voteCount (x : Ctx) (status wait : Word) : Word :=
  if fld status 0 3 = sVoting ∧ x.held.isNone ∧ fld wait 0 48 ≠ 2 ^ 48 - 1 then wait + 1 else wait

/-- One cycle of VOTE_WAIT of a resident context; one that is out counts as well (log 81). -/
def tickVote (s : State) (e : Nat × Ctx) : State :=
  let a := rStep (e.1 / 8) (e.1 % 8) oVoteWait
  let v := voteCount e.2 (s.reg (rStep (e.1 / 8) (e.1 % 8) oStepStatus)) (s.reg a)
  if v = s.reg a then s else s.setReg a v

/-- The same of a parked context. -/
def Parked.tick (k : Parked) : Parked :=
  let get := fun (o : Nat) => ((k.regs.find? (fun r => r.1 == o)).map (·.2)).getD 0
  { k with regs := k.regs.map (fun r => if r.1 = oVoteWait then (r.1, voteCount k.ctx (get oStepStatus) r.2) else r) }

/-- One cycle of VOTE_WAIT of every context. -/
def tickVotes (s : State) : State :=
  let s := s.ctxs.foldl tickVote s
  { s with parts := s.parts.map (fun e => (e.1, { e.2 with parked := e.2.parked.map Parked.tick })) }

/-- Host writes that wait for room in a drawer go on (R560). -/
def tickRdma (s : State) : State := if s.rdma.isEmpty then s else rdmaRun [] s

/-- One CCLK cycle. -/
def tick (s : State) : State :=
  if shutDown s || !s.sec.powered then s
  else
    let s : State := { s with clk := { s.clk with cclk := s.clk.cclk + 1 } }
    let s := if unitGated s 56 then s
      else tickBlocked (tickVotes ((List.range 16).foldl tickPcycle s))
    let s := tickFence s
    tickRdma ((busyCabs s).foldl tickStall s)

def idleTick (s : State) : Host.Outcome State Fault Refusal := done s (tick s)

/-- STALL (R120): the count of a cabinet in which a token waits and no bench fires reaches the limit. -/
def execStall (c : CabId) (s : State) : Host.Outcome State Fault Refusal :=
  done s (if stallDue s c.toNat then stallFire c.toNat s else s)

end Sys2Proof.Machine
end

