-- ==== Sys2Proof/Machine/Dispatch.lean ====
section
/-! DEFINITION. One arm per command: the one direct call of its meaning. -/

namespace Sys2Proof.Machine

/-- The effect of a command on everything but the queue of commands that wait. -/
def exec (i : Instr) (s : State) : Host.Outcome State Fault Refusal :=
  match i with
  | .qmul g t => Sys2Proof.Machine.execQmul g t s
  | .qmult g t => Sys2Proof.Machine.execQmult g t s
  | .ldpt g t => Sys2Proof.Machine.execLdpt g t s
  | .accz g t => Sys2Proof.Machine.execAccz g t s
  | .accx g t => Sys2Proof.Machine.execAccx g t s
  | .fma g t => Sys2Proof.Machine.execFma g t s
  | .add g t => Sys2Proof.Machine.execAdd g t s
  | .mul g t => Sys2Proof.Machine.execMul g t s
  | .max g t => Sys2Proof.Machine.execMax g t s
  | .cmp g t => Sys2Proof.Machine.execCmp g t s
  | .sel g t => Sys2Proof.Machine.execSel g t s
  | .rsqrt g t => Sys2Proof.Machine.execRsqrt g t s
  | .rcp g t => Sys2Proof.Machine.execRcp g t s
  | .exp2 g t => Sys2Proof.Machine.execExp2 g t s
  | .log2 g t => Sys2Proof.Machine.execLog2 g t s
  | .lsum g t => Sys2Proof.Machine.execLsum g t s
  | .shuf g t => Sys2Proof.Machine.execShuf g t s
  | .steer g t => Sys2Proof.Machine.execSteer g t s
  | .merge g t => Sys2Proof.Machine.execMerge g t s
  | .tagx g t => Sys2Proof.Machine.execTagx g t s
  | .qnt g t => Sys2Proof.Machine.execQnt g t s
  | .dqt g t => Sys2Proof.Machine.execDqt g t s
  | .upd g t => Sys2Proof.Machine.execUpd g t s
  | .upds g t => Sys2Proof.Machine.execUpds g t s
  | .tokenArrive g p => Sys2Proof.Machine.execTokenArrive g p s
  | .endTokenArrive g p => Sys2Proof.Machine.execEndTokenArrive g p s
  | .channelToken g side => Sys2Proof.Machine.execChannelToken g side s
  | .forkPass g side => Sys2Proof.Machine.execForkPass g side s
  | .benchEndToken g => Sys2Proof.Machine.execBenchEndToken g s
  | .drawerEndToken g => Sys2Proof.Machine.execDrawerEndToken g s
  | .configRow g => Sys2Proof.Machine.execConfigRow g s
  | .install g => Sys2Proof.Machine.execInstall g s
  | .drawerPart g => Sys2Proof.Machine.execDrawerPart g s
  | .go p => Sys2Proof.Machine.execGo p s
  | .segmentStart c => Sys2Proof.Machine.execSegmentStart c s
  | .cabinetLoad c => Sys2Proof.Machine.execCabinetLoad c s
  | .stall c => Sys2Proof.Machine.execStall c s
  | .affineRead g => Sys2Proof.Machine.execAffineRead g s
  | .affineWrite g => Sys2Proof.Machine.execAffineWrite g s
  | .push g => Sys2Proof.Machine.execPush g s
  | .pop g => Sys2Proof.Machine.execPop g s
  | .mark g => Sys2Proof.Machine.execMark g s
  | .rewind g => Sys2Proof.Machine.execRewind g s
  | .release g => Sys2Proof.Machine.execRelease g s
  | .stkPush g => Sys2Proof.Machine.execStkPush g s
  | .stkPop g => Sys2Proof.Machine.execStkPop g s
  | .spillFetchDone g => Sys2Proof.Machine.execSpillFetchDone g s
  | .drawerFill g => Sys2Proof.Machine.execDrawerFill g s
  | .remoteRead requester target row n => Sys2Proof.Machine.execRemoteRead requester target row n s
  | .remoteReadData requester => Sys2Proof.Machine.execRemoteReadData requester s
  | .creditRequest writer targets row n => Sys2Proof.Machine.execCreditRequest writer targets row n s
  | .grant writer => Sys2Proof.Machine.execGrant writer s
  | .writeData writer rows => Sys2Proof.Machine.execWriteData writer rows s
  | .nop c => Sys2Proof.Machine.execNop c s
  | .stop c => Sys2Proof.Machine.execStop c s
  | .ldi c => Sys2Proof.Machine.execLdi c s
  | .addx c => Sys2Proof.Machine.execAddx c s
  | .ldx c => Sys2Proof.Machine.execLdx c s
  | .stx c => Sys2Proof.Machine.execStx c s
  | .br c => Sys2Proof.Machine.execBr c s
  | .jigLoad c => Sys2Proof.Machine.execJigLoad c s
  | .jigNext c => Sys2Proof.Machine.execJigNext c s
  | .slotFill p => Sys2Proof.Machine.execSlotFill p s
  | .strmStart c => Sys2Proof.Machine.execStrmStart c s
  | .wait c => Sys2Proof.Machine.execWait c s
  | .signal c => Sys2Proof.Machine.execSignal c s
  | .bar c => Sys2Proof.Machine.execBar c s
  | .stepBegin c => Sys2Proof.Machine.execStepBegin c s
  | .stepVote c => Sys2Proof.Machine.execStepVote c s
  | .sendLocalFlags p => Sys2Proof.Machine.execSendLocalFlags p s
  | .stepCommit c => Sys2Proof.Machine.execStepCommit c s
  | .stepDiscard c => Sys2Proof.Machine.execStepDiscard c s
  | .semP c => Sys2Proof.Machine.execSemP c s
  | .semV c => Sys2Proof.Machine.execSemV c s
  | .coefLoad c => Sys2Proof.Machine.execCoefLoad c s
  | .scanOut c => Sys2Proof.Machine.execScanOut c s
  | .scanIn c => Sys2Proof.Machine.execScanIn c s
  | .redStart c => Sys2Proof.Machine.execRedStart c s
  | .rangeFlush p => Sys2Proof.Machine.execRangeFlush p s
  | .voteUp f step attempt clean nan => Sys2Proof.Machine.execVoteUp f step attempt clean nan s
  | .voteDown f step attempt clean nan => Sys2Proof.Machine.execVoteDown f step attempt clean nan s
  | .stepResolveCommit m p step => Sys2Proof.Machine.execStepResolveCommit m p step s
  | .stepResolveDiscard m p step => Sys2Proof.Machine.execStepResolveDiscard m p step s
  | .read e => Sys2Proof.Machine.execRead e s
  | .write e => Sys2Proof.Machine.execWrite e s
  | .shimOut e => Sys2Proof.Machine.execShimOut e s
  | .shimIn e => Sys2Proof.Machine.execShimIn e s
  | .journal e => Sys2Proof.Machine.execJournal e s
  | .gatherDescriptor e => Sys2Proof.Machine.execGatherDescriptor e s
  | .fencedFetch e => Sys2Proof.Machine.execFencedFetch e s
  | .descriptorComplete e => Sys2Proof.Machine.execDescriptorComplete e s
  | .steal thief => Sys2Proof.Machine.execSteal thief s
  | .narrowRead m addr => Sys2Proof.Machine.execNarrowRead m addr s
  | .narrowReadData addr => Sys2Proof.Machine.execNarrowReadData addr s
  | .reRun p => Sys2Proof.Machine.execReRun p s
  | .istrWrite m p ix v => Sys2Proof.Machine.execIstrWrite m p ix v s
  | .istrRelease m p ix v => Sys2Proof.Machine.execIstrRelease m p ix v s
  | .istrSize m p ix v => Sys2Proof.Machine.execIstrSize m p ix v s
  | .ncInv m k v => Sys2Proof.Machine.execNcInv m k v s
  | .remapReq m v => Sys2Proof.Machine.execRemapReq m v s
  | .classMapWrite m k v => Sys2Proof.Machine.execClassMapWrite m k v s
  | .accWrite m addr v => Sys2Proof.Machine.execAccWrite m addr v s
  | .training n lanes => Sys2Proof.Machine.execTraining n lanes s
  | .capability n level rate port vendor part stepping node => Sys2Proof.Machine.execCapability n level rate port vendor part stepping node s
  | .retrain m n v => Sys2Proof.Machine.execRetrain m n v s
  | .lockLoss n => Sys2Proof.Machine.execLockLoss n s
  | .partnerSilence n => Sys2Proof.Machine.execPartnerSilence n s
  | .dataFlit n f => Sys2Proof.Machine.execDataFlit n f s
  | .creditFlit n ack cvc ccount => Sys2Proof.Machine.execCreditFlit n ack cvc ccount s
  | .replayRequest n ack => Sys2Proof.Machine.execReplayRequest n ack s
  | .gateGradient n ch => Sys2Proof.Machine.execGateGradient n ch s
  | .gateGradDone n ch => Sys2Proof.Machine.execGateGradDone n ch s
  | .gateGatherSource n ch => Sys2Proof.Machine.execGateGatherSource n ch s
  | .redPartial n => Sys2Proof.Machine.execRedPartial n s
  | .gatherRow n => Sys2Proof.Machine.execGatherRow n s
  | .entryComplete n entry => Sys2Proof.Machine.execEntryComplete n entry s
  | .ringAbort f => Sys2Proof.Machine.execRingAbort f s
  | .copyGo m n v => Sys2Proof.Machine.execCopyGo m n v s
  | .copyData n => Sys2Proof.Machine.execCopyData n s
  | .arpRequest f target mac => Sys2Proof.Machine.execArpRequest f target mac s
  | .neighbourSolicitation f target mac => Sys2Proof.Machine.execNeighbourSolicitation f target mac s
  | .echoRequest f v6 target data => Sys2Proof.Machine.execEchoRequest f v6 target data s
  | .rdmaWrite f supported q key addr data => Sys2Proof.Machine.execRdmaWrite f supported q key addr data s
  | .rdmaRead f supported q key addr len => Sys2Proof.Machine.execRdmaRead f supported q key addr len s
  | .pfcXon n prio drained => Sys2Proof.Machine.execPfcXon n prio drained s
  | .pauseFrame n prio time => Sys2Proof.Machine.execPauseFrame n prio time s
  | .cnp f q => Sys2Proof.Machine.execCnp f q s
  | .rateIncrease q => Sys2Proof.Machine.execRateIncrease q s
  | .acknowledgement x nak => Sys2Proof.Machine.execAcknowledgement x nak s
  | .retryTimeout q => Sys2Proof.Machine.execRetryTimeout q s
  | .linkChange n up => Sys2Proof.Machine.execLinkChange n up s
  | .qpStateWrite m q v => Sys2Proof.Machine.execQpStateWrite m q v s
  | .regRead src magic op seq addr => Sys2Proof.Machine.execRegRead src magic op seq addr s
  | .regWrite src magic op seq addr v => Sys2Proof.Machine.execRegWrite src magic op seq addr v s
  | .spdmConnect => Sys2Proof.Machine.execSpdmConnect s
  | .getVersion conn msg => Sys2Proof.Machine.execGetVersion conn msg s
  | .getCapabilities conn msg => Sys2Proof.Machine.execGetCapabilities conn msg s
  | .negotiateAlgorithms conn msg => Sys2Proof.Machine.execNegotiateAlgorithms conn msg s
  | .getDigests conn msg => Sys2Proof.Machine.execGetDigests conn msg s
  | .getCertificate conn slot off len msg => Sys2Proof.Machine.execGetCertificate conn slot off len msg s
  | .challenge conn slot msg => Sys2Proof.Machine.execChallenge conn slot msg s
  | .getMeasurements conn signed index msg => Sys2Proof.Machine.execGetMeasurements conn signed index msg s
  | .vendorDefinedRequest conn std vendor payload => Sys2Proof.Machine.execVendorDefinedRequest conn std vendor payload s
  | .spdmUnsupported conn code => Sys2Proof.Machine.execSpdmUnsupported conn code s
  | .attentionPeriod => Sys2Proof.Machine.execAttentionPeriod s
  | .doorbell m r v => Sys2Proof.Machine.execDoorbell m r v s
  | .cqHeadDoorbell m r v => Sys2Proof.Machine.execCqHeadDoorbell m r v s
  | .ringEnable m r v => Sys2Proof.Machine.execRingEnable m r v s
  | .descriptorFetch r => Sys2Proof.Machine.execDescriptorFetch r s
  | .cmdNop r => Sys2Proof.Machine.execCmdNop r s
  | .run r => Sys2Proof.Machine.execRun r s
  | .sem r => Sys2Proof.Machine.execSem r s
  | .event r => Sys2Proof.Machine.execEvent r s
  | .fill r => Sys2Proof.Machine.execFill r s
  | .dfill r => Sys2Proof.Machine.execDfill r s
  | .ctxCreate r => Sys2Proof.Machine.execCtxCreate r s
  | .ctxDestroy r => Sys2Proof.Machine.execCtxDestroy r s
  | .ctxPark r => Sys2Proof.Machine.execCtxPark r s
  | .ctxUnpark r => Sys2Proof.Machine.execCtxUnpark r s
  | .ctxPost r => Sys2Proof.Machine.execCtxPost r s
  | .ctxSwitch r => Sys2Proof.Machine.execCtxSwitch r s
  | .testLoad r v => Sys2Proof.Machine.execTestLoad r v s
  | .testRun r => Sys2Proof.Machine.execTestRun r s
  | .testDrop r => Sys2Proof.Machine.execTestDrop r s
  | .retire r => Sys2Proof.Machine.execRetire r s
  | .completionWrite r => Sys2Proof.Machine.execCompletionWrite r s
  | .sliceExpiry p => Sys2Proof.Machine.execSliceExpiry p s
  | .contextSwitch p => Sys2Proof.Machine.execContextSwitch p s
  | .forcedScanOut p => Sys2Proof.Machine.execForcedScanOut p s
  | .eviction p => Sys2Proof.Machine.execEviction p s
  | .checkExecution g slot partnerErr refereeErr => Sys2Proof.Machine.execCheckExecution g slot partnerErr refereeErr s
  | .resume m p v => Sys2Proof.Machine.execResume m p v s
  | .close m p v => Sys2Proof.Machine.execClose m p v s
  | .logReset m size v => Sys2Proof.Machine.execLogReset m size v s
  | .fclkSet m f v => Sys2Proof.Machine.execFclkSet m f v s
  | .pllUnlock f => Sys2Proof.Machine.execPllUnlock f s
  | .throttleTick => Sys2Proof.Machine.execThrottleTick s
  | .measureStart m v => Sys2Proof.Machine.execMeasureStart m v s
  | .measureEnd drift => Sys2Proof.Machine.execMeasureEnd drift s
  | .ref100Loss => Sys2Proof.Machine.execRef100Loss s
  | .ref156Loss => Sys2Proof.Machine.execRef156Loss s
  | .clkEnable m one v => Sys2Proof.Machine.execClkEnable m one v s
  | .pllLock unit => Sys2Proof.Machine.execPllLock unit s
  | .calibration k cycles failed => Sys2Proof.Machine.execCalibration k cycles failed s
  | .sensorConversion temps mvs vin iin pin mj => Sys2Proof.Machine.execSensorConversion temps mvs vin iin pin mj s
  | .vinRange mv sustained => Sys2Proof.Machine.execVinRange mv sustained s
  | .pwrOkRise => Sys2Proof.Machine.execPwrOkRise s
  | .pwrOkFall => Sys2Proof.Machine.execPwrOkFall s
  | .rstN => Sys2Proof.Machine.execRstN s
  | .moduleReset m v => Sys2Proof.Machine.execModuleReset m v s
  | .fabricReset m v => Sys2Proof.Machine.execFabricReset m v s
  | .bootPhase seen => Sys2Proof.Machine.execBootPhase seen s
  | .updWrite m v => Sys2Proof.Machine.execUpdWrite m v s
  | .updWriteDone v => Sys2Proof.Machine.execUpdWriteDone v s
  | .activate m v => Sys2Proof.Machine.execActivate m v s
  | .raiseSvn m v => Sys2Proof.Machine.execRaiseSvn m v s
  | .stream m v => Sys2Proof.Machine.execStream m v s
  | .revoke m v => Sys2Proof.Machine.execRevoke m v s
  | .updData m v => Sys2Proof.Machine.execUpdData m v s
  | .registerWrite m addr v => Sys2Proof.Machine.execRegisterWrite m addr v s
  | .pauseEnd n prio => Sys2Proof.Machine.execPauseEnd n prio s
  | .connectionClose conn => Sys2Proof.Machine.execConnectionClose conn s
  | .flashCopy => Sys2Proof.Machine.execFlashCopy s

end Sys2Proof.Machine
end

