-- ==== Sys2Proof/WellFormed.lean ====
section
/-! DEFINITION. Which commands the outside or a unit can send at all: the operand values the spec admits where the
type of an operand holds more. The meanings are total and need no such check; a statement that uses it says so. -/

namespace Sys2Proof

/-- A master number that some access carries (R407: 0x62 to 0x7F are reserved). -/
def masterOk (m : BitVec 7) : Bool := m.toNat ≤ 0x61

/-- A data port 0–3 or the management port, 4 (R393, R404). -/
def ethPortOk (n : BitVec 3) : Bool := n.toNat ≤ 4

/-- A request for rows of a drawer: 1 to 8 consecutive rows inside its 512 (R100, R113, R114). -/
def rowsOk (row : BitVec 9) (n : Nat) : Bool := 1 ≤ n && n ≤ 8 && row.toNat + n ≤ 512

/-- 64 bytes of a block: a BF16 block whole, or one half of an FP32 block (R373). -/
def halfOk (half : Nat) (es : List (BitVec 32)) : Bool := (half == 0 && es.length == 32) || (half ≤ 1 && es.length == 16)

/-- A payload of a data flit: a ring position lies in its ring, a block has 32 elements, a part of a copy 64 bytes (R375,
R376, R384, R387). -/
def LinkMsg.wf : LinkMsg → Bool
  | .redPartial _ _ pos size half es => pos < size && halfOk half es
  | .redCompressed _ _ pos size bs => pos < size && 1 ≤ bs.length && bs.length ≤ 8
  | .gathered _ _ _ => true
  | .explicitBlock _ _ _ half es => halfOk half es
  | .voteUp _ _ _ _ | .voteDown _ _ _ _ | .abort => false
  | .copyPart _ total off data => data.length == 64 && off + 64 ≤ total.toNat
  | .copyReply _ => true

/-- What a boot phase reports of cells names physical cells: 272 cabinets of 272 cells in each field (R81, R82). -/
def BootSeen.wf (b : BootSeen) : Bool := b.failing.all (fun x => x.2.1 < 272 && x.2.2 < 272)

/-- The command can occur. -/
def Instr.wf : Instr → Bool
  | .remoteRead _ _ row n => rowsOk row n
  | .creditRequest _ ts row n => rowsOk row n && !ts.isEmpty
  | .writeData _ rows => 1 ≤ rows.length && rows.length ≤ 8
  | .stepResolveCommit m _ _ | .stepResolveDiscard m _ _ | .narrowRead m _ => masterOk m
  | .istrWrite m _ _ _ | .istrRelease m _ _ _ | .istrSize m _ _ _ => masterOk m
  | .ncInv m _ _ | .remapReq m _ | .classMapWrite m _ _ | .accWrite m _ _ => masterOk m
  | .retrain m _ _ | .copyGo m _ _ | .qpStateWrite m _ _ => masterOk m
  | .doorbell m _ _ | .cqHeadDoorbell m _ _ | .ringEnable m _ _ => masterOk m
  | .resume m _ _ | .close m _ _ | .logReset m _ _ => masterOk m
  | .fclkSet m _ _ | .measureStart m _ | .clkEnable m _ _ => masterOk m
  | .moduleReset m _ | .fabricReset m _ => masterOk m
  | .updWrite m _ | .activate m _ | .raiseSvn m _ | .stream m _ | .revoke m _ | .updData m _ => masterOk m
  | .registerWrite m _ _ => masterOk m
  | .dataFlit _ f => f.msg.wf
  | .arpRequest f _ _ | .echoRequest f _ _ _ => ethPortOk f.port
  | .linkChange n _ => ethPortOk n
  | .getCertificate _ _ off len _ => off < 65536 && len < 65536
  | .pllLock unit => unit.toNat ≤ 58
  | .sensorConversion ts mvs _ _ _ _ => ts.length == 72 && mvs.length == 24
  | .bootPhase seen => seen.wf
  | .qmul _ _ | .qmult _ _ | .ldpt _ _ | .accz _ _ | .accx _ _ | .fma _ _ | .add _ _ | .mul _ _ | .max _ _ | .cmp _ _ => true
  | .sel _ _ | .rsqrt _ _ | .rcp _ _ | .exp2 _ _ | .log2 _ _ | .lsum _ _ | .shuf _ _ | .steer _ _ | .merge _ _ => true
  | .tagx _ _ | .qnt _ _ | .dqt _ _ | .upd _ _ | .upds _ _ => true
  | .tokenArrive _ _ | .endTokenArrive _ _ | .channelToken _ _ | .forkPass _ _ | .benchEndToken _ | .drawerEndToken _ => true
  | .configRow _ | .install _ | .drawerPart _ | .go _ | .segmentStart _ | .cabinetLoad _ | .stall _ => true
  | .affineRead _ | .affineWrite _ | .push _ | .pop _ | .mark _ | .rewind _ | .release _ | .stkPush _ | .stkPop _ => true
  | .spillFetchDone _ | .drawerFill _ | .remoteReadData _ | .grant _ => true
  | .nop _ | .stop _ | .ldi _ | .addx _ | .ldx _ | .stx _ | .br _ | .jigLoad _ | .jigNext _ | .slotFill _ | .strmStart _ => true
  | .wait _ | .signal _ | .bar _ | .stepBegin _ | .stepVote _ | .sendLocalFlags _ | .stepCommit _ | .stepDiscard _ => true
  | .semP _ | .semV _ | .coefLoad _ | .scanOut _ | .scanIn _ | .redStart _ | .rangeFlush _ => true
  | .voteUp _ _ _ _ _ | .voteDown _ _ _ _ _ => true
  | .read _ | .write _ | .shimOut _ | .shimIn _ | .journal _ | .gatherDescriptor _ | .fencedFetch _ => true
  | .descriptorComplete _ | .steal _ | .narrowReadData _ | .reRun _ => true
  | .training _ _ | .capability _ _ _ _ _ _ _ _ | .lockLoss _ | .partnerSilence _ | .creditFlit _ _ _ _ => true
  | .replayRequest _ _ | .gateGradient _ _ | .gateGradDone _ _ | .gateGatherSource _ _ | .redPartial _ | .gatherRow _ => true
  | .entryComplete _ _ | .ringAbort _ | .copyData _ => true
  | .neighbourSolicitation _ _ _ | .rdmaWrite _ _ _ _ _ _ | .rdmaRead _ _ _ _ _ _ | .pfcXon _ _ _ => true
  | .pauseFrame _ _ _ | .cnp _ _ | .rateIncrease _ | .acknowledgement _ _ | .retryTimeout _ => true
  | .regRead _ _ _ _ _ | .regWrite _ _ _ _ _ _ => true
  | .spdmConnect | .getVersion _ _ | .getCapabilities _ _ | .negotiateAlgorithms _ _ | .getDigests _ _ => true
  | .challenge _ _ _ | .getMeasurements _ _ _ _ | .vendorDefinedRequest _ _ _ _ | .spdmUnsupported _ _ => true
  | .attentionPeriod => true
  | .descriptorFetch _ | .cmdNop _ | .run _ | .sem _ | .event _ | .fill _ | .dfill _ | .ctxCreate _ | .ctxDestroy _ => true
  | .ctxPark _ | .ctxUnpark _ | .ctxPost _ | .ctxSwitch _ | .testLoad _ _ | .testRun _ | .testDrop _ | .retire _ => true
  | .completionWrite _ | .sliceExpiry _ | .contextSwitch _ | .forcedScanOut _ | .eviction _ => true
  | .checkExecution _ _ _ _ => true
  | .pllUnlock _ | .throttleTick | .measureEnd _ | .ref100Loss | .ref156Loss | .calibration _ _ _ => true
  | .vinRange _ _ | .pwrOkRise | .pwrOkFall | .rstN | .updWriteDone _ => true
  | .pauseEnd _ _ | .connectionClose _ | .flashCopy => true

end Sys2Proof
end

