-- ==== Sys2Proof/Safety.lean ====
section
/-! DEFINITION. What counts as a safe state and a safe run, and the terms the statements use: a command that completes,
a firing that goes ahead, a byte of memory. -/

namespace Sys2Proof

open Machine

/-- Memory is in its canonical form. -/
def MemOk (s : State) : Prop := s.mem.wf = true

/-- Every partition names one of its 8 context slots as the present one, and as the one to run next (R443, R449). -/
def SlotsOk (s : State) : Prop := ∀ p, (s.part p).slot < 8 ∧ ∀ t, (s.part p).target = some t → t < 8

/-- `k` steps from `s` stop neither with a fault nor with a refusal. -/
def SafeFor (s : State) (k : Nat) : Prop := ∃ t, Host.Core.run core k s = .next t

/-- With the module powered (R520) the command answers a next state, of which `P` holds. -/
def Completes (i : Instr) (s : State) (P : State → Prop) : Prop :=
  s.sec.powered = true → ∃ t, exec i s = .next t ∧ P t

/-- The command answers a next state: what its own effect leaves is `u`, behind which the attention frame of R432 goes
out when it is due; a module without power stays as it is (R520). -/
def Leaves (i : Instr) (s u : State) : Prop := exec i s = .next (if s.sec.powered then attend s u else s)

/-- The command reads nothing, writes nothing and sends nothing. -/
def Idle (i : Instr) (s : State) : Prop := Leaves i s s

/-- Two states hold the same, but for attention frames sent and their count (R432). -/
def SameButFrames (s t : State) : Prop :=
  t = { s with sent := t.sent, sec := { s.sec with frames := t.sec.frames } }

/-- What the bench of cell `g` fires with: instruction `it.next` of its program for the iteration `it`. -/
def firingOf (s : State) (g : CellId) (p : Nat) (it : Iter) : FireIn := fireIn s g.toNat p (s.bench g.toNat) it

/-- The firing is a bubble firing: a consumed token is invalid, or a register it reads was left by a bubble firing of
the same tag (R96). -/
def bubbles (s : State) (g : CellId) (p : Nat) (it : Iter) : Bool :=
  (firingOf s g p it).consumed.any (fun t => !t.valid) ||
    resvBubble (s.bench g.toNat) (firingOf s g p it).word (firingOf s g p it).tag

/-- Cell `g` of partition `p` fires while its clock runs and the partition is neither halted nor has stopped issue (R220); the
instruction of opcode `op` is the next one of tag `t`, and R90 holds but for the room of its output ports. -/
def NextFiring (op : Nat) (g : CellId) (t : BitVec 16) (s : State) (p : Nat) (it : Iter) : Prop :=
  cellRuns s g.toNat = true ∧ issueStops s g.toNat = false ∧ partOfCell s g.toNat = some p ∧
  (s.bench g.toNat).iters.find? (fun i => i.tag == t) = some it ∧ fireReady (s.bench g.toNat) it op t = true

/-- The firing is sampled (R475, R477): no bubble firing is. -/
def samples (s : State) (g : CellId) (p : Nat) (it : Iter) : Bool :=
  !bubbles s g p it && sampled s p (s.bench g.toNat) it.next

/-- R90 allows the bench of cell `g` to fire an instruction of opcode `op` for tag `t` now, in partition `p`: its output ports
have room, a STEER has one token of each kind (R99), and a sampled firing has a capture slot (R478). -/
def CanFire (op : Nat) (g : CellId) (t : BitVec 16) (s : State) (p : Nat) (it : Iter) : Prop :=
  NextFiring op g t s p it ∧ steerClash (firingOf s g p it) = false ∧
  roomOut (firingOf s g p it) (s.bench g.toNat) (bubbles s g p it) = true ∧
  (samples s g p it = false ∨ (s.bench g.toNat).cap0 = none ∨ (s.bench g.toNat).cap1 = none)

/-- Reports of the partition `p` go to the integrity log as they are: its clock runs, no granule of HBM holds an error, and no
field test runs (R500, R514). -/
def Reports (s : State) (p : Nat) : Prop := integOn s = true ∧ s.hbmErr = [] ∧ testing s p = false ∧ (s.part p).slot < 8

/-- The 24 bench firings with their opcodes (R138). -/
def firings : List (Nat × (CellId → BitVec 16 → Instr)) :=
  [(opQMUL, .qmul), (opQMULT, .qmult), (opLDPT, .ldpt), (opACCZ, .accz), (opACCX, .accx), (opFMA, .fma), (opADD, .add),
   (opMUL, .mul), (opMAX, .max), (opCMP, .cmp), (opSEL, .sel), (opRSQRT, .rsqrt), (opRCP, .rcp), (opEXP2, .exp2),
   (opLOG2, .log2), (opLSUM, .lsum), (opSHUF, .shuf), (opSTEER, .steer), (opMERGE, .merge), (opTAGX, .tagx),
   (opQNT, .qnt), (opDQT, .dqt), (opUPD, .upd), (opUPDS, .upds)]

/-- The registers of the bench of cell `g` after a command. -/
def regsOf (t : State) (g : CellId) : Regs := (t.bench g.toNat).regs

/-- The word the sequencer of cabinet `c` stands at can be fetched: its line is in the instruction cache, or the access tables
allow the fetch and the narrow path has room for it (R117, R312, R409). -/
def Fetchable (s : State) (p c : Nat) : Prop :=
  fetchHit s c = true ∨ (hbmDenied s (mPart s p) kJig (seqAddr (s.cab c)) 8 = none ∧
    lineReady s c (seqAddr (s.cab c)) = true)

/-- The sequencer of cabinet `c` runs, in partition `p`, at a word of opcode `op` inside its segment, which it can fetch (R213,
R214). -/
def SeqReady (op : Nat) (c : CabId) (s : State) (p : Nat) : Prop :=
  seqPart s c.toNat = some p ∧ (s.cab c.toNat).seq.wait = 0 ∧ (s.cab c.toNat).seq.pos < (s.cab c.toNat).seq.len ∧
  cwOp (seqPeek s c.toNat) = op ∧ Fetchable s p c.toNat ∧ (s.part p).slot < 8

/-- The word the sequencer's fetch delivers (R117). -/
def wordOf (s : State) (p : Nat) (c : CabId) : Word := (seqFetch p c.toNat s).1

/-- The sequencer as it goes on with the next word, with its registers `x`. -/
def seqPast (s : State) (c : CabId) (x : Sparse Word) : Seq :=
  { (s.cab c.toNat).seq with x := x, pos := (s.cab c.toNat).seq.pos + 1, wait := 0, issue := none }

/-- What cabinet `c` issues at the partition-wide instruction it stands at: the word, with the registers the word names. -/
def issueIn (s : State) (p : Nat) (c : CabId) : Issue := issueOf s p c.toNat (wordOf s p c)

/-- The jig whose program cabinet `c` executes is the one before the jig its partition changes to (R211). -/
def sideIn (s : State) (p : Nat) (c : CabId) : Bool := behind s p (s.cab c.toNat)

/-- The state in which cabinet `c` waits at its instruction, its word fetched and its issue recorded. -/
def arrived (s : State) (p : Nat) (c : CabId) : State :=
  putSeq c.toNat { (s.cab c.toNat).seq with wait := 1, issue := some (issueIn s p c) } (seqFetch p c.toNat s).2

/-- Cabinet `c` arrives last at a partition-wide instruction of opcode `op`: no refusal is open, no other cabinet that takes
part has stopped or waits with another issue, and with its own issue all have issued (R198, R217, R218). -/
def Joins (op : Nat) (c : CabId) (s : State) (p : Nat) : Prop :=
  SeqReady op c s p ∧ (s.cab c.toNat).seq.issue = none ∧ (s.ctx p).refusal = none ∧
  (∀ e ∈ takers s p (sideIn s p c), e.1 ≠ c.toNat → gone s p (sideIn s p c) e.2 = false ∧
    (waiting s p (sideIn s p c) e.2 = true → e.2.seq.issue.any (mismatch (issueIn s p c)) = false)) ∧
  allIssued (arrived s p c) p (sideIn s p c) = true

/-- Cabinet `c` waits at a partition-wide instruction of opcode `op` that every cabinet has issued (R217), and the command comes
again (log 3). -/
def Waits (op : Nat) (c : CabId) (s : State) (p : Nat) : Prop :=
  seqPart s c.toNat = some p ∧ (s.cab c.toNat).seq.wait = 1 ∧ (s.cab c.toNat).seq.pos < (s.cab c.toNat).seq.len ∧
  cwOp (seqPeek s c.toNat) = op ∧ Fetchable s p c.toNat ∧ (s.part p).slot < 8 ∧ (s.cab c.toNat).seq.issue.isSome = true ∧
  allIssued s p (sideIn s p c) = true

/-- The sequencer of cabinet `c` finds request slots of the narrow path for the line of an address: both sectors are in the sector
cache, or their requests hold slots, or find them before any that waits (R312). -/
def SlotsFree (s : State) (c a : Nat) : Prop := lineReady s c a = true

/-- Every cabinet of the partition that waited at the instruction in `s1` has gone on with its next word in `u`. -/
def AllGoOn (s1 u : State) (p : Nat) (old : Bool) : Prop :=
  ∀ d, inPart s1 p d = true → waiting s1 p old (s1.cab d) = true →
    (u.cab d).seq.pos = (s1.cab d).seq.pos + 1 ∧ (u.cab d).seq.wait = 0 ∧ (u.cab d).seq.issue = none

/-- The byte of memory at an address (R5, R100, R549). -/
def byteOf (s : State) (a : Nat) : Byte := s.mem.read a

/-- Row `k` of the drawer of cell `g` as memory holds it (R100). -/
def rowIn (s : State) (g k : Nat) : Row :=
  BitVec.ofNat 256 (ofBytes ((List.range 32).map (fun j => byteOf s (bDRAWER + g * 0x4000 + k * 32 + j))))

/-- Every byte of memory outside row `k` of the drawer of cell `g` reads in `u` as in `s`. -/
def RestOfRow (s u : State) (g k : Nat) : Prop :=
  ∀ a, a < bDRAWER + g * 0x4000 + k * 32 ∨ bDRAWER + g * 0x4000 + k * 32 + 32 ≤ a → byteOf u a = byteOf s a

/-- The generators of cell `g` run in partition `p`, no drawer word holds an error, and memory is canonical. -/
def GensRun (s : State) (g p : Nat) : Prop :=
  partOfCell s g = some p ∧ genRuns s g p = true ∧ s.drErr = [] ∧ MemOk s

/-- One token entered the D input port of cell `g`. -/
def EntersD (s u : State) (g : Nat) (tag : BitVec 16) (v : Row) (valid : Bool) : Prop :=
  (u.bench g).inQ.d = (s.bench g).inQ.d ++
    [{ payload := v, tag := tag, valid := valid, epoch := cellEpoch s g, kind := .data }]

/-- One token left the D output port of cell `g`. -/
def LeavesD (s u : State) (g : Nat) : Prop := (u.bench g).outQ.d = (s.bench g).outQ.d.drop 1

/-- Where the read generator stands: its word, and the access of it. -/
def readPlace (d : Drawer) : Nat × Nat := (d.rdW, d.rdA)

/-- Where the write generator stands. -/
def writePlace (d : Drawer) : Nat × Nat := (d.wrW, d.wrA)

/-- The place behind one more access of a word of `n`. -/
def nextPlace (n : Nat) (w : Nat × Nat) : Nat × Nat := if n ≤ w.2 + 1 then (w.1 + 1, 0) else (w.1, w.2 + 1)

/-- Bytes of memory. -/
def bytesIn (s : State) (a n : Nat) : List Byte := (List.range n).map (fun j => byteOf s (a + j))

/-- The descriptor of an engine that the model has read, or reads now from its place in the list (R323). -/
def DescIs (x : Eng) (a : Active) (s : State) (d : BitVec 512) : Prop :=
  x.desc = some d ∨ (x.desc = none ∧ d = BitVec.ofNat 512 (ofBytes (bytesIn s (descAddr a) 64)) ∧
    hbmDenied s (mPart s a.part) kRead (descAddr a) 64 = none)

/-- Engine `e` is about to start its present descriptor `d`, of operation `op`, which is legal, granted and not held back by
its fence (R315, R320, R323); no granule and no drawer word holds an error. -/
def EdgeReady (op e : Nat) (s : State) (a : Active) (d : BitVec 512) : Prop :=
  present e (s.edge e) = some a ∧ a.part < 16 ∧ engineRuns s a = true ∧ unitGated s (24 + e / 32) = false ∧
  DescIs (s.edge e) a s d ∧ edgeBad s a.part d = false ∧
  edgeDenied s a.part d = none ∧ fenced s a d 11 32 64 = false ∧ eOp d = op ∧
  ((s.edge e).busy = false ∧ (s.edge e).pos = 0 ∧ (s.edge e).rows = [] ∧ (s.edge e).claim = none ∧ (s.edge e).got = 0 ∧
    (s.edge e).raw = []) ∧
  s.hbmErr = [] ∧ s.drErr = [] ∧ MemOk s ∧ ∀ g ∈ rectCells d, (s.dr g).head = (s.dr g).head2 ∧ (s.dr g).tail = (s.dr g).tail2

/-- The commands that start a descriptor: that of its operation, and FENCED_FETCH where it has a fence (R320). -/
def Starts (own : Instr) (e : BitVec 8) (d : BitVec 512) (c : Instr) : Prop :=
  c = own ∨ (c = .fencedFetch e ∧ fld d 11 1 = 1)

/-- The descriptor has issued its last access (R321). -/
def Issued (e : Nat) (s u : State) (a : Active) (d : BitVec 512) (istr : Option (Nat × Nat)) : Prop :=
  (u.edge e).issued = (s.edge e).issued ++ [{ a with istr := istr, desc := d }] ∧ (u.edge e).busy = false ∧
    (u.edge e).desc = none

/-- The HBM side of a READ: its runs, or the bytes of its input stream from the read position on (R316, R328, R330). -/
def readSource (s : State) (p : Nat) (d : BitVec 512) : List Byte :=
  (if eIstr d then streamBytes s p (eStream d) (istrPos s (rIstrRead p (eStream d))) (eBytes d)
    else (List.range (eRuns d)).map (fun i => ((runAddr s p d i).toNat, eLen d))).flatMap (fun r => bytesIn s r.1 r.2)

/-- The drawer rows of a READ (R318, R319). -/
def readRowsOf (s : State) (p : Nat) (d : BitVec 512) : List Row :=
  if eConv d = 0 then byteRows (readSource s p d)
  else convRows (eConv d) (convBlocks (eConv d) (readSource s p d) (bytesIn s (eAux d) (auxBytes d)))

/-- The drawer row that row `j` of a descriptor's part goes to (R317, R333). -/
def rowTo (s : State) (d : BitVec 512) (g j : Nat) : Nat :=
  let y := s.dr g
  if eDmode d = 1 then y.mbase + y.adv (eSeq d) (j / eSlot s d) % y.regionN * y.perPos + j % eSlot s d else eRbase d + j

/-- The drawer row that row `j` of a descriptor's part comes from (R317, R559). -/
def rowFrom (s : State) (d : BitVec 512) (g j : Nat) : Nat :=
  let y := s.dr g
  if eDmode d = 1 then y.mbase + y.adv y.head (j / eSlot s d) % y.regionN * y.perPos + j % eSlot s d else eRbase d + j

/-- The rows of the rectangle in order (R317). -/
def rectRows (s : State) (d : BitVec 512) : List Row :=
  (rectCells d).flatMap (fun g => (List.range (eRows d)).map (fun j => rowIn s g (rowFrom s d g j)))

/-- The drawers of a READ can take its rows: room in their landing buffers (R114), free slots of their rings, or rows outside
every mode region (R333). -/
def DrawersTake (s : State) (d : BitVec 512) : Prop :=
  ∀ g ∈ rectCells d, landingRoom s g (chunkRows s d) = true ∧ (eDmode d = 1 → (s.dr g).mbase + (s.dr g).msize ≤ 512 ∧ ∀ k, k < eRows d / eSlot s d →
      (s.dr g).posFree ((s.dr g).adv (eSeq d) k) = true ∧ (s.dr g).posGone ((s.dr g).adv (eSeq d) k) = false) ∧
    (eDmode d = 0 → ∀ j, j < eRows d → inRegion (s.dr g) (eRbase d + j) = false)

/-- The rings of a WRITE or JOURNAL hold the slots it takes (R559). -/
def RingsHold (s : State) (d : BitVec 512) : Prop :=
  eDmode d = 1 → ∀ g ∈ rectCells d, eRows d / eSlot s d ≤ (s.dr g).qCount

/-- The rows of a descriptor stand in its rectangle. -/
def RowsStand (s u : State) (d : BitVec 512) (rows : List Row) : Prop :=
  ∀ i, i < (rectCells d).length → ∀ j, j < eRows d →
    rowIn u ((rectCells d).getD i 0) (rowTo s d ((rectCells d).getD i 0) j)
      = rows.getD ((if eMcast d then 0 else i * eRows d) + j) 0

/-- A message of port `n` waits to be sent on a channel, or has been sent and waits for its acknowledgement (R359–R361). -/
def Queued (u : State) (n vc : Nat) (m : LinkMsg) : Prop :=
  (vc, m) ∈ (u.link n).queue ∨ ∃ x ∈ (u.link n).unacked, x.2.1 = vc ∧ x.2.2.1 = m

/-- A byte of HBM as the write combiner of port `n` will leave it (R380). -/
def byteSoon (s : State) (n a : Nat) : Byte :=
  (((s.link n).comb.find? (fun x => x.addr == a / 256 * 256)).bind
    (fun x => (x.data.find? (fun e => e.1 == a % 256)).map (·.2))).getD (byteOf s a)

/-- Registers but those listed, and everything else but what is sent, stay as they were. -/
def OnlyRegs (xs : List Nat) (s u : State) : Prop :=
  u = { s with csr := u.csr, sent := u.sent, sec := { s.sec with frames := u.sec.frames } } ∧
    ∀ x, x ∉ xs → u.reg x = s.reg x

/-- Bytes stand from an address on, and every other byte reads as before. -/
def Stored (s u : State) (a : Nat) (bs : List Byte) : Prop :=
  ∀ x, byteOf u x = if a ≤ x ∧ x < a + bs.length then bs.getD (x - a) 0 else byteOf s x

/-- A frame leaves data port `n` with its tag and its priority, or waits there while that priority is paused (R394, R398). -/
def GoesOut (s u : State) (n prio dscp : Nat) (x : Sent) : Prop :=
  if ethPaused s n prio then (frameHdr s n prio dscp, x) ∈ (u.eth n).out
  else .frame (BitVec.ofNat 2 n) (frameHdr s n prio dscp) x ∈ u.sent

/-- A packet of a queue pair leaves its port, with the priority of RDMA and the DSCP of the queue pair (R398, R400). -/
def Answered (q : BitVec 12) (s u : State) (x : Sent) : Prop :=
  GoesOut s u (qpPort s q.toNat) (s.rf (rEthCtrl (qpPort s q.toNat)) 24 3) (qpDscp s q.toNat) x

/-- Registers but those listed, the ports of the network, and everything else but what is sent, stay as they were. -/
def OnlyRegsAndPorts (xs : List Nat) (s u : State) : Prop :=
  u = { s with csr := u.csr, sent := u.sent, eths := u.eths, sec := { s.sec with frames := u.sec.frames } } ∧
    ∀ x, x ∉ xs → u.reg x = s.reg x

/-- Bytes enter the buffer of a priority of port `n`, which sends a pause frame as they pass XOFF (R398). -/
def Buffered (n : Nat) (prio : BitVec 3) (bytes : Nat) (s u : State) : Prop :=
  sget 0 (u.eth n).fill prio.toNat = sget 0 (s.eth n).fill prio.toNat + bytes ∧
  (pfcOn s n prio.toNat = true → prio.toNat ∉ (s.eth n).xoff →
    s.rf (rPfcThr n) 0 16 * 1024 < sget 0 (s.eth n).fill prio.toNat + bytes →
    .pause (BitVec.ofNat 2 n) prio true ∈ u.sent ∧ prio.toNat ∈ (u.eth n).xoff)

/-- A RoCE v2 frame for queue pair `q` passes its port: the port is up, accepts the frame and has room for it, and the queue pair is
one of the port (R394, R395, R398, R401). -/
def Arrives (f : Frame) (q : BitVec 12) (s : State) : Prop :=
  ethUp s f.port.toNat = true ∧ frameOk s f = true ∧ shareFull s f.port.toNat f.prio f.bytes = false ∧
    qpPort s q.toNat = f.port.toNat

/-- The port has taken one RoCE v2 frame: it is counted and buffered, and a CE mark is counted and answered with a CNP (R398, R399). -/
def Taken (f : Frame) (q : BitVec 12) (s u : State) : Prop :=
  let n := f.port.toNat
  u.reg (rEthCount n 0) = s.reg (rEthCount n 0) + 1 ∧ Buffered n f.prio f.bytes s u ∧
  (f.ce = true → u.reg (rEthCount n 7) = s.reg (rEthCount n 7) + 1 ∧
    (f.cnpGap = true → u.reg (rEthCount n 6) = s.reg (rEthCount n 6) + 1 ∧ Answered q s u (.cnp f.port q)))

/-- An RDMA request of `k` frames passes the port: the port is up, accepts the frames and has room for them (R394, R395, R398),
the queue pair is one of the port and ready to receive (R401), and no earlier request waits (R403). -/
def Received (f : Frame) (k : Nat) (q : BitVec 12) (s : State) : Prop :=
  ethUp s f.port.toNat = true ∧ frameOk s f = true ∧ qpPort s q.toNat = f.port.toNat ∧
  (qpState s q.toNat = 2 ∨ qpState s q.toNat = 3) ∧
  (pfcOn s f.port.toNat f.prio.toNat = true ∨
    sget 0 (s.eth f.port.toNat).fill f.prio.toNat + k * f.bytes ≤ pfcShare s f.port.toNat) ∧ s.rdma = []

/-- The sequence number the queue pair expects has gone on over `n` bytes (R400). -/
def PsnPast (q : BitVec 12) (n : Nat) (s u : State) : Prop :=
  u.rf (rQp q.toNat 1) 24 24 = (s.rf (rQp q.toNat 1) 24 24 + packets s q.toNat n) % 2 ^ 24

/-- A request of the SPDM negotiation is answered and brings the connection to a phase: `c` is what it has before (R542). -/
def Negotiates (i : Instr) (id : BitVec 2) (c : Conn) (phase : Nat) (msg : List Byte) (code : Byte) (payload : List Byte)
    (s : State) : Prop :=
  Completes i s (fun u => .spdm id.toNat code payload ∈ u.sent ∧
    conn? u id.toNat = some { c with phase := phase, script := c.script ++ msg ++ [code] ++ payload } ∧
    u = { s with sent := u.sent, sec := { s.sec with conns := u.sec.conns, frames := u.sec.frames } })

/-- A request on an SPDM connection is answered, and both join its transcript (R542). -/
def Answers (i : Instr) (id : BitVec 2) (c : Conn) (msg : List Byte) (code : Byte) (payload : List Byte) (s : State) : Prop :=
  Completes i s (fun u => .spdm id.toNat code payload ∈ u.sent ∧
    conn? u id.toNat = some { c with script := c.script ++ msg ++ [code] ++ payload } ∧
    u = { s with sent := u.sent, sec := { s.sec with conns := u.sec.conns, frames := u.sec.frames } })

/-- A request on an SPDM connection is answered with a nonce and the RSA signature of the alias key over the signing context and
the hash of the transcript up to it, which the connection keeps (R540, R542, R543; log 10). -/
def AnswersSigned (i : Instr) (id : BitVec 2) (c : Conn) (msg : List Byte) (code : Byte) (body : List Byte) (s : State) : Prop :=
  Completes i s (fun u => ∃ nonce, nonce.length = 32 ∧
    let t := c.script ++ msg ++ [code] ++ body ++ nonce
    let m := signMessage code t
    let sig := aliasRsa s m
    .spdm id.toNat code (body ++ nonce ++ sig) ∈ u.sent ∧
    conn? u id.toNat = some { c with script := t ++ sig, signed := some m } ∧
    u = { s with sent := u.sent, fresh := u.fresh, sec := { s.sec with conns := u.sec.conns, frames := u.sec.frames } })

/-- Nothing is in flight, every register holds its reset value, and boot has not begun; the fuses are as they were (R531). The
flash keeps its own contents too, but for the fault counts that firmware writes into it (log 89): `keptFlash`. -/
def AtPowerOn (s u : State) : Prop :=
  u.csr = [] ∧ u.cells = [] ∧ u.fields = [] ∧ u.dowel = [] ∧ u.cabs = [] ∧ u.ctxs = [] ∧ u.parts = [] ∧ u.edges = [] ∧ u.gathers = [] ∧
  u.plinths = [] ∧ u.links = [] ∧ u.eths = [] ∧ u.rings = [] ∧ u.rdma = [] ∧ u.sec.boot = 0 ∧ u.sec.conns = [] ∧ u.sec.fuses = s.sec.fuses ∧
  u.pending = s.pending

/-- The module has shut down for a reason (R524). -/
def DownFor (reason : Nat) (u : State) : Prop :=
  shutDown u = true ∧ u.rf rPwrCause 8 3 = reason ∧ u.mem = {} ∧ u.cells = [] ∧ u.parts = [] ∧ u.rings = []

/-- Ring `r` has fetched the descriptor `d` of opcode `op`, which has not started: its version is accepted, its header is legal,
its dependency is met, and the ring holds fewer than 16 completions (R421, R422, R429). -/
def CmdReady (op r : Nat) (s : State) (d : Cmd) : Prop :=
  (s.ring r).cur = some d ∧ (s.ring r).started = false ∧ (s.ring r).ending = none ∧ (s.ring r).held.length < 16 ∧
  ringOn s r = true ∧ dOp d = op ∧ dVersionOk s (dVersion d) = true ∧ dHeaderBad s d = none ∧ depMet s d = true

/-- The descriptor `d` of ring `r` has completed with a code and a detail: its completion is formed and `RING_DONE` has
advanced (R421, R427). -/
def Completed (r : Nat) (d : Cmd) (code : Code) (detail : Nat) (s u : State) : Prop :=
  (u.ring r).cur = none ∧ u.rf (rRingDone r) 0 32 = (s.rf (rRingDone r) 0 32 + 1) % 2 ^ 32 ∧
  (u.ring r).held = (s.ring r).held ++
    [{ status := code, opcode := BitVec.ofNat 8 (dOp d), phase := (s.ring r).formed / cqSize s r % 2 == 0, kind := false,
       seq := BitVec.ofNat 32 (s.rf (rRingDone r) 0 32), cookie := BitVec.ofNat 32 (fld d 32 32), step := 0,
       detail := BitVec.ofNat 32 detail, epoch := s.reg rEpochTag }]

end Sys2Proof
end

