-- ==== Sys2Proof/Certificates/Slice0/Obligations.lean ====
section
/-! DEFINITION. The statements about the model: what each command does when the rules let it act, what it leaves alone,
and what every step keeps. -/

open Sys2Proof Sys2Proof.Machine

/-! ### The queue -/

/-- A step takes the command at the front of the queue and runs it with the rest (the block's rule of commands). -/
def Obligations.StepRunsTheFrontCommand : Prop :=
  ∀ (c : Instr) (s : State), step { s with pending := c :: s.pending } = exec c s

/-- On an empty queue one CCLK cycle passes, and `PCYCLE` of every partition counts it unless the scheduler is gated (R463,
R469, R514; that a cycle passes there is the model's choice, log 5). -/
def Obligations.EmptyQueuePassesACycle : Prop :=
  ∀ s : State, s.pending = [] → shutDown s = false → s.sec.powered = true →
    ∃ t, step s = .next t ∧ t.pending = [] ∧ t.clk.cclk = s.clk.cclk + 1 ∧
      (unitGated s 56 = false → ∀ p, p < 16 → t.reg (rPcycle p) = s.reg (rPcycle p) + 1)

/-- Whatever the state and the operands, a command answers a next state and leaves the queue of waiting commands alone; no
number of steps stops. That a command answers also where its conditions do not hold, and then changes nothing, is the model's
choice (log 3, DESIGN CHOICE). -/
def Obligations.EveryCommandAnswersAndLeavesTheQueue : Prop :=
  (∀ (i : Instr) (s : State), ∃ t, exec i s = .next t ∧ t.pending = s.pending) ∧ ∀ (k : Nat) (s : State), SafeFor s k

/-- The state after reset (R10, R530): nothing in flight, memory canonical, every partition at a slot it has, and
registers of SYS, CLK (R528), the FABRIC block (R127, R227), STEP (R73), ETH (R440) and INTEG (R501) read the values of their tables
and of the reset table of 15. -/
def Obligations.ResetLeavesTheStatedValues : Prop :=
  State.reset.pending = [] ∧ MemOk State.reset ∧ SlotsOk State.reset ∧ State.reset.reg rDeviceId = 0x0000084400014F54 ∧
  State.reset.reg rStepping = 0x3FA1 ∧ (∀ f, f < 16 → State.reset.reg (rFclkSet f) = 0x7D0) ∧
  (∀ f, f < 16 → State.reset.reg (rFclkStatus f) = 0x107D0) ∧ State.reset.reg rClkEnable0 = 0 ∧
  State.reset.reg rClkEnable1 = 0 ∧ State.reset.reg rCclkCtrl = 0x3E8 ∧ State.reset.reg rRetireCtrl = 2 ∧
  (∀ c, c < 4096 → State.reset.reg (rCabCtrl c) = 0x400 ∧ State.reset.reg (rSeqStatus c) = 0x50000) ∧
  (∀ p, p < 16 → stepState State.reset p = sIdle) ∧ (∀ n, n < 4 → State.reset.reg (rPfcThr n) = 0x8000C0)

/-- Memory keeps its canonical form under every step (R100, R297): the addresses of its list rise, and no entry outside the
undefined ranges equals what an unlisted byte reads as. That an unlisted byte reads 0 is log 2, and the undefined ranges, inside
which any entry may stand, are log 67 (both the model's choice). -/
def Obligations.EveryStepKeepsMemoryCanonical : Prop :=
  ∀ s t : State, MemOk s → step s = .next t → MemOk t

/-- Under every step each partition goes on naming one of its 8 slots as the present one, and as the one to run next (R443, R449). -/
def Obligations.EveryStepKeepsSlotsInRange : Prop :=
  ∀ s t : State, SlotsOk s → step s = .next t → SlotsOk t

/-! ### Bench firings (03, 04) -/

/-- QMUL (R141): accumulator n = 4a + u becomes base + the exact sum of the table entries that array a and unit u
select, saturated to 32 bits with its sticky bit; QMULT (R143): the same sums added modulo 2^32, no bit changed. -/
def Obligations.ArrayProductsAccumulate : Prop :=
  (∀ (s : State) (g : CellId) (t : BitVec 16) (p : Nat) (it : Iter), CanFire opQMUL g t s p it → bubbles s g p it = false →
    Completes (.qmul g t) s (fun u => ∀ n, n < 16 →
      let x := firingOf s g p it
      let base : Int := if fld x.word 35 1 = 1 then 0 else ((regsOf s g).ac n).toInt
      let sum := base + treeSum (unitEntries x (n / 4) (n % 4))
      let fits := decide (-2 ^ 31 ≤ sum ∧ sum ≤ 2 ^ 31 - 1)
      (regsOf u g).ac n = BitVec.ofInt 32 (if fits then sum else if 0 < sum then 2 ^ 31 - 1 else -2 ^ 31) ∧
      (regsOf u g).satBit n =
        (if fits then (if fld x.word 35 1 = 1 then false else (regsOf s g).satBit n) else true))) ∧
  (∀ (s : State) (g : CellId) (t : BitVec 16) (p : Nat) (it : Iter), CanFire opQMULT g t s p it →
    bubbles s g p it = false →
    Completes (.qmult g t) s (fun u => (regsOf u g).sat = (regsOf s g).sat ∧ ∀ n, n < 16 →
      (regsOf u g).ac n
        = (regsOf s g).ac n + BitVec.ofInt 32 (treeSum (unitEntries (firingOf s g p it) (n / 4) (n % 4)))))

/-- LDPT (R145): with MODE 0 entry 16 × ROW + w takes bits [16w + 15:16w] of the source, with MODE 1 the table
exponent takes its byte 0; ACCZ (R147): accumulators and saturation bits of the mask become 0, the others keep their
values. ACCX (R155, R156): lane i of VD is FP32(s[i] + acc[n] × 2^e) of accumulator n = 8 × AH + i, or the infinity of
its sign where the accumulator is saturated in a QMUL program; with Z it then clears the half it read. -/
def Obligations.TablesLoadAndAccumulatorsClearAndExport : Prop :=
  ((∀ (s : State) (g : CellId) (t : BitVec 16) (p : Nat) (it : Iter), CanFire opLDPT g t s p it → bubbles s g p it = false →
    Completes (.ldpt g t) s (fun u =>
      let x := firingOf s g p it
      let src := x.src 31 26
      let table := fld x.word 37 2
      (fld x.word 36 1 = 1 → (regsOf u g).exponent table = toSigned (rowByte src 0) 8 ∧
        (regsOf u g).tables = (regsOf s g).tables) ∧
      (fld x.word 36 1 = 0 → (regsOf u g).texp = (regsOf s g).texp ∧
        (∀ w, w < 16 → (regsOf u g).entry table (16 * fld x.word 32 4 + w) = ptWrite (lane16 src w)) ∧
        ∀ tb e, (tb ≠ table ∨ e / 16 ≠ fld x.word 32 4) → tb < 4 → e < 256 →
          (regsOf u g).entry tb e = (regsOf s g).entry tb e))) ∧
  (∀ (s : State) (g : CellId) (t : BitVec 16) (p : Nat) (it : Iter), CanFire opACCZ g t s p it → bubbles s g p it = false →
    Completes (.accz g t) s (fun u => ∀ n, n < 16 →
      (fld (firingOf s g p it).word n 1 = 1 → (regsOf u g).ac n = 0 ∧ (regsOf u g).satBit n = false) ∧
      (fld (firingOf s g p it).word n 1 = 0 →
        (regsOf u g).ac n = (regsOf s g).ac n ∧ (regsOf u g).satBit n = (regsOf s g).satBit n)))) ∧
  (∀ (s : State) (g : CellId) (t : BitVec 16) (p : Nat) (it : Iter), CanFire opACCX g t s p it → bubbles s g p it = false →
    Completes (.accx g t) s (fun u =>
      let x := firingOf s g p it
      let ah := fld x.word 36 1
      let r := regsOf s g
      let vx := r.vr (fld x.word 19 5)
      (∀ i, i < 8 →
        let n := 8 * ah + i
        let e := r.exponent (fld x.word 9 2) + rowInt8 vx (i % 4) + rowInt8 vx (4 + 2 * ah + i / 4)
        lane32 ((regsOf u g).vr (fld x.word 31 5)) i =
          (if r.satBit n && !x.qmult then (if 0 < (r.ac n).toInt then 0x7F800000 else 0xFF800000)
           else toF32 ((f32 (lane32 (x.src 30 25) i)).add ((FVal.ofInt (r.ac n).toInt).scale e)))) ∧
      ∀ n, n < 16 → (regsOf u g).ac n = (if fld x.word 12 1 = 1 ∧ n / 8 = ah then 0 else r.ac n)))

/-- FMA, ADD, MUL and MAX (R148, R149, R152) in every type: lane i of VD, of the half H in the 16-bit types, is the
exact result of lane i of the operands rounded once, or the INT32 result modulo 2^32; MAX and MIN by R152. ADD with CV (R154):
narrowing adds FP32 lanes and rounds once to TY into half H; widening adds the lanes of half H and writes FP32 lanes to all of
VD. -/
def Obligations.VectorArithmeticResults : Prop :=
  (∀ (s : State) (g : CellId) (t : BitVec 16) (p : Nat) (it : Iter), bubbles s g p it = false →
     let x := firingOf s g p it
     let ty := vty x
     let h := vhalf x
     let d := fun v i => (tyFmt ty).decode (vlane ty h v i)
     let width := if ty = 1 ∨ ty = 2 then 16 else 32
     let out := fun (u : State) i => BitVec.ofNat width (vlane ty h ((regsOf u g).vr (vdst x)) i)
     (CanFire opFMA g t s p it → Completes (.fma g t) s (fun u => ∀ i, i < 8 → out u i =
       if ty = 3 then BitVec.ofNat width (lane32 (opA x) i * lane32 (opB x) i + lane32 (opC x) i).toNat
       else BitVec.ofNat width ((tyFmt ty).roundBits (((d (opA x) i).mul (d (opB x) i)).add (d (opC x) i))))) ∧
     (CanFire opADD g t s p it → fld x.word 11 2 = 0 → Completes (.add g t) s (fun u => ∀ i, i < 8 → out u i =
       if ty = 3 then BitVec.ofNat width (lane32 (opA x) i + lane32 (opB x) i).toNat
       else BitVec.ofNat width ((tyFmt ty).roundBits ((d (opA x) i).add (d (opB x) i))))) ∧
     (CanFire opMUL g t s p it → Completes (.mul g t) s (fun u => ∀ i, i < 8 → out u i =
       if ty = 3 then BitVec.ofNat width (lane32 (opA x) i * lane32 (opB x) i).toNat
       else BitVec.ofNat width ((tyFmt ty).roundBits ((d (opA x) i).mul (d (opB x) i))))) ∧
     (CanFire opMAX g t s p it → Completes (.max g t) s (fun u => ∀ i, i < 8 → out u i =
       if ty = 3 then
         BitVec.ofNat width (if fld x.word 0 1 = 1 then
           (if (lane32 (opA x) i).toInt < (lane32 (opB x) i).toInt then lane32 (opA x) i else lane32 (opB x) i)
         else (if (lane32 (opA x) i).toInt < (lane32 (opB x) i).toInt then lane32 (opB x) i else lane32 (opA x) i)).toNat
       else BitVec.ofNat width ((tyFmt ty).roundBits (fmax (fld x.word 0 1 == 1) (d (opA x) i) (d (opB x) i)))))) ∧
  (∀ (s : State) (g : CellId) (t : BitVec 16) (p : Nat) (it : Iter), CanFire opADD g t s p it → bubbles s g p it = false →
     let x := firingOf s g p it
     let ty := vty x
     let h := vhalf x
     (ty = 1 ∨ ty = 2) →
     (fld x.word 11 2 = 1 → Completes (.add g t) s (fun u => ∀ i, i < 8 →
       BitVec.ofNat 16 (vlane ty h ((regsOf u g).vr (vdst x)) i)
         = BitVec.ofNat 16 ((tyFmt ty).roundBits ((f32 (lane32 (opA x) i)).add (f32 (lane32 (opB x) i)))) ∧
       vlane ty (1 - h) ((regsOf u g).vr (vdst x)) i = vlane ty (1 - h) ((regsOf s g).vr (vdst x)) i)) ∧
     (fld x.word 11 2 = 2 → Completes (.add g t) s (fun u => ∀ i, i < 8 →
       lane32 ((regsOf u g).vr (vdst x)) i = BitVec.ofNat 32 (fp32.roundBits
         (((tyFmt ty).decode (vlane ty h (opA x) i)).add ((tyFmt ty).decode (vlane ty h (opB x) i)))))))

/-- CMP writes all ones where the condition holds and all zeros elsewhere, SEL chooses bitwise by the lane of c (R152),
and neither sets the NaN flag (R150). RSQRT, RCP, EXP2 and LOG2 write to lane i the function of lane i rounded once (R152, R153);
LSUM writes the rounded tree sum to every lane; SHUF chooses each byte by the selector byte of c. RSQRT, RCP, EXP2 and LOG2 of
the special inputs give the results of R153. -/
def Obligations.ComparisonsLaneFunctionsAndSpecialInputs : Prop :=
  (∀ (s : State) (g : CellId) (t : BitVec 16) (p : Nat) (it : Iter), bubbles s g p it = false →
     let x := firingOf s g p it
     let ty := vty x
     let h := vhalf x
     let d := fun v i => (tyFmt ty).decode (vlane ty h v i)
     let out := fun (u : State) i => vlane ty h ((regsOf u g).vr (vdst x)) i
     (CanFire opCMP g t s p it → Completes (.cmp g t) s (fun u => (regsOf u g).nan = (regsOf s g).nan ∧ ∀ i, i < 8 →
       out u i = if (if ty = 3 then icond (fld x.word 0 3) (lane32 (opA x) i).toInt (lane32 (opB x) i).toInt
           else fcond (fld x.word 0 3) (d (opA x) i) (d (opB x) i)) then
         (if ty = 1 ∨ ty = 2 then 0xFFFF else 0xFFFFFFFF) else 0)) ∧
     (CanFire opSEL g t s p it → Completes (.sel g t) s (fun u => (regsOf u g).nan = (regsOf s g).nan ∧ ∀ i, i < 8 →
       out u i = if vlane ty h (opC x) i = 0 then vlane ty h (opB x) i else vlane ty h (opA x) i))) ∧
  (∀ (s : State) (g : CellId) (t : BitVec 16) (p : Nat) (it : Iter), bubbles s g p it = false →
    let x := firingOf s g p it
    let a := fun i => lane32 (opA x) i
    let out := fun (u : State) i => lane32 ((regsOf u g).vr (vdst x)) i
    (CanFire opRSQRT g t s p it →
      Completes (.rsqrt g t) s (fun u => ∀ i, i < 8 → out u i = toF32 (f32 (a i)).rsqrt)) ∧
    (CanFire opRCP g t s p it → Completes (.rcp g t) s (fun u => ∀ i, i < 8 → out u i = toF32 (f32 (a i)).rcp)) ∧
    (CanFire opEXP2 g t s p it → Completes (.exp2 g t) s (fun u => ∀ i, i < 8 → out u i = toF32 (f32 (a i)).exp2)) ∧
    (CanFire opLOG2 g t s p it → Completes (.log2 g t) s (fun u => ∀ i, i < 8 → out u i = toF32 (f32 (a i)).log2)) ∧
    (CanFire opLSUM g t s p it → Completes (.lsum g t) s (fun u => ∀ i, i < 8 → out u i =
      addF32 (addF32 (addF32 (a 0) (a 1)) (addF32 (a 2) (a 3))) (addF32 (addF32 (a 4) (a 5)) (addF32 (a 6) (a 7))))) ∧
    (CanFire opSHUF g t s p it → Completes (.shuf g t) s (fun u => ∀ j, j < 32 →
      let c := rowByte (opC x) j
      rowByte ((regsOf u g).vr (vdst x)) j =
        if 128 ≤ c then 0 else if c % 64 < 32 then rowByte (opA x) (c % 64) else rowByte (opB x) (c % 64 - 32)))) ∧
  ((∀ m e, m ≠ 0 → (FVal.fin true m e).rsqrt = .nan ∧ (FVal.fin true m e).log2 = .nan) ∧
  (FVal.inf true).rsqrt = .nan ∧ (FVal.inf true).log2 = .nan ∧
  (∀ b e, (FVal.fin b 0 e).rsqrt = .inf b ∧ (FVal.fin b 0 e).rcp = .inf b ∧ (FVal.fin b 0 e).log2 = .inf true) ∧
  toF32 (FVal.inf false).rsqrt = 0 ∧ toF32 (FVal.inf false).rcp = 0 ∧ toF32 (FVal.inf true).rcp = 0x80000000 ∧
  toF32 (FVal.inf true).exp2 = 0 ∧ (FVal.inf false).exp2 = .inf false ∧ (FVal.inf false).log2 = .inf false ∧
  (∀ (m : Nat) (e : Int), m ≠ 0 → 9 ≤ (m.log2 : Int) + e → toF32 (FVal.fin false m e).exp2 = 0x7F800000))
/-- The 24 bench firings (R138): a firing, bubble or not, emits exactly one token on each port of
EMIT and none elsewhere (R135), but for the GRAD_DONE and fit tokens, which follow on the first such port (R157, R264); the
tokens of its FIRE ports are consumed, and the iteration goes on to the next word or ends (R92). A bubble firing writes no
register, accumulator or product table, sets no flag and counts in no range statistic; it counts in `BUBBLE_COUNT` of its cabinet
(R96, R131). -/
def Obligations.FiringsEmitTokensAndBubblesWriteNothing : Prop :=
  (∀ (op : Nat) (c : CellId → BitVec 16 → Instr), (op, c) ∈ firings →
     ∀ (s : State) (g : CellId) (t : BitVec 16) (p : Nat) (it : Iter), CanFire op g t s p it →
     (stageOf (firingOf s g p it)).isSome = true →
     let x := firingOf s g p it
     Completes (c g t) s (fun u =>
       (∀ port, ∃ own more, fiveGet (u.bench g.toNat).outQ port = fiveGet (s.bench g.toNat).outQ port ++ own ++ more ∧
         own.length = (if port ∈ emitPorts x.word then 1 else 0) ∧
         (∀ k ∈ own, k.tag = x.outTag (bubbles s g p it) ∧ k.kind = wCk x.word ∧ k.epoch = x.epoch) ∧
         (∀ k ∈ more, k.kind = .control ∧ (emitPorts x.word).head? = some port ∧ (wOp x.word = opQNT ∨ wOp x.word = opACCX)) ∧
         (bubbles s g p it = true → ∀ k ∈ own, k.valid = false ∧ k.payload = 0)) ∧
       (u.bench g.toNat).iters.find? (fun i => i.tag == t) =
         (if (s.bench g.toNat).prog.length ≤ it.next + 1 then none
          else some { it with next := it.next + 1,
                              used := (firePorts x.word).foldl (fun n q => fiveSet n q (fiveGet n q + 1)) it.used }))) ∧
  (∀ (op : Nat) (c : CellId → BitVec 16 → Instr), (op, c) ∈ firings →
     ∀ (s : State) (g : CellId) (t : BitVec 16) (p : Nat) (it : Iter), CanFire op g t s p it →
     (stageOf (firingOf s g p it)).isSome = true → bubbles s g p it = true →
     Completes (c g t) s (fun u => regsOf u g = regsOf s g ∧ (u.bench g.toNat).gd = (s.bench g.toNat).gd ∧
       u.reg (rCabCount (g.toNat / 256) 1) = s.reg (rCabCount (g.toNat / 256) 1) + 1 ∧
       u.mem = s.mem ∧ u.integ = s.integ ∧ u.parts = s.parts ∧ u.ctxs = s.ctxs))

/-- A sampled firing puts its operands, its tokens and its registers into a free capture slot of its bench, the first one before
the second; the ordinal of its instruction counts every firing but the bubble firings (R477, R478). While both slots hold captures,
a firing that R477 selects is not issued (R479), and no other firing touches them. A residue or parity fault of a firing counts and
sets its cause, its report is written, it opens the window of the partition, and inside a step it sets `STEP_CAUSE.RESIDUE` (R471,
R473, R483, R490, R501, R502). A STEER whose two tokens are of one kind is a fabric fault (R99); that its tokens stay is log 78, the
model's choice. -/
def Obligations.FiringsAreSampledAndTheirFaultsReported : Prop :=
  (∀ (op : Nat) (c : CellId → BitVec 16 → Instr), (op, c) ∈ firings →
    ∀ (s : State) (g : CellId) (t : BitVec 16) (p : Nat) (it : Iter), NextFiring op g t s p it →
    let x := firingOf s g p it
    let b := s.bench g.toNat
    (stageOf x).isSome = true → steerClash x = false → roomOut x b (bubbles s g p it) = true →
    (samples s g p it = false → Completes (c g t) s (fun u =>
      (u.bench g.toNat).cap0 = b.cap0 ∧ (u.bench g.toNat).cap1 = b.cap1 ∧
      ∀ n, sget 0 (u.bench g.toNat).ords n = sget 0 b.ords n + (if n = it.next ∧ bubbles s g p it = false then 1 else 0))) ∧
    (samples s g p it = true → b.cap0 = none ∨ b.cap1 = none → Completes (c g t) s (fun u => ∃ k : Capture,
      (u.bench g.toNat).cap0 = (if b.cap0 = none then some k else b.cap0) ∧
      (u.bench g.toNat).cap1 = (if b.cap0 = none then b.cap1 else some k) ∧
      k.idx = it.next ∧ k.ord = sget 0 b.ords it.next ∧ k.tag = t ∧ k.word = x.word ∧ k.pre = regsOf s g ∧ k.toks = x.toks ∧
      k.out.regs = { regsOf u g with ranges := k.out.regs.ranges } ∧
      sget 0 (u.bench g.toNat).ords it.next = sget 0 b.ords it.next + 1)) ∧
    (samples s g p it = true → b.cap0 ≠ none → b.cap1 ≠ none → Leaves (c g t) s s)) ∧
  (∀ (op : Nat) (c : CellId → BitVec 16 → Instr), (op, c) ∈ firings →
    ∀ (s : State) (g : CellId) (t : BitVec 16) (p : Nat) (it : Iter) (o : StageOut) (kind detail : Nat),
    CanFire op g t s p it → bubbles s g p it = false → stageOf (firingOf s g p it) = some o → o.faults = [(kind, detail)] →
    Reports s p → (s.part p).window = false →
    s.rf rRetireCtrl 0 4 = 0 ∨ sget 0 s.integ.faults (physKey s g.toNat) + 1 < s.rf rRetireCtrl 0 4 →
    Completes (c g t) s (fun u =>
      u.reg (rIntegCount p (if kind = 1 then 2 else 3)) = s.reg (rIntegCount p (if kind = 1 then 2 else 3)) + 1 ∧
      (u.reg rIntegCause).getLsbD (if kind = 1 then icResidue else icParity) = true ∧ u.integ.seq = s.integ.seq + 1 ∧
      u.rf (rLastReport 0) 0 16 = kind % 65536 ∧ (u.part p).window = true ∧ (u.part p).halted = (s.part p).halted ∧
      sget 0 u.integ.faults (physKey s g.toNat) = sget 0 s.integ.faults (physKey s g.toNat) + 1 ∧
      (inStep s p = true → (u.ctx p).causes.getLsbD scResidue = true ∧ (u.stepReg p oStepCause).getLsbD scResidue = true))) ∧
  (∀ (s : State) (g : CellId) (t : BitVec 16) (p : Nat) (it : Iter), NextFiring opSTEER g t s p it →
    steerClash (firingOf s g p it) = true → Reports s p →
    Completes (.steer g t) s (fun u => u.bench g.toNat = s.bench g.toNat ∧
      (u.reg (rCabCause (g.toNat / 256))).getLsbD ccPort = true ∧
      (u.reg (rCellFault (g.toNat / 256) (g.toNat % 256 / 64))).getLsbD (g.toNat % 64) = true ∧
      (u.part p).halted = true ∧ u.integ.seq = s.integ.seq + 1 ∧ u.rf (rLastReport 0) 0 16 = 0x11))

/-- The frame of the 24 bench firings, whatever happens in them: every other cell, the drawer and the switch of the cell,
every sequencer, engine and plinth, every port but for the votes that a halt sends (R67, R385), the registers below the ring
pages (SYS, CLK, PWR, SEC, the access tables) but `HOST_CAUSE`, the flash and the fuses; and every byte of memory outside the ring
of the integrity log (R487). -/
def Obligations.FiringsLeaveOtherCellsAlone : Prop :=
  ∀ (op : Nat) (c : CellId → BitVec 16 → Instr), (op, c) ∈ firings →
    ∀ (g : CellId) (t : BitVec 16) (s u : State), exec (c g t) s = .next u →
      (∀ h, h ≠ g.toNat → u.cell h = s.cell h) ∧ u.dr g.toNat = s.dr g.toNat ∧ u.sw g.toNat = s.sw g.toNat ∧
      (u.bench g.toNat).prog = (s.bench g.toNat).prog ∧ (u.bench g.toNat).k = (s.bench g.toNat).k ∧
      u.dowel = s.dowel ∧ u.edges = s.edges ∧ u.gathers = s.gathers ∧ u.plinths = s.plinths ∧
      (∀ n, u.link n = { s.link n with queue := (u.link n).queue, unacked := (u.link n).unacked, txSeq := (u.link n).txSeq,
                                       credit := (u.link n).credit }) ∧
      u.eths = s.eths ∧ u.clk = s.clk ∧ u.drErr = s.drErr ∧ u.sec.flash = s.sec.flash ∧ u.sec.fuses = s.sec.fuses ∧
      (∀ c, (u.cab c).seq = (s.cab c).seq) ∧ u.fields = s.fields ∧
      (MemOk s → ∀ a, a < (s.reg rLogBase).toNat ∨ (s.reg rLogBase).toNat + (s.reg rLogSize).toNat ≤ a → byteOf u a = byteOf s a) ∧
      ∀ a, a < rRing 0 0 → a ≠ rHostCause → u.reg a = s.reg a

/-- STEER gives the data token to emit port s mod k of the control token and a bubble to the others (R99, R158); MERGE
assembles its result word by word (R159); TAGX makes the tag value (R160), and both write VD when WR is 1. -/
def Obligations.TokenFormatResults : Prop :=
  ∀ (s : State) (g : CellId) (t : BitVec 16) (p : Nat) (it : Iter), bubbles s g p it = false →
    let x := firingOf s g p it
    let w := x.word
    let last := fun (u : State) port => (fiveGet (u.bench g.toNat).outQ port).getLast?
    (CanFire opSTEER g t s p it → ∀ c d, x.consumed.find? (fun k => k.kind == .control) = some c →
      x.consumed.find? (fun k => k.kind != .control) = some d →
      Completes (.steer g t) s (fun u => regsOf u g = regsOf s g ∧
        ∀ i port, (emitPorts w)[i]? = some port → ∃ k, last u port = some k ∧
          (if i = fld c.payload 0 3 % (emitPorts w).length then k.valid = true ∧ k.payload = d.payload
           else k.valid = false ∧ k.payload = 0))) ∧
    (CanFire opMERGE g t s p it → Completes (.merge g t) s (fun u => ∀ v,
      (v = if fld w 38 1 = 1 then some ((regsOf u g).vr (fld w 33 5))
           else ((emitPorts w).head?.bind (last u)).map (·.payload)) →
      (fld w 38 1 = 0 → regsOf u g = regsOf s g) ∧ ∀ row ∈ v, ∀ i, i < 8 →
        lane32 row i = (if fld w (3 * i) 3 ≤ 4 then lane32 (x.payload (portOf (fld w (3 * i) 3))) i
          else if fld w (3 * i) 3 = 5 then lane32 ((regsOf s g).vr (fld w 28 5)) i else 0))) ∧
    (CanFire opTAGX g t s p it → Completes (.tagx g t) s (fun u => ∀ v,
      (v = if fld w 38 1 = 1 then some ((regsOf u g).vr (fld w 33 5))
           else ((emitPorts w).head?.bind (last u)).map (·.payload)) →
      (fld w 38 1 = 0 → regsOf u g = regsOf s g) ∧ ∀ row ∈ v, ∀ i, i < 8 →
        lane32 row i = (if fld w 32 1 = 1 then BitVec.ofNat 32 t.toNat else BitVec.ofNat 32 ((t.toNat + i) % 65536))))

/-- QNT (R163, R164, R237): element k takes code 0 when it is not finite, and otherwise the code of R237 against the
block exponent; the exponent goes to byte SB of VX, and the two record slots are both written. DQT (R165): element k is
VC[code] × 2^x rounded once, an escape takes the valid record of its position, or is a not-a-number. -/
def Obligations.QuantiseAndDequantise : Prop :=
  (∀ (s : State) (g : CellId) (t : BitVec 16) (p : Nat) (it : Iter), CanFire opQNT g t s p it → bubbles s g p it = false →
    let x := firingOf s g p it
    let w := x.word
    let r := regsOf s g
    let c2 := fld w 38 1 == 1
    let b := codebook (r.vr (fld w 19 5)) c2
    let vs := blockElems r (fld w 24 5) (fld w 34 1 == 1)
    let e := (blockExp vs (cmaxOf b) (rowInt8 (r.vr (fld w 14 5)) (fld w 4 5)) (fld (x.kc (fld w 0 4)) 15 1 == 1)).1
    let q := quantAll b e (fun k => if fld w 35 1 = 1 then some (x.rand 0 k) else none) vs 0 {}
    fld w 14 5 ≠ fld w 29 5 → fld w 14 5 ≠ fld w 9 5 → fld w 29 5 ≠ fld w 9 5 → c2 = true ∨ fld w 36 2 % 2 = 0 →
    Completes (.qnt g t) s (fun u =>
      (∀ k, k < 32 →
        codeAt ((regsOf u g).vr (fld w 29 5) >>> (if c2 then 64 * fld w 36 2 else 128 * (fld w 36 2 / 2))) 0 c2 k
          = q.codes.getD k 0) ∧
      (∀ k, k < 32 → (vs.getD k .nan).isFinite = false → q.codes.getD k 0 = 0) ∧
      rowInt8 ((regsOf u g).vr (fld w 14 5)) (fld w 4 5) = toSigned (byteOfInt e) 8 ∧
      fld ((regsOf u g).vr (fld w 9 5)) (64 * (fld w 4 5 % 4)) 32 = q.recs.getD 0 0 ∧
      fld ((regsOf u g).vr (fld w 9 5)) (64 * (fld w 4 5 % 4) + 32) 32 = q.recs.getD 1 0)) ∧
  (∀ (s : State) (g : CellId) (t : BitVec 16) (p : Nat) (it : Iter), CanFire opDQT g t s p it → bubbles s g p it = false →
    let x := firingOf s g p it
    let w := x.word
    let r := regsOf s g
    let c2 := fld w 38 1 == 1
    let b := codebook (r.vr (fld w 19 5)) c2
    let e := rowInt8 (r.vr (fld w 14 5)) (fld w 4 5)
    Completes (.dqt g t) s (fun u => ∀ k, k < 32 →
      let c := if c2 then fld (r.vr (fld w 24 5)) (64 * fld w 36 2 + 2 * k) 2
        else fld (r.vr (fld w 24 5)) (64 * fld w 36 2 + 4 * k) 4
      let slots := [fld (r.vr (fld w 9 5)) (64 * (fld w 4 5 % 4)) 32, fld (r.vr (fld w 9 5)) (64 * (fld w 4 5 % 4) + 32) 32]
      let found := slots.find? (fun v => bitsOf v 31 1 == 1 && bitsOf v 16 5 == k)
      let value := if escapeCode b = some c then (found.map (fun v => bf16.decode (bitsOf v 0 16))).getD .nan
        else (b.getD c .nan).scale e
      (fld w 34 1 = 0 → lane32 ((regsOf u g).vr (fld w 29 5 + k / 8)) (k % 8) = toF32 value) ∧
      (fld w 34 1 = 1 → lane16 ((regsOf u g).vr (fld w 29 5 + k / 16)) (k % 16) = toBf16 value)))

/-- UPD (R166, R167, R280): weight k becomes what the recurrence makes of gradient, weight and state of element k with
the coefficients of row ROW and the step number; UPDS (R168, R288) writes the present step number into lane 0 of VT and
leaves lanes 1 to 7. -/
def Obligations.UpdateFirings : Prop :=
  (∀ (s : State) (g : CellId) (t : BitVec 16) (p : Nat) (it : Iter), CanFire opUPD g t s p it → bubbles s g p it = false →
    let x := firingOf s g p it
    let w := x.word
    let r := regsOf s g
    let c := fun i => x.coef.getD i 0
    let n := (x.step - c 12 + 1).toNat
    let vw := fld w 28 5
    let vs := fld w 23 5
    let vx := fld w 18 5
    vw % 2 = 0 → vs % 2 = 0 → vw ≠ vs → vx ≠ vw → vx ≠ vw + 1 →
    Completes (.upd g t) s (fun u => ∀ k, k < 32 →
      let s1 := (FVal.ofInt (rowInt8 (r.vr vs) k)).scale (rowInt8 (r.vr vx) (2 * fld w 14 4))
      let s2 := (FVal.ofInt (rowByte (r.vr (vs + 1)) k)).scale (rowInt8 (r.vr vx) (2 * fld w 14 4 + 1))
      lane16 ((regsOf u g).vr (vw + k / 16)) (k % 16) =
        (updOne c (biasCorr (c 10) n) (biasCorr (c 11) n) (fld (c 15) 0 1 == 1) (lane32 (r.vr (fld w 33 5 + k / 8)) (k % 8))
          (ofBf16 (lane16 (r.vr (vw + k / 16)) (k % 16))) s1 (s2.mul s2)).1)) ∧
  (∀ (s : State) (g : CellId) (t : BitVec 16) (p : Nat) (it : Iter), CanFire opUPDS g t s p it → bubbles s g p it = false →
    let x := firingOf s g p it
    let vt := fld x.word 13 5
    vt ≠ fld x.word 28 5 → vt ≠ fld x.word 28 5 + 1 → vt ≠ fld x.word 23 5 → vt ≠ fld x.word 23 5 + 1 → vt ≠ fld x.word 18 5 →
    Completes (.upds g t) s (fun u => lane32 ((regsOf u g).vr vt) 0 = x.step ∧
      ∀ i, 0 < i → i < 8 → lane32 ((regsOf u g).vr vt) i = lane32 ((regsOf s g).vr vt) i))

/-! ### Tokens, switches and the change of a cell (03, 05) -/

/-- TOKEN_ARRIVE completes on every data or control token of the cell's epoch at the head of a port that the program names
(R92, R93): it enters the matching store, and opens an iteration when none of its tag is in flight. With 64 iterations in
flight, or 64 tokens in the store, it stays at the port; a token behind the last one that its iteration takes stays too. -/
def Obligations.ArrivingTokensEnterTheirIteration : Prop :=
  ∀ (s : State) (g : CellId) (p : Port) (k : Tok) (rest : List Tok),
    let b := s.bench g.toNat
    cellRuns s g.toNat = true → fiveGet b.inQ p = k :: rest → k.kind = .data ∨ k.kind = .control →
    k.epoch = cellEpoch s g.toNat → namedPort b p = true →
    (b.store.length < 64 → b.iters.find? (fun i => i.tag == k.tag) = none → b.iters.length < 64 →
      Leaves (.tokenArrive g p) s (s.setBench g.toNat { b with
        inQ := fiveSet b.inQ p rest, store := b.store ++ [{ port := p, tok := k }], order := b.order + 1,
        iters := b.iters ++ [{ tag := k.tag, next := 0, used := ⟨0, 0, 0, 0, 0⟩, order := b.order }] })) ∧
    (∀ it, b.store.length < 64 → b.iters.find? (fun i => i.tag == k.tag) = some it → received b it p < portCount b p →
      Leaves (.tokenArrive g p) s (s.setBench g.toNat { b with
        inQ := fiveSet b.inQ p rest, store := b.store ++ [{ port := p, tok := k }] })) ∧
    (64 ≤ b.store.length → b.iters.find? (fun i => i.tag == k.tag) = none → b.iters.length < 64 →
      Leaves (.tokenArrive g p) s (s.setBench g.toNat { b with
        order := b.order + 1,
        iters := b.iters ++ [{ tag := k.tag, next := 0, used := ⟨0, 0, 0, 0, 0⟩, order := b.order }] })) ∧
    (∀ it, 64 ≤ b.store.length → b.iters.find? (fun i => i.tag == k.tag) = some it →
      Completes (.tokenArrive g p) s (fun u => u.bench g.toNat = b)) ∧
    (b.iters.find? (fun i => i.tag == k.tag) = none → 64 ≤ b.iters.length →
      Completes (.tokenArrive g p) s (fun u => u.bench g.toNat = b)) ∧
    (∀ it, b.iters.find? (fun i => i.tag == k.tag) = some it → portCount b p ≤ received b it p →
      Completes (.tokenArrive g p) s (fun u => u.bench g.toNat = b))

/-- A data or control token that reaches an input port named by no instruction of the bench's program is a fabric fault: the
bench sets its cell's FAULT bit and `CAB_CAUSE.PORT`, a fault report is written, and the partition halts (R97). -/
def Obligations.TokensOnUnnamedPortsAreFabricFaults : Prop :=
  ∀ (s : State) (g : CellId) (p : Port) (k : Tok) (rest : List Tok) (q : Nat),
    let b := s.bench g.toNat
    cellRuns s g.toNat = true → partOfCell s g.toNat = some q → Reports s q → fiveGet b.inQ p = k :: rest →
    fireable k = true → k.epoch = cellEpoch s g.toNat → namedPort b p = false →
    Completes (.tokenArrive g p) s (fun u =>
      (u.reg (rCabCause (g.toNat / 256))).getLsbD ccPort = true ∧
      (u.reg (rCellFault (g.toNat / 256) (g.toNat % 256 / 64))).getLsbD (g.toNat % 64) = true ∧
      (u.part q).halted = true ∧ u.integ.seq = s.integ.seq + 1 ∧ u.rf (rLastReport 0) 0 16 = 0x11)

/-- A data or control token of the wrong epoch, in an input queue or arriving on a channel, and a second end token on a port that
has passed are fabric faults (R97, R201, R208): the FAULT bit of the cell and the bit of `CAB_CAUSE` are set, a fault report is
written and the partition halts. That the faulting token leaves its queue is log 12, the model's choice; so does one on a port that
no instruction names. -/
def Obligations.FabricFaultsHaltThePartition : Prop :=
  (∀ (s : State) (g : CellId) (p : Port) (k : Tok) (rest : List Tok) (q : Nat),
    let b := s.bench g.toNat
    let fault := fun (bit : Nat) (u : State) =>
      (u.reg (rCabCause (g.toNat / 256))).getLsbD bit = true ∧
      (u.reg (rCellFault (g.toNat / 256) (g.toNat % 256 / 64))).getLsbD (g.toNat % 64) = true ∧
      (u.part q).halted = true ∧ u.integ.seq = s.integ.seq + 1 ∧ fiveGet (u.bench g.toNat).inQ p = rest
    cellRuns s g.toNat = true → partOfCell s g.toNat = some q → Reports s q → fiveGet b.inQ p = k :: rest →
    (fireable k = true → k.epoch ≠ cellEpoch s g.toNat → Completes (.tokenArrive g p) s (fault ccEpoch)) ∧
    (fireable k = true → k.epoch = cellEpoch s g.toNat → namedPort b p = false →
      Completes (.tokenArrive g p) s (fun u => fiveGet (u.bench g.toNat).inQ p = rest)) ∧
    (k.kind = .fin → namedPort b p = true → fiveGet b.passedP p = true →
      Completes (.endTokenArrive g p) s (fault ccPort))) ∧
  (∀ (s : State) (g : CellId) (side : Side) (h : Nat) (k : Tok) (rest : List Tok) (q : Nat),
    cellRuns s g.toNat = true → partOfCell s g.toNat = some q → Reports s q →
    (fourGet (s.sw g.toNat).wait side).length < 4 → chanTo s g.toNat side = some (.inl h) → h ≠ g.toNat →
    chanHead s h (opposite side) = some k → chanQueue s h (opposite side) = k :: rest → fireable k = true →
    k.epoch ≠ cellEpoch s g.toNat →
    Completes (.channelToken g side) s (fun u => chanQueue u h (opposite side) = rest ∧
      (u.reg (rCabCause (g.toNat / 256))).getLsbD ccEpoch = true ∧
      (u.reg (rCellFault (g.toNat / 256) (g.toNat % 256 / 64))).getLsbD (g.toNat % 64) = true ∧
      (u.part q).halted = true ∧ u.integ.seq = s.integ.seq + 1))

/-- END_TOKEN_ARRIVE (R201): an end token leaves the port, which counts as passed; on a port the program does not name it
is absorbed. BENCH_END_TOKEN (R202): a drained bench puts one end token of the old epoch on every output port it names.
DRAWER_END_TOKEN (R200): the end token of the read generator enters the D port. -/
def Obligations.EndTokensPass : Prop :=
  (∀ (s : State) (g : CellId) (p : Port) (k : Tok) (rest : List Tok),
    let b := s.bench g.toNat
    cellRuns s g.toNat = true → fiveGet b.inQ p = k :: rest → k.kind = .fin →
    (namedPort b p = false → Leaves (.endTokenArrive g p) s (s.setBench g.toNat { b with inQ := fiveSet b.inQ p rest })) ∧
    (namedPort b p = true → fiveGet b.passedP p = false →
      Leaves (.endTokenArrive g p) s (s.setBench g.toNat
        { b with inQ := fiveSet b.inQ p rest, passedP := fiveSet b.passedP p true }))) ∧
  (∀ (s : State) (g : CellId),
    let b := s.bench g.toNat
    cellRuns s g.toNat = true → b.ended = false → b.ahead = false → (∀ p, namedPort b p = true → fiveGet b.passedP p = true) →
    b.iters = [] → endPorts b ≠ [] → (∀ p ∈ endPorts b, (fiveGet b.outQ p).length < 4) →
    Completes (.benchEndToken g) s (fun u => (u.bench g.toNat).ended = true ∧ ∀ p,
      fiveGet (u.bench g.toNat).outQ p = fiveGet b.outQ p ++ (if p ∈ endPorts b then
        [{ payload := 0, tag := 0, valid := true, epoch := cellEpoch s g.toNat, kind := .fin }] else []))) ∧
  (∀ (s : State) (g : CellId) (q : Nat),
    let b := s.bench g.toNat
    let d := s.dr g.toNat
    partOfCell s g.toNat = some q → cellRuns s g.toNat = true → d.endSent = false → b.ahead = false →
    goBit s q = true → (s.ctx q).rerun ≠ 1 → readsDone d = true → (s.cab (g.toNat / 256)).nextReady = true →
    b.inQ.d.length < 4 →
    Completes (.drawerEndToken g) s (fun u => (u.dr g.toNat).endSent = true ∧ (u.bench g.toNat).inQ.d = b.inQ.d ++
      [{ payload := 0, tag := 0, valid := true, epoch := cellEpoch s g.toNat, kind := .fin }]))

/-- CHANNEL_TOKEN (R105, R107, R109): the first token on its way to an incoming channel, for which its sender held a credit,
goes to every destination the ROUTE names when all have room and none waits before it, and otherwise waits there for its fork;
FORK_PASS then hands it on. An end token closes its channel (R203). A token that waits at a gate of an incoming channel arrives in
the same way with the epoch of the cell, unless the cell is between its end tokens and its install or its port is frozen (R368,
R458). While the receiver of a boundary hop has no place, tokens of the sending bench still enter the stages of the hop
(R106, R107; their number is log 45, the model's choice). -/
def Obligations.ChannelsForkTokens : Prop :=
  (∀ (s : State) (g : CellId) (side : Side) (h : Nat) (k : Tok) (rest : List Tok),
    let waits := fourGet (s.sw g.toNat).wait side
    cellRuns s g.toNat = true → waits.length < 4 → chanTo s g.toNat side = some (.inl h) →
    h ≠ g.toNat → chanHead s h (opposite side) = some k → chanQueue s h (opposite side) = k :: rest →
    k.kind = .fin ∨ k.kind = .config ∨ k.epoch = cellEpoch s g.toNat →
    Completes (.channelToken g side) s (fun u => chanQueue u h (opposite side) = rest ∧
      (waits = [] → forkRoom s g.toNat side = true →
        (routeBench (s.sw g.toNat).route side = true →
          fiveGet (u.bench g.toNat).inQ (sidePort side) = fiveGet (s.bench g.toNat).inQ (sidePort side) ++ [k]) ∧
        (∀ o ∈ routeFrom (s.sw g.toNat).route side,
          fourGet (u.sw g.toNat).hop o = fourGet (s.sw g.toNat).hop o ++ [k]) ∧
        (k.kind = .fin → fourGet (u.bench g.toNat).passedC side = true)) ∧
      (waits ≠ [] ∨ forkRoom s g.toNat side = false → fourGet (u.sw g.toNat).wait side = waits ++ [k]))) ∧
  (∀ (s : State) (g : CellId) (side : Side) (n c : Nat) (k : Tok) (rest : List Tok),
    let waits := fourGet (s.sw g.toNat).wait side
    let k' := { k with epoch := cellEpoch s g.toNat }
    cellRuns s g.toNat = true → waits.length < 4 → chanTo s g.toNat side = some (.inr (n, c)) →
    sget [] (s.link n).gateOut c = k :: rest →
    (changing (s.bench g.toNat) = false → (s.link n).frozen = false → Completes (.channelToken g side) s (fun u =>
      sget [] (u.link n).gateOut c = rest ∧
      (waits = [] → forkRoom s g.toNat side = true →
        (routeBench (s.sw g.toNat).route side = true →
          fiveGet (u.bench g.toNat).inQ (sidePort side) = fiveGet (s.bench g.toNat).inQ (sidePort side) ++ [k']) ∧
        (∀ o ∈ routeFrom (s.sw g.toNat).route side,
          fourGet (u.sw g.toNat).hop o = fourGet (s.sw g.toNat).hop o ++ [k'])) ∧
      (waits ≠ [] ∨ forkRoom s g.toNat side = false → fourGet (u.sw g.toNat).wait side = waits ++ [k']))) ∧
    (changing (s.bench g.toNat) = true ∨ (s.link n).frozen = true → Idle (.channelToken g side) s)) ∧
  (∀ (s : State) (g : CellId) (side : Side) (h : Nat) (k : Tok) (rest : List Tok),
    let o := opposite side
    cellRuns s g.toNat = true → chanTo s g.toNat side = some (.inl h) → h ≠ g.toNat → 0 < hopStages s h o →
    4 ≤ placesHeld s h o → (fourGet (s.sw h).hop o).length < hopStages s h o → routeOut (s.sw h).route o = 1 →
    fieldRuns s (h / 65536) = true → fiveGet (s.bench h).outQ (sidePort o) = k :: rest →
    Completes (.channelToken g side) s (fun u => fiveGet (u.bench h).outQ (sidePort o) = rest ∧
      fourGet (u.sw h).hop o = fourGet (s.sw h).hop o ++ [k] ∧ u.cell g.toNat = s.cell g.toNat)) ∧
  (∀ (s : State) (g : CellId) (side : Side) (k : Tok) (ks : List Tok), cellRuns s g.toNat = true →
    fourGet (s.sw g.toNat).wait side = k :: ks → forkRoom s g.toNat side = true →
    Completes (.forkPass g side) s (fun u => fourGet (u.sw g.toNat).wait side = ks ∧
      (routeBench (s.sw g.toNat).route side = true →
        fiveGet (u.bench g.toNat).inQ (sidePort side) = fiveGet (s.bench g.toNat).inQ (sidePort side) ++ [k]) ∧
      ∀ o ∈ routeFrom (s.sw g.toNat).route side,
        fourGet (u.sw g.toNat).hop o = fourGet (s.sw g.toNat).hop o ++ [k]))

/-- CONFIG_ROW (R204–R206): a configuration row behind the drawer's end token waits in the D port, of the new epoch, until the
bench is drained, which then takes it. INSTALL (R206): after its last row it holds
the new program and constants, the counter of GRAD_DONE is 0, its epoch is inverted, and what no init record names keeps
its value. DRAWER_PART (R207): a finished drawer takes its new program and patterns. What the configuration rows hold (benchPart)
is log 79, the model's choice. -/
def Obligations.CellsInstallTheNextJig : Prop :=
  (∀ (s : State) (g : CellId) (q : Nat),
    let b := s.bench g.toNat
    let new := nextCfg s g.toNat
    partOfCell s g.toNat = some q → rowsDue s g.toNat q = true → b.cfg + configsIn b < benchRows new → b.inQ.d.length < 4 →
    (b.inQ.d = [] → rowsReady g.toNat b = true →
      Completes (.configRow g) s (fun u => (u.bench g.toNat).cfg = b.cfg + 1 ∧ (u.bench g.toNat).prog = b.prog ∧
        (u.bench g.toNat).inQ.d = [] ∧ (b.cfg = 0 → (u.bench g.toNat).regs.ranges = []))) ∧
    (rowsReady g.toNat b = false →
      Completes (.configRow g) s (fun u => u.bench g.toNat = { b with inQ := { b.inQ with d := b.inQ.d ++
        [{ payload := (benchPart new).getD (b.cfg + configsIn b) 0, tag := 0, valid := true, epoch := !cellEpoch s g.toNat,
           kind := .config }] } }))) ∧
  (∀ (s : State) (g : CellId),
    let b := s.bench g.toNat
    let new := nextCfg s g.toNat
    cellRuns s g.toNat = true → b.ahead = false → (s.cab (g.toNat / 256)).nextReady = true → b.cfg = benchRows new →
    Completes (.install g) s (fun u => (u.bench g.toNat).prog = new.prog ∧ (u.bench g.toNat).k = new.k ∧
      (u.bench g.toNat).gd = 0 ∧ (u.bench g.toNat).ahead = true ∧ (u.sw g.toNat).route = new.route ∧
      (u.bench g.toNat).regs.acc = b.regs.acc ∧ (u.bench g.toNat).regs.nan = b.regs.nan ∧
      (∀ r, (∀ x ∈ new.inits, ¬(x.kind = 0 ∧ x.index = r)) → (regsOf u g).vr r = (regsOf s g).vr r))) ∧
  (∀ (s : State) (g : CellId) (q : Nat),
    let b := s.bench g.toNat
    let d := s.dr g.toNat
    let new := nextCfg s g.toNat
    partOfCell s g.toNat = some q → cellRuns s g.toNat = true → d.endSent = true → d.taken = false → writesDone d = true →
    benchEnded b = true → cabHeld s q (g.toNat / 256) = false → (s.cab (g.toNat / 256)).nextReady = true →
    Completes (.drawerPart g) s (fun u => (u.dr g.toNat).prog = new.dprog ∧ (u.dr g.toNat).pats = new.pats ∧
      (u.dr g.toNat).mode = new.mode ∧ (u.dr g.toNat).taken = true ∧ (u.dr g.toNat).rdW = 0 ∧ (u.dr g.toNat).wrW = 0 ∧
      (d.mode = new.mode → d.mbase = new.mbase → d.msize = new.msize → d.slot = new.slot →
        (u.dr g.toNat).head = d.head ∧ (u.dr g.toNat).tail = d.tail)))

/-! ### The cabinet sequencers (05) -/

/-- NOP goes on; LDI gives x[XA] IMM zero-extended; ADDX gives x[XA] the sum of x[XB] and IMM sign-extended, modulo 2^64
(R213, R215). BR: COND 5 counts x[XA] down; where the condition holds the sequencer goes to the word IMM[31:0] away, else to the
next word (R215). Registers x14 and x15 are no targets of COND 5. The frame of NOP, LDI, ADDX and WAIT: in a memory without errors
they change their own cabinet's sequencer and instruction cache, the narrow path of a plinth and the plinths' counters, and nothing
else, unless the access tables deny the fetch (R409). -/
def Obligations.ControlWordsComputeAndBranch : Prop :=
  (∀ (c : CabId) (s : State) (p : Nat),
     let q := (s.cab c.toNat).seq
     let w := wordOf s p c
     (SeqReady cNOP c s p → Completes (.nop c) s (fun u => (u.cab c.toNat).seq = seqPast s c q.x)) ∧
     (SeqReady cLDI c s p → Completes (.ldi c) s (fun u =>
       (u.cab c.toNat).seq = seqPast s c (sset q.x (cwXa w) (BitVec.ofNat 64 (fld w 0 48))))) ∧
     (SeqReady cADDX c s p → Completes (.addx c) s (fun u =>
       (u.cab c.toNat).seq =
         seqPast s c (sset q.x (cwXa w) (xReg s p c.toNat (cwXb w) + BitVec.ofInt 64 (toSigned (fld w 0 48) 48))))) ∧
     (s.hbmErr = [] → (∀ n, seqPart s c.toNat = some n → fetchHit s c.toNat = true ∨
         hbmDenied s (mPart s n) kJig (seqAddr (s.cab c.toNat)) 8 = none) → ∀ i ∈ [Instr.nop c, .ldi c, .addx c, .wait c], ∀ u, exec i s = .next u →
       u = { s with csr := u.csr, cabs := u.cabs, plinths := u.plinths, sent := u.sent, sec := { s.sec with frames := u.sec.frames } } ∧
       (∀ d, d ≠ c.toNat → u.cab d = s.cab d) ∧
       u.cab c.toNat = { s.cab c.toNat with seq := (u.cab c.toNat).seq, icache := (u.cab c.toNat).icache } ∧
       ∀ a, (∀ k n, k < 8 → n < 15 → a ≠ rPlCount k n) → u.reg a = s.reg a)) ∧
  (∀ (c : CabId) (s : State) (p : Nat), SeqReady cBR c s p →
     let q := (s.cab c.toNat).seq
     let w := wordOf s p c
     let cond := fld w 45 3
     let v := if cond = 5 then xReg s p c.toNat (cwXa w) - 1 else xReg s p c.toNat (cwXa w)
     let x := if cond = 5 then sset q.x (cwXa w) v else q.x
     let taken : Bool := cond == 0 || (cond == 1 && v == 0) || (cond == 2 && v != 0) || (cond == 3 && v.toInt < 0)
       || (cond == 4 && 0 ≤ v.toInt) || (cond == 5 && v != 0)
     let target : Int := q.pos + toSigned (fld w 0 32) 32
     cond ≤ 5 → (cond = 5 → cwXa w < 14) →
     (taken = true → 0 ≤ target → target < q.len →
       Completes (.br c) s (fun u => (u.cab c.toNat).seq = { q with x := x, pos := target.toNat })) ∧
     (taken = false → Completes (.br c) s (fun u => (u.cab c.toNat).seq = seqPast s c x)))

/-- LDX loads the 64-bit word at x[XB] + IMM, from the data cache where its line is present and else from memory, and on a miss waits for the request slots of the narrow path (wait kind 7); STX
stores x[XA] there, and no other byte of memory changes; in a field test it leaves the leaves, the journal, the tensor table and the
streams as they are, and then stores nothing (log 63, the model's choice) (R117, R215, R227, R312, R500). The memory holds no
error. -/
def Obligations.LoadsAndStoresOfSequencers : Prop :=
  ∀ (c : CabId) (s : State) (p : Nat), MemOk s → s.hbmErr = [] →
    let q := (s.cab c.toNat).seq
    let w := wordOf s p c
    let a := (xReg s p c.toNat (cwXb w) + BitVec.ofInt 64 (toSigned (fld w 0 48) 48)).toNat
    (SeqReady cLDX c s p → a % 8 = 0 → hbmDenied s (mPart s p) kRead a 8 = none →
      (cacheLine (s.cab c.toNat).dcache dcSets a).isSome = true ∨ SlotsFree (seqFetch p c.toNat s).2 c.toNat a →
      Completes (.ldx c) s (fun u => (u.cab c.toNat).seq = seqPast s c (sset q.x (cwXa w)
        (match cacheLine (s.cab c.toNat).dcache dcSets a with
         | some l => BitVec.ofNat 64 (leAt l.data (a % 64) 8)
         | none => BitVec.ofNat 64 (ofBytes ((List.range 8).map (fun i => byteOf s (a + i)))))))) ∧
    (SeqReady cLDX c s p → a % 8 = 0 → hbmDenied s (mPart s p) kRead a 8 = none → fetchHit s c.toNat = true →
      cacheLine (s.cab c.toNat).dcache dcSets a = none → lineReady s c.toNat a = false →
      Completes (.ldx c) s (fun u => (u.cab c.toNat).seq = { q with wait := 7 })) ∧
    (SeqReady cSTX c s p → a % 8 = 0 → hbmDenied s (mPart s p) kWrite a 8 = none → testHolds s p a 8 = true →
      Completes (.stx c) s (fun u => (u.cab c.toNat).seq = seqPast s c q.x ∧ ∀ b, byteOf u b = byteOf s b)) ∧
    (SeqReady cSTX c s p → a % 8 = 0 → hbmDenied s (mPart s p) kWrite a 8 = none → testHolds s p a 8 = false →
      Completes (.stx c) s (fun u => (u.cab c.toNat).seq = seqPast s c q.x ∧
        (∀ i, i < 8 → byteOf u (a + i) = BitVec.ofNat 8 ((xReg s p c.toNat (cwXa w)).toNat >>> (8 * i))) ∧
        ∀ b, b < a ∨ a + 8 ≤ b → byteOf u b = byteOf s b))

/-- A misaligned or denied access of LDX or STX, and a taken branch of any COND out of the segment, are sequencer faults:
`CAB_CAUSE.SEQ` is set, the partition halts, and the sequencer stays at its word (R215, R218). -/
def Obligations.SequencerFaultsHalt : Prop :=
  ∀ (c : CabId) (s : State) (p : Nat), testing s p = false →
    let q := (s.cab c.toNat).seq
    let w := wordOf s p c
    let a := (xReg s p c.toNat (cwXb w) + BitVec.ofInt 64 (toSigned (fld w 0 48) 48)).toNat
    let faulted := fun (u : State) => (u.reg (rCabCause c.toNat)).getLsbD ccSeq = true ∧ (u.part p).halted = true ∧
      (u.cab c.toNat).seq.pos = q.pos
    (SeqReady cLDX c s p → a % 8 ≠ 0 ∨ hbmDenied s (mPart s p) kRead a 8 ≠ none → Completes (.ldx c) s faulted) ∧
    (SeqReady cSTX c s p → a % 8 ≠ 0 ∨ hbmDenied s (mPart s p) kWrite a 8 ≠ none → Completes (.stx c) s faulted) ∧
    (SeqReady cBR c s p →
      let cond := fld w 45 3
      let v := if cond = 5 then xReg s p c.toNat (cwXa w) - 1 else xReg s p c.toNat (cwXa w)
      let taken : Bool := cond == 0 || (cond == 1 && v == 0) || (cond == 2 && v != 0) || (cond == 3 && v.toInt < 0)
        || (cond == 4 && 0 ≤ v.toInt) || (cond == 5 && v != 0)
      let target : Int := q.pos + toSigned (fld w 0 32) 32
      cond ≤ 5 → (cond = 5 → cwXa w < 14) → taken = true → target < 0 ∨ (q.len : Int) ≤ target →
      Completes (.br c) s faulted)

/-- WAIT goes on once the event has reached x[XA][31:0] and else waits (kind 2); SIGNAL adds IMM to the event,
saturating (R215, R216). SEM.P takes its count from a semaphore that covers it when no other waits, and else joins the
queue (wait kind 3); SEM.V adds to a semaphore, and an overflow is a fault that leaves it unchanged (R216, R218). The queue is
served in order of arrival: SEM.V lets the first waiting SEM.P go on where the value covers its count, and not the next one while
the value left does not cover that; while the first is not covered, none goes on (R216). -/
def Obligations.EventsAndSemaphores : Prop :=
  (∀ (c : CabId) (s : State) (p : Nat),
    let q := (s.cab c.toNat).seq
    let w := wordOf s p c
    let ev := fun (u : State) => sget 0 (u.ctx p).ev (fld w 0 8)
    (SeqReady cWAIT c s p → fld (xReg s p c.toNat (cwXa w)) 0 32 ≤ (ev s).toNat →
      Completes (.wait c) s (fun u => (u.cab c.toNat).seq = seqPast s c q.x)) ∧
    (SeqReady cWAIT c s p → (ev s).toNat < fld (xReg s p c.toNat (cwXa w)) 0 32 →
      Completes (.wait c) s (fun u => (u.cab c.toNat).seq = { q with wait := 2 })) ∧
    (SeqReady cSIGNAL c s p → Completes (.signal c) s (fun u => (u.cab c.toNat).seq = seqPast s c q.x ∧
      (ev u).toNat = min ((ev s).toNat + fld w 8 32) 0xFFFFFFFF))) ∧
  (∀ (c : CabId) (s : State) (p : Nat),
    let q := (s.cab c.toNat).seq
    let w := wordOf s p c
    let i := fld w 0 6
    let n := fld w 8 32
    let idle := (s.ctx p).semQ.all (fun x => x.sem != i)
    (SeqReady cSEMP c s p → idle = true → n ≤ semValue s p i →
      Completes (.semP c) s (fun u => (u.cab c.toNat).seq = seqPast s c q.x ∧ semValue u p i = semValue s p i - n)) ∧
    (SeqReady cSEMP c s p → idle = true → semValue s p i < n →
      Completes (.semP c) s (fun u => (u.cab c.toNat).seq = { q with wait := 3 } ∧ semValue u p i = semValue s p i ∧
        (u.ctx p).semQ = (s.ctx p).semQ ++ [{ cab := c.toNat, sem := i, count := n }])) ∧
    (SeqReady cSEMV c s p → idle = true → semValue s p i + n ≤ 0xFFFFFFFF →
      Completes (.semV c) s (fun u => (u.cab c.toNat).seq = seqPast s c q.x ∧ semValue u p i = semValue s p i + n)) ∧
    (SeqReady cSEMV c s p → semValue s p i + n ≤ 0xFFFFFFFF → ∀ w1, (s.ctx p).semQ.find? (fun x => x.sem == i) = some w1 →
      (s.cab w1.cab).seq.wait = 3 →
      (w1.count ≤ semValue s p i + n →
        (∀ w2, ((s.ctx p).semQ.erase w1).find? (fun x => x.sem == i) = some w2 →
          w2.cab ≠ w1.cab ∧ (s.cab w2.cab).seq.wait = 3 ∧ semValue s p i + n - w1.count < w2.count) →
        Completes (.semV c) s (fun u => (u.cab c.toNat).seq = seqPast s c q.x ∧ semValue u p i = semValue s p i + n - w1.count ∧
          (u.ctx p).semQ = (s.ctx p).semQ.erase w1 ∧ (u.cab w1.cab).seq.wait = 0 ∧
          (u.cab w1.cab).seq.pos = (s.cab w1.cab).seq.pos + 1)) ∧
      (semValue s p i + n < w1.count →
        Completes (.semV c) s (fun u => (u.cab c.toNat).seq = seqPast s c q.x ∧ semValue u p i = semValue s p i + n ∧
          (u.ctx p).semQ = (s.ctx p).semQ ∧ u.cab w1.cab = s.cab w1.cab))) ∧
    (SeqReady cSEMV c s p → testing s p = false → 0xFFFFFFFF < semValue s p i + n →
      Completes (.semV c) s (fun u => (u.part p).halted = true ∧ semValue u p i = semValue s p i)))

/-- STOP stops its sequencer (R215); STRM.START appends its block list to the queue of the engine it names, after the GO of
its jig, while the queue holds fewer than 16 (R315), and waits before GO or while it is full. The last cabinet to arrive at BAR lets every cabinet
go on; at JIG.NEXT the spare slots start to fill from the named address and all go on; at JIG.LOAD with IMM[0] 0 they start to
fill and the sequencers stop; at JIG.LOAD with IMM[0] 1 it is a sequencer fault when no image has been named, the sequencers wait
while one fills, and stop for the switch of a JIG.NEXT (R184, R212, R215, R217, R218). -/
def Obligations.StopsStreamsBarriersAndJigFills : Prop :=
  (∀ (c : CabId) (s : State) (p : Nat),
    let q := (s.cab c.toNat).seq
    let w := wordOf s p c
    let e := fld w 8 3 * 32 + fld w 0 5
    let a := (xReg s p c.toNat (cwXa w)).toNat
    (SeqReady cSTOP c s p → q.issue = none →
      (takers s p (behind s p (s.cab c.toNat))).all (fun k => k.1 == c.toNat || k.2.seq.issue.isNone) = true →
      Completes (.stop c) s (fun u => (u.cab c.toNat).seq.wait = 5)) ∧
    (SeqReady cSTRM c s p → goSent s p (s.cab c.toNat) = true → (s.edge e).lists.length < 16 → s.hbmErr = [] →
      hbmDenied s (mPart s p) kRead a 64 = none → ∀ n sig, listHeader a (bytesIn s a 64) = some (n, sig) →
      Completes (.strmStart c) s (fun u => (u.cab c.toNat).seq = seqPast s c q.x ∧ (u.edge e).lists = (s.edge e).lists ++
        [{ id := (s.edge e).nextId, addr := a, part := p, slot := (s.part p).slot, next := 0, last := n, done := 0, count := n,
           sig := sig }])) ∧
    (SeqReady cSTRM c s p → goSent s p (s.cab c.toNat) = false →
      Completes (.strmStart c) s (fun u => (u.cab c.toNat).seq = { q with wait := 4 } ∧ u.edges = s.edges)) ∧
    (SeqReady cSTRM c s p → goSent s p (s.cab c.toNat) = true → 16 ≤ (s.edge e).lists.length →
      Completes (.strmStart c) s (fun u => (u.cab c.toNat).seq = q ∧ u.edges = s.edges))) ∧
  (∀ (c : CabId) (s : State) (p : Nat),
    let s1 := arrived s p c
    let i := issueIn s p c
    let old := sideIn s p c
    let filling := fun (u : State) (next : Bool) => ∀ d ∈ partCabs s1 p,
      (u.cab d).spare = { st := 1, addr := i.xa.toNat, img := [], next := next } ∧ (u.cab d).now = (s1.cab d).now
    (Joins cBAR c s p → Completes (.bar c) s (fun u => AllGoOn s1 u p old)) ∧
    (Joins cJIGNEXT c s p → (partCabs s1 p).all (fun d => (s1.cab d).spare.free) = true →
      Completes (.jigNext c) s (fun u => AllGoOn s1 u p old ∧ filling u true ∧
        (u.ctx p).fill = some (fNext, i.xa.toNat))) ∧
    (Joins cJIGLOAD c s p → fld i.word 0 1 = 0 → (partCabs s1 p).all (fun d => (s1.cab d).spare.free) = true →
      Completes (.jigLoad c) s (fun u => filling u false ∧ (u.ctx p).fill = some (fLoad, i.xa.toNat) ∧
        ∀ d, inPart s1 p d = true → waiting s1 p old (s1.cab d) = true →
          (u.cab d).seq.issue = none ∧ (u.cab d).seq.wait = 5)) ∧
    (let made := (takers s1 p old).map (fun e => e.2.readied)
     Joins cJIGLOAD c s p → fld i.word 0 1 = 1 →
      (testing s p = false → made.any Slot.free = true → Completes (.jigLoad c) s (fun u =>
        (u.reg (rCabCause c.toNat)).getLsbD ccSeq = true ∧ (u.part p).halted = true)) ∧
      (made.any Slot.free = false → made.any (fun x => x.st == 1) = true →
        Completes (.jigLoad c) s (fun u => u.cabs = s1.cabs ∧ (u.ctx p).load = (s.ctx p).load)) ∧
      (made.any Slot.free = false → made.any (fun x => x.st == 1) = false → made.any (fun x => x.next) = true ∨ old = true →
        Completes (.jigLoad c) s (fun u => (u.ctx p).load = (s.ctx p).load ∧
          ∀ d, inPart s1 p d = true → waiting s1 p old (s1.cab d) = true →
            (u.cab d).seq.issue = none ∧ (u.cab d).seq.wait = 5))))

/-- STEP.BEGIN completes in IDLE, and in DISCARDING when a retry is to follow, while the ring of its RUN holds fewer than 16
completions (R30, R61, R62, R216, R219, R295, R429): RUNNING, events and causes cleared, journal and stack empty, every
sequencer goes on; in IDLE it starts attempt 0. STEP.VOTE in RUNNING starts the vote: FORCED is set where it forces an unclean
vote; given again once the waits of R51 have ended, it sends the flags, and the sequencers go on (R51–R55, R219). STEP.DISCARD in
RUNNING votes force-unclean. That the flags go out as the command comes again is the model's choice (log 3). -/
def Obligations.StepBeginsAndVotes : Prop :=
  ∀ (c : CabId) (s : State) (p : Nat),
    let s1 := arrived s p c
    let x := s.ctx p
    let clean : Bool := x.causes &&& 0x7FD == 0
    let nan : Bool := x.nanIn || x.causes &&& 0x741 != 0
    (Joins cBEGIN c s p → stepState s p = sIdle ∨ (stepState s p = sDiscarding ∧ x.retry = true) → ringFull s p = false →
      testing s p = false →
      Completes (.stepBegin c) s (fun t => stepState t p = sRunning ∧
        (stepState s p = sIdle → stepRetries t p = 0) ∧ (stepState s p = sDiscarding → stepRetries t p = stepRetries s p) ∧
        journalUsed t p = 0 ∧ t.stepRf p oSpillUsed 0 32 = 0 ∧ (t.ctx p).ev = [] ∧ (t.ctx p).causes = 0 ∧ (t.ctx p).own = none ∧
        stepNumber t p = stepNumber s p ∧ AllGoOn s1 t p (sideIn s p c))) ∧
    (Joins cVOTE c s p → stepState s p = sRunning → s.hbmErr = [] → testing s p = false →
      Completes (.stepVote c) s (fun t => (∀ d, (t.cab d).seq = (s1.cab d).seq) ∧ stepState t p = sRunning ∧
        (fld (issueIn s p c).word 0 1 = 1 → (t.ctx p).causes.getLsbD scForced = true) ∧
        (fld (issueIn s p c).word 0 1 = 0 → (t.ctx p).causes = x.causes))) ∧
    (Waits cVOTE c s p → stepState s p = sRunning → allAt s p [cVOTE, cDISCARD] = true → voteReady s p = true →
      stackHeld s p = false → s.hbmErr = [] → x.held = none → voteRoot s p = false →
      Completes (.stepVote c) s (fun t => stepState t p = sVoting ∧ (t.ctx p).own = some (clean, nan) ∧
        t.stepRf p oVoteWait 0 48 = 0 ∧ ∀ d, inPart s p d = true →
          (s.cab d).seq.issue.any (fun i => cwOp i.word == cVOTE) = true →
          (t.cab d).seq.pos = (s.cab d).seq.pos + 1 ∧ (t.cab d).seq.wait = 0 ∧ (t.cab d).seq.issue = none)) ∧
    (Joins cDISCARD c s p → stepState s p = sRunning → testing s p = false →
      Completes (.stepDiscard c) s (fun t => (∀ d, (t.cab d).seq = (s1.cab d).seq) ∧ stepState t p = sRunning ∧
        (t.ctx p).causes.getLsbD scForced = true))

/-- STEP.COMMIT, and STEP.DISCARD once it has voted, complete on the vote result that the device holds (R35, R56, R59, R61, R219):
clean and no not-a-number commits (the other leaf becomes active, the step number rises, IDLE); unclean with retries left
discards with a retry (DISCARDING, the recorded image starts to fill); unclean without retries left, or a not-a-number, discards
(leaf and number stay, every sequencer stops). That a command which waits acts as it comes again, STEP.DISCARD in VOTING too, is the
model's choice (log 3). -/
def Obligations.StepCommitActsOnTheResult : Prop :=
  ∀ (c : CabId) (s : State) (p : Nat) (i : Instr),
    (i = .stepCommit c ∧ (Joins cCOMMIT c s p ∧ allAt (arrived s p c) p [cCOMMIT, cDISCARD] = true ∨
        Waits cCOMMIT c s p ∧ allAt s p [cCOMMIT, cDISCARD] = true)) ∨
      (i = .stepDiscard c ∧ Waits cDISCARD c s p ∧ allAt s p [cCOMMIT, cDISCARD] = true) →
    stepState s p = sVoting → (s.ctx p).voteReq = false → testing s p = false →
    ((s.ctx p).held = some (true, false) → Completes i s (fun t => stepState t p = sIdle ∧
      activeLeaf t p = 1 - activeLeaf s p ∧ stepNumber t p = (stepNumber s p + 1) % 2 ^ 32 ∧ journalUsed t p = 0 ∧
      (t.ctx p).held = none)) ∧
    ((s.ctx p).held = some (false, false) → stepRetries s p < s.stepRf p oStepCtrl 0 2 → Completes i s (fun t =>
      stepState t p = sDiscarding ∧ stepRetries t p = stepRetries s p + 1 ∧ (t.ctx p).fill = some (fRetry, (s.ctx p).rJig) ∧
      activeLeaf t p = activeLeaf s p ∧ stepNumber t p = stepNumber s p ∧ (t.ctx p).held = none)) ∧
    (∀ clean nan, (s.ctx p).held = some (clean, nan) →
      nan = true ∨ (clean = false ∧ s.stepRf p oStepCtrl 0 2 ≤ stepRetries s p) →
      Completes i s (fun t => stepState t p = sIdle ∧ activeLeaf t p = activeLeaf s p ∧ stepNumber t p = stepNumber s p ∧
        journalUsed t p = 0 ∧ (t.reg (rPartCause p)).getLsbD pcDiscard = true ∧
        ∀ d, inPart s p d = true → (t.cab d).seq.wait = 5))

/-! ### Loads, GO, votes (02, 05, 09) -/

/-- SLOT_FILL (R184, R196, R198): an image of JIG.NEXT that passes the loader's checks makes the filling slots of every cabinet
ready with its cabinet images; one that does not is refused: the slots show refused and `LOAD_ERR` holds the code. -/
def Obligations.SlotFillChecksTheImage : Prop :=
  ∀ (b : BitVec 4) (s : State) (kind a : Nat),
    let p := b.toNat
    partOn s p = true → stands s p = false → (s.part p).slot < 8 → (s.ctx p).fill = some (kind, a) →
    let r := readImage p a (s.ctx p).fillIn s
    (kind = fNext → r.1 = none → (∀ d ∈ partCabs s p, ((s.cab d).slotAt (!(s.cab d).cur)).st = 1) → Completes (.slotFill b) s (fun u => (u.ctx p).fill = none ∧ ∀ d ∈ partCabs s p,
      ((u.cab d).slotAt (!(s.cab d).cur)).st = 2 ∧
      ((u.cab d).slotAt (!(s.cab d).cur)).img = cabImage r.2.1 (cabIndex s p d))) ∧
    (∀ bad, r.1 = some bad → Completes (.slotFill b) s (fun u => (u.ctx p).fill = none ∧
      u.stepRf p oLoadErr 0 8 = bad.code.toNat ∧ ∀ d ∈ partCabs s p,
        ((u.cab d).slotAt (fillSide kind (s.cab d))).st = 3 ∧ ((u.cab d).slotAt (fillSide kind (s.cab d))).img = []))

/-- GO of a switch (R209, R210, R228): once every cabinet and cell has switched, every cell is quiet, the old lists are
complete, a STEP.BEGIN of the image has completed and no SCAN.OUT of the boundary form waits, `JIG_STATUS` shows the new jig with GO and the epoch inverted, and every
cell of the partition holds the partition's epoch. -/
def Obligations.GoStartsTheJig : Prop :=
  ∀ (b : BitVec 4) (s : State),
    let p := b.toNat
    let a := curImage s p
    partOn s p = true → stands s p = false → (s.part p).slot < 8 → (s.ctx p).load = none → switching s p = true →
    allSwitched s p = true → (cellsOf s p).all (cellQuiet s) = true → listsRun s p = false →
    (holdsBegin s a = true → (s.ctx p).begun = true) → scanWaits s p = false → (s.ctx p).skipped = 0 →
    monitorOn s p = false → s.hbmErr = [] →
    Completes (.go b) s (fun u => goBit u p = true ∧ (u.ctx p).jig = a ∧ jigEpoch u p = !jigEpoch s p ∧
      u.stepRf p oJigStatus 0 32 = ofBytes ((List.range 4).map (fun i => byteOf s (a + 8 + i))) ∧
      ∀ g, inPart s p (g / 256) = true → cellEpoch u g = jigEpoch u p ∧ (u.bench g).ahead = false ∧ (u.dr g).taken = false ∧ (u.dr g).endSent = false)

/-- SEGMENT_START (R211): a stopped sequencer whose cabinet has installed starts the new segment at word 0. CABINET_LOAD
(R211, R496): a cabinet with a retirement pending applies it, exchanges its slots and takes the epoch of the new jig, unless its
image would then put work on an irreplaceable unit, which refuses it (R19; that the refusal comes then, with E_CAPACITY, is log
91, the model's choice). STALL (R120): the monitor sets `CAB_CAUSE.STALL`, starts again, and halts nothing. -/
def Obligations.CabinetsStartLoadAndStall : Prop :=
  (∀ (c : CabId) (s : State) (p : Nat), partOfCab s c.toNat = some p → (s.cab c.toNat).seq.due = true →
    (s.cab c.toNat).seq.wait = 5 → stands s p = false → (s.cab c.toNat).now.st = 2 → 0 < (s.cab c.toNat).now.ctrlWords →
    Completes (.segmentStart c) s (fun u => (u.cab c.toNat).seq.pos = 0 ∧ (u.cab c.toNat).seq.wait = 0 ∧
      (u.cab c.toNat).seq.due = false ∧ (u.cab c.toNat).seq.len = (s.cab c.toNat).now.ctrlWords ∧
      (u.cab c.toNat).seq.seg = (s.cab c.toNat).now.addr + cabCtrlOff (s.cab c.toNat).now.img)) ∧
  (∀ (c : CabId) (s : State) (p : Nat), partOfCab s c.toNat = some p → (s.ctx p).load = none →
    (s.cab c.toNat).nextReady = true → goBit s p = true → stands s p = false → fieldRuns s (c.toNat / 256) = true →
    retirePend s c.toNat = true → (s.ctx p).marked = none → (s.ctx p).rerun ≠ 1 →
    (s.cells.filter (fun e => e.1 / 256 == c.toNat)).all (readyToLoad s) = true →
    let t := applyPending c.toNat ((s.cells.filter (fun e => e.1 / 256 == c.toNat)).foldl (fun v e => flushCell e.1 v) s)
    (deadWork t c.toNat (t.cab c.toNat).spare = false →
      Completes (.cabinetLoad c) s (fun u => (u.cab c.toNat).cur = !(s.cab c.toNat).cur ∧
        (∀ g ∈ u.integ.pendCell, g / 256 ≠ c.toNat) ∧
        ∀ g, g / 256 = c.toNat → (s.cells.any (fun e => e.1 == g)) = true → (u.bench g).ahead = true)) ∧
    (deadWork t c.toNat (t.cab c.toNat).spare = true → (s.part p).slot < 8 →
      Completes (.cabinetLoad c) s (fun u => u.stepRf p oLoadErr 0 8 = eCapacity.toNat))) ∧
  (∀ (c : CabId) (s : State), stallDue s c.toNat = true →
    Completes (.stall c) s (fun u => (u.reg (rCabCause c.toNat)).getLsbD ccStall = true ∧ (u.cab c.toNat).stall = 0 ∧
      u.parts = s.parts ∧ u.ctxs = s.ctxs ∧ u.cells = s.cells))

/-- COEF.LOAD puts its rows into the coefficient table of every cabinet; SCAN.OUT writes a save image whose header names the
form, the jig (the installed one between the installs of a switch and its GO), the step and the next image (where the slots
differ, and for an image of JIG.LOAD, by log 15, the model's choice); SCAN.IN of a good image starts the load of its jig (R215, R220–R223). -/
def Obligations.CoefficientsAndSaveImages : Prop :=
  ∀ (c : CabId) (s : State) (p : Nat), MemOk s → s.hbmErr = [] →
    let s1 := arrived s p c
    let i := issueIn s p c
    let old := sideIn s p c
    let a := i.xa.toNat
    (Joins cCOEF c s p → stepState s p = sIdle → a % 8 = 0 →
      hbmDenied s (mPart s p) kRead a (64 * (fld i.word 8 8 + 1)) = none →
      Completes (.coefLoad c) s (fun u => AllGoOn s1 u p old ∧ ∀ d ∈ partCabs s1 p, ∀ k, k < 16 * (fld i.word 8 8 + 1) →
        sget 0 (u.cab d).coef (16 * fld i.word 0 8 + k)
          = BitVec.ofNat 32 (ofBytes ((List.range 4).map (fun j => byteOf s (a + 4 * k + j)))))) ∧
    (Joins cSCANOUT c s p →
      (let full : Bool := fld i.word 0 1 = 1
       (if full then dowelIdle s p && flitsAcked s p else partQuiet s p) = true ∧
         hbmDenied s (mPart s p) kWrite a (scanBytes s p full) = none) →
      Completes (.scanOut c) s (fun u => AllGoOn s1 u p old ∧ ∀ k, k < 32 → (allSwitched s p = true → k < 8 ∨ 12 ≤ k) →
        byteOf u (a + k) = BitVec.ofNat 8
          (pack [(0, 32, 0x56535A4C), (32, 16, 1), (48, 8, fld i.word 0 1), (56, 8, partF s p),
            (64, 32, s.stepRf p oJigStatus 0 32), (96, 32, stepNumber s p),
            (128, 64, if allSwitched s p then curImage s p else (s.ctx p).jig), (192, 64, nextAddr s p)] >>> (8 * k)))) ∧
    (Joins cSCANIN c s p → hbmDenied s (mPart s p) kRead a 64 = none →
      let jig := ofBytes (s.getBytes (a + 16) 8)
      scanBad s.mem a (partF s p) (ofBytes (s.getBytes (jig + 8) 4)) = none →
      hbmDenied s (mPart s p) kRead a (imageRead (partF s p) s.mem a) = none →
      Completes (.scanIn c) s (fun u => (u.ctx p).fill = some (fScanIn, jig) ∧ (u.ctx p).scanAt = a))

/-- RED.START starts its layer-table entry on every port the entry names whose ring has not been aborted, on the run of blocks of
that port (R372, R382, R386).
RE_RUN (R308) of a marked jig that has run out, at STEP.VOTE or at its JIG.LOAD, starts the load of its regenerating image, whose address stands in the
table of `REGEN_BASE`. -/
def Obligations.ReductionsAndReRunsStart : Prop :=
  (∀ (c : CabId) (s : State) (p : Nat), Joins cRED c s p → (s.part p).halted = false → s.hbmErr = [] →
    let s1 := arrived s p c
    let i := issueIn s p c
    let old := sideIn s p c
    let img := if old then (s.ctx p).jig else curImage s p
    let le := layerAt s img (fld i.word 0 8)
    (∀ n ∈ portsOf (lePorts le), (s.link n).aborted = false ∧ hbmDenied s (mPart s p) kRead
      (leAt le 16 8 + (partRun le n).1 * blockBytes (leDtype le = 1)) ((partRun le n).2 * blockBytes (leDtype le = 1)) = none) →
    Completes (.redStart c) s (fun u => AllGoOn s1 u p old ∧ ∀ n ∈ portsOf (lePorts le), ∃ e,
      findEntry (u.link n) (fld i.word 0 8) = some e ∧ e.state = 2 ∧ e.first = (partRun le n).1 ∧ e.blocks = (partRun le n).2)) ∧
  (∀ (b : BitVec 4) (s : State) (n : Nat) (r : GoRec),
    let p := b.toNat
    partOn s p = true → stands s p = false → partQuiet s p = true → goBit s p = true → (s.ctx p).fill = none →
    ((s.ctx p).load = none ∨ (s.ctx p).load = some fLoad) → switching s p = false → (s.ctx p).rerun ≠ 1 →
    (s.ctx p).marked = some n → (s.ctx p).goRec = some r → atVote s p = true → s.hbmErr = [] →
    hbmDenied s (mPart s p) kRead ((s.stepReg p oRegenBase).toNat + 16 * (n - 1)) 16 = none →
    Completes (.reRun b) s (fun u => (u.ctx p).rerun = 1 ∧ (u.ctx p).fill = some (fRegen,
      ofBytes ((List.range 8).map (fun j => byteOf s ((s.stepReg p oRegenBase).toNat + 16 * (n - 1) + j))))))

/-- RANGE_FLUSH (R260, R261): a flush adds its counts to the entry of its tensor, saturating, raises its XMAX, and leaves
the rest of memory; one at or beyond COUNT is dropped and counted in `RANGE_STATUS` (R270). An entry that the access tables deny
stays as it is (R409, R414; that the flush is then lost is log 84, the model's choice). -/
def Obligations.RangeFlushesReachTheTensorTable : Prop :=
  ∀ (b : BitVec 4) (s : State) (f : Flush) (fs : List Flush),
    let p := b.toNat
    let a := tensorAddr s p f.tensor
    let at_ := fun (v : State) off n => ofBytes ((List.range n).map (fun j => byteOf v (a + off + j)))
    (s.part p).slot < 8 → (s.part p).flushes = f :: fs →
    (f.tensor < tensorCount s p → tableDenied s p a ≠ none →
      Completes (.rangeFlush b) s (fun u => (u.part p).flushes = fs ∧ u.mem = s.mem)) ∧
    (f.tensor < tensorCount s p → tableDenied s p a = none → MemOk s → s.hbmErr = [] → -128 ≤ f.x → f.x ≤ 127 →
      Completes (.rangeFlush b) s (fun u => (u.part p).flushes = fs ∧
        at_ u 8 4 = min (at_ s 8 4 + f.sat) 0xFFFFFFFF ∧ at_ u 12 4 = min (at_ s 12 4 + f.ovf) 0xFFFFFFFF ∧
        toSigned (at_ u 16 1) 8 = max (toSigned (at_ s 16 1) 8) f.x ∧
        at_ u 24 4 = min (at_ s 24 4 + f.sat) 0xFFFFFFFF ∧ at_ u 28 4 = min (at_ s 28 4 + f.ovf) 0xFFFFFFFF ∧
        ∀ x, x < a + 8 ∨ a + 32 ≤ x ∨ (a + 17 ≤ x ∧ x < a + 24) → byteOf u x = byteOf s x)) ∧
    (tensorCount s p ≤ f.tensor → Completes (.rangeFlush b) s (fun u => (u.part p).flushes = fs ∧ u.mem = s.mem ∧
      u.stepRf p oRangeStatus 48 16 = min (s.stepRf p oRangeStatus 48 16 + 1) 0xFFFF))

/-- SEND_LOCAL_FLAGS (R51–R53, R56, R385): when all that R51 waits for has ended, a device that is not the root enters
VOTING with the clean and not-a-number flags of its causes, VOTE_WAIT starts at 0, and without down ports the pair
goes up as a flit of VC 2; at the root the AND of the clean flags and the OR of the not-a-number flags, with those received, is the
result. VOTE_UP (R385) in an accepted flit: a vote-up of the running context's own step and attempt from a down port is held; in
VOTING the last one is combined at once, and goes up, or at the root is the result and goes down; one for an attempt whose vote the
device has sent is dropped without count; any other is dropped and counted in VOTE_STALE. VOTE_DOWN (R56, R385) in an accepted flit:
in VOTING, from the up port, the result is recorded and held and goes to every down port; else it is dropped and counted. -/
def Obligations.VotesGoUpAndCome : Prop :=
  (∀ (b : BitVec 4) (s : State),
    let p := b.toNat
    let c := s.ctx p
    let clean : Bool := c.causes &&& 0x7FD == 0
    let nan : Bool := c.nanIn || c.causes &&& 0x741 != 0
    partOn s p = true → holdsFabric s p (s.part p).slot = true → (s.part p).slot < 8 → stepState s p = sRunning →
    allAt s p [cVOTE, cDISCARD] = true → voteReady s p = true → stackHeld s p = false → s.hbmErr = [] →
    voteRoot s p = false → voteDowns s p = [] → c.held = none → c.ups = [] → c.upSent = false →
    portLevel s (voteUpPort s p) 3 = true →
    let m : LinkMsg := .voteUp (BitVec.ofNat 32 (stepNumber s p)) (BitVec.ofNat 2 (stepRetries s p)) clean nan
    let l := s.link (voteUpPort s p)
    Completes (.sendLocalFlags b) s (fun u => stepState u p = sVoting ∧ (u.ctx p).own = some (clean, nan) ∧
      (u.ctx p).upSent = true ∧ u.stepRf p oVoteWait 0 48 = 0 ∧ Queued u (voteUpPort s p) 2 m ∧
      (l.queue = [] → 0 < vcGet l.credit 2 → l.unacked.length < 512 →
        ∃ h, h.type = 5 ∧ h.vc = 2 ∧ .flit (BitVec.ofNat 4 (voteUpPort s p)) h (some m) ∈ u.sent))) ∧
  (∀ (b : BitVec 4) (s : State),
    let p := b.toNat
    let c := s.ctx p
    let pairs : List (Bool × Bool) := (c.causes &&& 0x7FD == 0, c.nanIn || c.causes &&& 0x741 != 0) :: c.ups.map (·.2)
    partOn s p = true → holdsFabric s p (s.part p).slot = true → (s.part p).slot < 8 → stepState s p = sRunning →
    allAt s p [cVOTE] = true → voteReady s p = true → stackHeld s p = false → s.hbmErr = [] → voteRoot s p = true →
    (voteDowns s p).all (fun n => c.ups.any (fun u => u.1 == n)) = true → c.held = none → c.upSent = false → c.voteReq = false →
    Completes (.sendLocalFlags b) s (fun u => stepState u p = sVoting ∧
      (u.ctx p).held = some (pairs.all (·.1), pairs.any (·.2)) ∧ u.stepRf p oStepStatus 6 1 = (pairs.all (·.1)).toNat ∧
      u.stepRf p oStepStatus 7 1 = (pairs.any (·.2)).toNat)) ∧
  (∀ (port : BitVec 4) (h : FlitHdr) (step : BitVec 32) (attempt : BitVec 2) (clean nan : Bool) (s : State) (p : Nat),
    let n := port.toNat
    let c := s.ctx p
    portState s n = 2 → linkOn s n = true → h.crcOk = true → h.seq = (s.link n).rxSeq + 1 → partOfPort s n = some p →
    (s.part p).running = true → (s.part p).slot < 8 → c.saved = none → s.hbmErr = [] →
    (List.range 8).find? (fun sl => (s.ctxAt p sl).alive && fld (s.ctxAt p sl).ports n 1 == 1) = some (s.part p).slot →
    let own := step.toNat = stepNumber s p ∧ attempt.toNat = stepRetries s p
    let stale := fun (u : State) => u.reg (rLinkCount n 11) = s.reg (rLinkCount n 11) + 1 ∧ u.ctxs = s.ctxs
    let sent := n ∈ voteDowns s p ∧ c.sentVote = some (step.toNat, attempt.toNat)
    let pairs : List (Bool × Bool) := c.own.toList ++ (c.ups ++ [(n, clean, nan)]).map (·.2)
    let last := own ∧ n ∈ voteDowns s p ∧ ¬ sent ∧ c.ups.all (fun u => u.1 != n) = true ∧ stepState s p = sVoting ∧
      c.own.isSome = true ∧ c.upSent = false ∧ (∀ m ∈ voteDowns s p, m ≠ n → c.ups.any (fun u => u.1 == m) = true) ∧
      c.voteReq = false ∧ allAt s p [cCOMMIT, cDISCARD] = false
    (own → n ∈ voteDowns s p → ¬ sent → c.ups.all (fun u => u.1 != n) = true →
      stepState s p = sRunning ∨ (stepState s p = sDiscarding ∧ c.retry = true) →
      Completes (.voteUp ⟨port, h⟩ step attempt clean nan) s (fun u => (u.ctx p).ups = c.ups ++ [(n, clean, nan)])) ∧
    (last → voteRoot s p = false → portLevel s (voteUpPort s p) 3 = true →
      Completes (.voteUp ⟨port, h⟩ step attempt clean nan) s (fun u => (u.ctx p).upSent = true ∧
        Queued u (voteUpPort s p) 2 (.voteUp step attempt (pairs.all (·.1)) (pairs.any (·.2))))) ∧
    (last → voteRoot s p = true →
      Completes (.voteUp ⟨port, h⟩ step attempt clean nan) s (fun u =>
        (u.ctx p).held = some (pairs.all (·.1), pairs.any (·.2)) ∧ u.stepRf p oStepStatus 6 1 = (pairs.all (·.1)).toNat ∧
        u.stepRf p oStepStatus 7 1 = (pairs.any (·.2)).toNat ∧ ∀ m ∈ voteDowns s p, portLevel s m 3 = true →
          Queued u m 2 (.voteDown step attempt (pairs.all (·.1)) (pairs.any (·.2))))) ∧
    (sent → Completes (.voteUp ⟨port, h⟩ step attempt clean nan) s (fun u =>
      u.reg (rLinkCount n 11) = s.reg (rLinkCount n 11) ∧ u.ctxs = s.ctxs)) ∧
    (¬ sent → ¬ own ∨ n ∉ voteDowns s p → Completes (.voteUp ⟨port, h⟩ step attempt clean nan) s stale) ∧
    (own → voteRoot s p = false → voteUpPort s p = n → stepState s p = sVoting → c.held = none → c.voteReq = false →
      allAt s p [cCOMMIT, cDISCARD] = false →
      Completes (.voteDown ⟨port, h⟩ step attempt clean nan) s (fun u => (u.ctx p).held = some (clean, nan) ∧
        u.stepRf p oStepStatus 6 1 = clean.toNat ∧ u.stepRf p oStepStatus 7 1 = nan.toNat ∧
        ∀ m ∈ voteDowns s p, portLevel s m 3 = true → Queued u m 2 (.voteDown step attempt clean nan))) ∧
    (¬ own ∨ stepState s p ≠ sVoting ∨ voteUpPort s p ≠ n → Completes (.voteDown ⟨port, h⟩ step attempt clean nan) s stale))

/-- STEP_RESOLVE (R68, R446): a write that is taken resolves the waiting step of the running context: COMMIT commits it,
DISCARD discards it without retry and every sequencer stops. -/
def Obligations.StepResolveEndsTheStep : Prop :=
  ∀ (m : BitVec 7) (b : BitVec 4) (step : BitVec 32) (s : State),
    let p := b.toNat
    let a := rStepPage p oStepResolve
    (s.part p).slot < 8 → isRunning s p (s.part p).slot = true → restoring s p = false → testing s p = false →
    (csrWriteCode m.toNat a (BitVec.ofNat 64 (step.toNat * 2 ^ 32 + 1)) s = none →
      Completes (.stepResolveCommit m b step) s (fun u => stepState u p = sIdle ∧ activeLeaf u p = 1 - activeLeaf s p ∧
        stepNumber u p = (stepNumber s p + 1) % 2 ^ 32 ∧ journalUsed u p = 0)) ∧
    (csrWriteCode m.toNat a (BitVec.ofNat 64 (step.toNat * 2 ^ 32 + 2)) s = none →
      Completes (.stepResolveDiscard m b step) s (fun u => stepState u p = sIdle ∧ activeLeaf u p = activeLeaf s p ∧
        stepNumber u p = stepNumber s p ∧ journalUsed u p = 0 ∧
        ∀ d, inPart s p d = true → (u.cab d).seq.wait = 5))

/-! ### Drawers and the dowel network (03, 04, 08, 02) -/

/-- AFFINE_READ, AFFINE_WRITE and DRAWER_FILL (R170–R172, R175–R177, R182): a read sends the row its pattern names, or, transposed,
reads rows into a tile, while the tokens of a full tile, the i-th made of element i of each row, enter D in turn, those of a
complete word too (that a plain access waits for them is log 74, the model's choice); a write puts the token into the row its tag selects, a
bubble writes nothing (with one of the 64 write counts of R169 for its tag); a fill repeats its constant over the row. No other
byte of memory changes. -/
def Obligations.AffineAndFillWords : Prop :=
  ∀ (g : CellId) (s : State) (p : Nat) (w : Word),
    let n := g.toNat
    let d := s.dr n
    let count := affineCount w (patOf d w)
    let row := fun k => (affineRow w (patOf d w) k).toNat
    let tagOf := fun k => BitVec.ofNat 16 (fld w 24 16 + k / (fld w 40 6 + 1))
    let ew := 4 * 2 ^ fld w 58 2
    GensRun s n p →
    (readWord d = some w → fld w 62 2 = 0 → fld w 60 1 = 0 → d.tileIdle = true → (s.bench n).inQ.d.length < 4 →
      Completes (.affineRead g) s (fun u => EntersD s u n (tagOf d.rdA) (rowIn s n (row d.rdA)) true ∧ u.mem = s.mem ∧
        readPlace (u.dr n) = nextPlace count (readPlace d))) ∧
    (readWord d = some w → fld w 62 2 = 0 → fld w 60 1 = 1 → d.tileOut = [] → d.tile.length < 256 / ew →
      (d.tile = [] ∨ d.tileFrom.1 = d.rdW) → (s.bench n).inQ.d.length < 4 →
      Completes (.affineRead g) s (fun u => (u.dr n).tile = d.tile ++ [rowIn s n (row d.rdA)] ∧
        (u.dr n).tileFrom = (if d.tile = [] then readPlace d else d.tileFrom) ∧
        readPlace (u.dr n) = nextPlace count (readPlace d) ∧ (u.bench n).inQ = (s.bench n).inQ ∧ u.mem = s.mem)) ∧
    (let x := tileWord d d.tileFrom
     let k := 4 * 2 ^ fld x 58 2
     d.tileOut = [] → d.tile.length = 256 / k → (s.bench n).inQ.d.length < 4 →
      Completes (.affineRead g) s (fun u => u.mem = s.mem ∧
        EntersD s u n (BitVec.ofNat 16 (fld x 24 16 + d.tileFrom.2 / (fld x 40 6 + 1)))
          (BitVec.ofNat 256 (joinBits k (d.tile.map (fun r => fld r 0 k)))) true ∧
        (u.dr n).tileOut.length + 1 = 256 / k ∧ ∀ i, i + 1 < 256 / k → (u.dr n).tileOut.getD i 0 =
          BitVec.ofNat 256 (joinBits k (d.tile.map (fun r => fld r (k * (i + 1)) k))))) ∧
    (∀ v rest, d.tileOut = v :: rest → (s.bench n).inQ.d.length < 4 →
      let x := tileWord d d.outFrom
      Completes (.affineRead g) s (fun u => u.mem = s.mem ∧
        EntersD s u n (BitVec.ofNat 16 (fld x 24 16 + d.outFrom.2 / (fld x 40 6 + 1))) v true ∧
        (u.dr n).tileOut = rest ∧ (u.dr n).outFrom = (d.outFrom.1, d.outFrom.2 + 1))) ∧
    (∀ t, writeWord d = some w → fld w 62 2 = 0 → dHead (s.bench n) = some t →
      let k := (t.tag - BitVec.ofNat 16 (fld w 24 16)).toNat * (fld w 40 6 + 1) + sget 0 d.tagCnt t.tag.toNat
      k < count → tagRoom d t = true → Completes (.affineWrite g) s (fun u => LeavesD s u n ∧ writePlace (u.dr n) = nextPlace count (writePlace d) ∧
        RestOfRow s u n (row k) ∧ rowIn u n (row k) = if t.valid then t.payload else rowIn s n (row k))) ∧
    (writeWord d = some w → fld w 62 2 = 3 → Completes (.drawerFill g) s (fun u =>
      rowIn u n (fld w 52 9 + d.wrA) = BitVec.ofNat 256 (joinBits 32 (List.replicate 8 (fld w 0 32))) ∧
      RestOfRow s u n (fld w 52 9 + d.wrA) ∧ writePlace (u.dr n) = nextPlace (fld w 43 9 + 1) (writePlace d)))

/-- PUSH and POP (R179, R332–R335) on a mode region whose pointer copies agree: a PUSH word reserves its positions at RES and its
token goes to the position that its index selects; POP sends the row at HEAD, and on an empty region waits or repeats the row most
recently read with UNDER set. That HEAD passes a slot with its last row, and what an access of a slot repeats that began on an empty
ring, is log 55, and that a count is free with the last token of its tag log 74 (the model's choice). -/
def Obligations.QueueWordsMoveRows : Prop :=
  ∀ (g : CellId) (s : State) (p : Nat) (w : Word),
    let n := g.toNat
    let d := s.dr n
    let tagOf := fun k => BitVec.ofNat 16 (fld w 23 16 + k / (fld w 39 6 + 1))
    let sub := d.rdA % d.perPos
    let count := fld w 45 12 + 1
    GensRun s n p → d.mode ≠ 0 → d.head = d.head2 → d.tail = d.tail2 →
    (queueWord (writeWord d) 0 = some w → d.started = false → dHead (s.bench n) = none →
      Completes (.push g) s (fun u => (u.dr n).started = true ∧ (u.dr n).base = d.res ∧
        (u.dr n).res = (d.res + count / d.perPos) % (2 * d.regionN) ∧ u.mem = s.mem)) ∧
    (∀ t, queueWord (writeWord d) 0 = some w → d.started = true → d.stale = false → dHead (s.bench n) = some t →
      let k := (t.tag - BitVec.ofNat 16 (fld w 23 16)).toNat * (fld w 39 6 + 1) + sget 0 d.tagCnt t.tag.toNat
      let pos := (d.base + k / d.perPos) % (2 * d.regionN)
      let row := d.mbase + pos % d.regionN * d.perPos + k % d.perPos
      k < count → tagRoom d t = true → d.dist d.free pos < d.regionN → d.dist d.head pos < d.regionN →
      Completes (.push g) s (fun u => LeavesD s u n ∧ RestOfRow s u n row ∧
        rowIn u n row = (if t.valid then t.payload else rowIn s n row) ∧
        writePlace (u.dr n) = nextPlace count (writePlace d))) ∧
    (queueWord (readWord d) 1 = some w → d.tileIdle = true → (s.bench n).inQ.d.length < 4 →
      d.qCount ≠ 0 → (sub = 0 ∨ d.dry = false) → Completes (.pop g) s (fun u =>
        let row := rowIn s n (d.mbase + d.head % d.regionN * d.perPos + sub)
        EntersD s u n (tagOf d.rdA) row true ∧ (u.dr n).lastRow = row ∧ readPlace (u.dr n) = nextPlace count (readPlace d) ∧
        (u.dr n).head = (if d.perPos ≤ sub + 1 then (d.head + 1) % (2 * d.regionN) else d.head) ∧ u.mem = s.mem)) ∧
    (queueWord (readWord d) 1 = some w → d.tileIdle = true → (s.bench n).inQ.d.length < 4 → (d.qCount = 0 ∨ (sub ≠ 0 ∧ d.dry = true)) →
      (fld w 57 1 = 1 → Leaves (.pop g) s s) ∧
      (fld w 57 1 = 0 → Completes (.pop g) s (fun u => EntersD s u n (tagOf d.rdA) d.lastRow true ∧ (u.dr n).under = true ∧
        (u.dr n).head = d.head ∧ readPlace (u.dr n) = nextPlace count (readPlace d) ∧ u.mem = s.mem)))

/-- MARK sets MARK to HEAD and makes it valid. REWIND sets HEAD to MARK. RELEASE with RPOS 0 sets FREE to HEAD, with RPOS 1 to MARK,
and never moves FREE past HEAD. A REWIND or a RELEASE with RPOS 1 while MARK is not valid moves no pointer and sets UNDERRUN
(R336). -/
def Obligations.PointerWordsMoveMarkHeadAndFree : Prop :=
  ∀ (g : CellId) (s : State) (p : Nat) (w : Word),
    let n := g.toNat
    let d := s.dr n
    let kept := fun (u : State) => (u.dr n).head = d.head ∧ (u.dr n).mark = d.mark ∧ (u.dr n).free = d.free ∧
      (u.dr n).mvalid = d.mvalid
    GensRun s n p → d.mode ≠ 0 → d.head = d.head2 → d.tail = d.tail2 →
    (queueWord (readWord d) 2 = some w → Completes (.mark g) s (fun u => (u.dr n).mark = d.head ∧ (u.dr n).mvalid = true ∧
      (u.dr n).head = d.head ∧ (u.dr n).free = d.free ∧ (u.dr n).under = d.under)) ∧
    (queueWord (readWord d) 3 = some w →
      (d.mvalid = true → Completes (.rewind g) s (fun u => (u.dr n).head = d.mark ∧ (u.dr n).mark = d.mark ∧
        (u.dr n).free = d.free ∧ (u.dr n).under = d.under)) ∧
      (d.mvalid = false → Completes (.rewind g) s (fun u => kept u ∧ (u.dr n).under = true))) ∧
    (queueWord (readWord d) 4 = some w →
      (fld w 22 1 = 0 → Completes (.release g) s (fun u => (u.dr n).free = d.head ∧ (u.dr n).head = d.head ∧
        (u.dr n).mark = d.mark)) ∧
      (fld w 22 1 = 1 → d.mvalid = true → Completes (.release g) s (fun u => (u.dr n).head = d.head ∧ (u.dr n).mark = d.mark ∧
        (u.dr n).free = (if d.dist d.mark d.head ≤ d.regionN then d.mark else d.head))) ∧
      (fld w 22 1 = 1 → d.mvalid = false → Completes (.release g) s (fun u => kept u ∧ (u.dr n).under = true))) ∧
    (∀ op c, (op, c) ∈ [(2, Instr.mark g), (3, .rewind g), (4, .release g)] → queueWord (readWord d) op = some w →
      Completes c s (fun u => readPlace (u.dr n) = (d.rdW + 1, 0) ∧ (u.dr n).tail = d.tail ∧ (u.dr n).res = d.res ∧ u.mem = s.mem))

/-- STK_PUSH, STK_POP and SPILL_FETCH_DONE (R40, R41, R43–R45, R171, R180, R181): a full entry goes into free rows of the band; a pop
emits one row of the entry on top with the tag that its word gives the entry, an invalid or dropped row as a bubble, and decodes a
lossy entry, of which each access reads one row; a spilled entry is fetched, and reaches the pop that waits for it or the band,
there in the form it was stored in. That the lowest free rows of the band are taken, which entry a pop takes while the present jig
forms its frame, that an entry whose fetch is denied is zeros with the OCHRE cause, and that the last rows of a lossy entry are read
first, is log 54 (DEDUCED and the model's choice). -/
def Obligations.CheckpointEntries : Prop :=
  ∀ (g : CellId) (s : State) (p : Nat),
    let n := g.toNat
    let d := s.dr n
    GensRun s n p → s.hbmErr = [] → (s.part p).slot < 8 →
    (∀ w t, writeWord d = some w → fld w 62 2 = 2 → dHead (s.bench n) = some t →
      let e := (t.tag - BitVec.ofNat 16 (fld w 25 16)).toNat
      let k := fld w 53 6 + 1
      let rows := ((d.opened.find? (fun x => x.1 == e)).map (·.2)).getD [] ++ [if t.valid then some t.payload else none]
      e ≤ fld w 41 12 → (d.framed = true → ∀ x ∈ d.stack, ¬ (x.frame = d.frames ∧ x.ord = earlierEntries d + e)) →
      (d.opened.any (fun x => x.1 == e) || decide (d.opened.length < 64)) = true →
      (rows.length < k → Completes (.stkPush g) s (fun u => LeavesD s u n ∧ (e, rows) ∈ (u.dr n).opened ∧
        (u.dr n).stack = d.stack ∧ u.mem = s.mem)) ∧
      (rows.length = k → (fld w 59 2 = 0 ∨ lossyJig s p = false) → d.full = false → k ≤ stackRows s p →
        k ≤ (bandFree s p n).length → Completes (.stkPush g) s (fun u => LeavesD s u n ∧ ∃ x ∈ (u.dr n).stack,
          x.tag = t.tag ∧ x.rows = k ∧ x.vmask = BitVec.ofNat 64 (rowMask rows) ∧ x.frame = (u.dr n).frames ∧
          x.place = .band ((bandFree s p n).take k) ∧
          ∀ j, j < k → rowIn u n (((bandFree s p n).take k).getD j 0) = (rows.getD j none).getD 0))) ∧
    (∀ w, readWord d = some w → fld w 62 2 = 2 → d.tileIdle = true → (s.bench n).inQ.d.length < 4 →
      let tag := BitVec.ofNat 16 (fld w 25 16 + d.rdA)
      let last : Bool := stkRows w ≤ d.popIdx + 1
      let step := fun (u : State) => (u.dr n).popIdx = (if last then 0 else d.popIdx + 1) ∧ u.mem = s.mem ∧
        readPlace (u.dr n) = (if last then nextPlace (fld w 41 12 + 1) (readPlace d) else readPlace d)
      (∀ v rest, d.popRows = v :: rest → Completes (.stkPop g) s (fun u => EntersD s u n tag (v.getD 0) v.isSome ∧
        (u.dr n).popRows = (if last then [] else rest) ∧ step u)) ∧
      (∀ x, d.popRows = [] → nextPop d = some x → stackRows s p < 2 * (bandUsed d).length →
        let gone := fun (u : State) => ∀ y ∈ (u.dr n).stack, sameEnt y x = false
        (∀ rs, x.place = .band rs → x.lossy = false → d.popIdx < rs.length → Completes (.stkPop g) s (fun u =>
          let ok : Bool := fld x.vmask d.popIdx 1 = 1
          EntersD s u n tag (if ok then rowIn s n (rs.getD d.popIdx 0) else 0) ok ∧
          (if last then gone u else (u.dr n).stack = d.stack) ∧ step u)) ∧
        (∀ rs, x.place = .band rs → x.lossy = true → rs.length = x.len →
          (codeRows x + d.popTail.length < x.len → Completes (.stkPop g) s (fun u =>
            (u.dr n).popTail = d.popTail ++ [rowIn s n (rs.getD (codeRows x + d.popTail.length) 0)] ∧ (u.dr n).stack = d.stack ∧
            (u.dr n).popIdx = d.popIdx ∧ readPlace (u.dr n) = readPlace d ∧ (u.bench n).inQ = (s.bench n).inQ ∧ u.mem = s.mem)) ∧
          (x.len ≤ codeRows x + d.popTail.length → d.popIdx < stkRows w →
            let b := d.popIdx / elBytes (stkEl w)
            let rows := lossyDecode (stkEl w) (stkRows w)
              ((List.range (codeRows x)).map (fun i => if i = b then rowIn s n (rs.getD b 0) else 0) ++ d.popTail)
            b < rs.length → Completes (.stkPop g) s (fun u =>
              EntersD s u n tag ((rows.getD d.popIdx none).getD 0) (rows.getD d.popIdx none).isSome ∧
              (last = false → (u.dr n).stack = d.stack ∧ ∀ i, i + 1 < elBytes (stkEl w) - d.popIdx % elBytes (stkEl w) →
                d.popIdx + 1 + i < stkRows w → (u.dr n).popRows[i]? = some (rows.getD (d.popIdx + 1 + i) none)) ∧
              (last = true → gone u) ∧ step u))) ∧
        (x.place = .dropped → Completes (.stkPop g) s (fun u => EntersD s u n tag 0 false ∧ gone u ∧ step u)) ∧
        (∀ off len, x.place = .slice off len → Completes (.stkPop g) s (fun u => (u.bench n).inQ = (s.bench n).inQ ∧
          ∃ y ∈ (u.dr n).stack, sameEnt y x = true ∧ y.place = .fetching off len)))) ∧
    (∀ x off len, fetchedEnt d = some x → x.place = .fetching off len →
      let a := (spillSlice s p n).1 + off
      let denied := (hbmDenied s (mPart s p) kRead a len).isSome
      let form := if denied then zeroRows x else spillRows x (bytesIn s a len)
      let cause := fun (u : State) => denied = true → inStep s p = true → testing s p = false →
        (u.ctx p).causes.getLsbD scOchre = true
      (∀ w, popOwn d x = some w → (popForm w x form).length = stkRows w → Completes (.spillFetchDone g) s (fun u =>
        (u.dr n).popRows = (popForm w x form).drop d.popIdx ∧ (∀ y ∈ (u.dr n).stack, sameEnt y x = false) ∧ cause u ∧
        u.mem = s.mem)) ∧
      (popOwn d x = none → x.len ≤ (bandFree s p n).length → form.length = x.len → Completes (.spillFetchDone g) s (fun u =>
        (∃ y ∈ (u.dr n).stack, sameEnt y x = true ∧ y.place = .band ((bandFree s p n).take x.len)) ∧ cause u ∧
        ∀ j, j < x.len → rowIn u n (((bandFree s p n).take x.len).getD j 0) = (form.getD j none).getD 0)))

/-- The dowel network (R113–R116): a remote read brings consecutive rows of the target, one token each (its tag is a free value,
log 6); a write asks every target for room, has its grant once all have given theirs (a later request before an earlier one that still waits), and
lands in every target, unless the clock of one is off (R517); a request for a drawer outside the partition sets `CAB_CAUSE.DOWEL` and halts the partition. A read that names a row of the stack band does nothing (R39; the model's choice, log 76). That the DR and DW bits of the drawers do
not stand against it is log 17, and that all rows of a write go the way of its first log 77 (the model's choice). -/
def Obligations.DowelRemoteAccesses : Prop :=
  ∀ (g : CellId) (s : State),
    let n := g.toNat
    cellRuns s n = true → s.drErr = [] → MemOk s →
    (∀ (h : CellId) (row : BitVec 9) (k p : Nat), partOfCell s n = some p → 0 < k → (s.dr n).reads.length + k ≤ 8 →
      row.toNat + k ≤ 512 →
      (partOfCell s h.toNat = some p → fieldRuns s (h.toNat / 65536) = true → dowelRows s p row.toNat k = true →
        Completes (.remoteRead g h row k) s (fun u => (u.dr n).reads = (s.dr n).reads ++
          (List.range k).map (fun i => rowIn s h.toNat (row.toNat + i)) ∧ u.mem = s.mem)) ∧
      (partOfCell s h.toNat = some p → dowelRows s p row.toNat k = false → Idle (.remoteRead g h row k) s) ∧
      (testing s p = false → (s.part p).slot < 8 → partOfCell s h.toNat ≠ some p →
        Completes (.remoteRead g h row k) s (fun u => (u.reg (rCabCause (n / 256))).getLsbD ccDowel = true ∧
          (u.part p).halted = true ∧ u.cells = s.cells))) ∧
    (∀ v rest, (s.dr n).reads = v :: rest → (s.bench n).inQ.d.length < 4 →
      Completes (.remoteReadData g) s (fun u => (∃ tag, EntersD s u n tag v true) ∧ u.mem = s.mem ∧ (u.dr n).reads = rest)) ∧
    (∀ (hs : List CellId) (row : BitVec 9) (k p : Nat), partOfCell s n = some p → 0 < k → k ≤ 8 → hs ≠ [] →
      row.toNat + k ≤ 512 → isRect (hs.map (·.toNat)) = true → dowelRows s p row.toNat k = true →
      (∀ h ∈ hs, partOfCell s h.toNat = some p) →
      Completes (.creditRequest g hs row k) s (fun u => ∃ c ∈ u.dowel, c.writer = n ∧ c.row = row.toNat ∧ c.n = k ∧
        (∀ h, h ∈ c.targets ↔ ∃ x ∈ hs, x.toNat = h) ∧ c.arrived = false ∧
        (s.dowel = [] → ∀ h, hs = [h] → inRegion (s.dr h.toNat) row.toNat = false → issueStops s h.toNat = false →
          fieldRuns s (h.toNat / 65536) = true → c.granted = [(h.toNat, none)]))) ∧
    (∀ (i : Nat) (c : Credit), s.dowel[i]? = some c → c.writer = n → c.arrived = false → (∀ h ∈ c.targets, ∃ x ∈ c.granted, x.1 = h) →
      c.granted.length = c.targets.length →
      (∀ (j : Nat) (e : Credit), j < i → s.dowel[j]? = some e → e.writer = n → e.arrived = true ∨ (e.granted.length < e.targets.length ∧
        ∀ h ∈ e.targets, (∃ x ∈ e.granted, x.1 = h) ∨ issueStops s h = true)) →
      Completes (.grant g) s (fun u => u.dowel[i]? = some { c with arrived := true } ∧
        u.reg (rCabCount (n / 256) 4) = s.reg (rCabCount (n / 256) 4) + BitVec.ofNat 64 (s.clk.cclk - c.since))) ∧
    (∀ (rows : List Row) (i : Nat) (c : Credit), creditOf s n = some i → s.dowel[i]? = some c → rows.length = c.n →
      ((c.targets.all (fun h => fieldRuns s (h / 65536))) = false → Idle (.writeData g rows) s) ∧
      ((c.targets.all (fun h => fieldRuns s (h / 65536))) = true → c.row + c.n ≤ 512 → (∀ x ∈ c.granted, x.2 = none) →
      Completes (.writeData g rows) s (fun u => u.dowel.length + 1 = s.dowel.length ∧
        (∀ x ∈ c.granted, ∀ i, i < c.n → rowIn u x.1 (c.row + i) = rows.getD i 0) ∧
        ∀ a, bDRAWER ≤ a → (∀ x ∈ c.granted, a < rowAddr x.1 c.row ∨ rowAddr x.1 (c.row + c.n) ≤ a) →
          byteOf u a = byteOf s a)))
/-! ### Edge engines, gather engines, the narrow path (08) -/

/-- READ, WRITE, SHIM_OUT, SHIM_IN, JOURNAL and FENCED_FETCH (R241, R289, R316–R320, R325–R327, R330, R559): a legal and granted descriptor
moves its rows between HBM and the drawers of its rectangle, converted as CONV says, and is issued; with FENCE set,
FENCED_FETCH starts it once its event has reached its count. A WRITE of a field test to a leaf, the journal, a stream or the tensor
table changes no byte (R500; that a run is then left out whole is log 63, the model's choice). -/
def Obligations.EdgeEnginesMoveRows : Prop :=
  ∀ (b : BitVec 8) (s : State) (a : Active) (d : BitVec 512) (c : Instr),
    let e := b.toNat
    let p := a.part
    let rows := readRowsOf s p d
    let rd := rIstrRead p (eStream d)
    (EdgeReady 0 e s a d → Starts (.read b) b d c → DrawersTake s d → rows.length = eTotal d →
      (eIstr d = true → istrPos s rd + eBytes d ≤ istrPos s (rIstrWrite p (eStream d))) →
      Completes c s (fun u => RowsStand s u d rows ∧
        (eIstr d = false → Issued e s u a d none) ∧
        (eIstr d = true → (testing s p = false → istrPos u rd = istrPos s rd + eBytes d) ∧
          Issued e s u a d (some (eStream d, istrPos s rd + eBytes d))))) ∧
    (let o := outBytes (eConv d) (rectRows s d)
     let at_ := fun i j => (runAddr s p d i).toNat + j
     let inRun := fun i x => (runAddr s p d i).toNat ≤ x ∧ x < (runAddr s p d i).toNat + eLen d
     let inAux := fun x => o.2 ≠ [] ∧ eAux d ≤ x ∧ x < eAux d + o.2.length
     EdgeReady 1 e s a d → Starts (.write b) b d c → RingsHold s d →
      ((∀ i, i < eRuns d → testHolds s p (runAddr s p d i).toNat (eLen d) = true) →
        (o.2 = [] ∨ testHolds s p (eAux d) o.2.length = true) →
        Completes c s (fun u => Issued e s u a d none ∧ ∀ x, byteOf u x = byteOf s x)) ∧
      ((∀ i, i < eRuns d → testHolds s p (runAddr s p d i).toNat (eLen d) = false) → testHolds s p (eAux d) o.2.length = false →
      Completes c s (fun u => Issued e s u a d none ∧
        (∀ i j, i < eRuns d → j < eLen d → i * eLen d + j < o.1.length →
          (∀ k, i < k → k < eRuns d → ¬ inRun k (at_ i j)) → ¬ inAux (at_ i j) →
          byteOf u (at_ i j) = o.1.getD (i * eLen d + j) 0) ∧
        (∀ j, j < o.2.length → byteOf u (eAux d + j) = o.2.getD j 0) ∧
        (∀ x, (∀ i, i < eRuns d → ¬ inRun i x) → ¬ inAux x → byteOf u x = byteOf s x) ∧
        (eDmode d = 1 → ∀ g ∈ rectCells d, (u.dr g).head = (s.dr g).adv (s.dr g).head (eRows d / eSlot s d) ∧
          (u.dr g).free = (u.dr g).head)))) ∧
    (let es := shimEntries (eAddr d) (rectRows s d)
     let n := ofBytes (bytesIn s (eAux d) 8)
     let room := ofBytes (bytesIn s (eAux d + 8) 8)
     EdgeReady 2 e s a d → Starts (.shimOut b) b d c →
      (n + es.length ≤ room → Completes c s (fun u => Issued e s u a d none ∧
        ofBytes (bytesIn u (eAux d) 8) = n + es.length ∧
        ∀ k, k < es.length → ofBytes (bytesIn u (eAux d + 32 + 8 * (n + k)) 8) = es.getD k 0)) ∧
      (room ≤ n → es ≠ [] → Completes c s (fun u => Issued e s u a d none ∧ u.mem = s.mem ∧
        (u.reg (rEeCause e)).getLsbD 2 = true ∧
        u.reg (rEeCount e 7) = s.reg (rEeCount e 7) + BitVec.ofNat 64 es.length))) ∧
    (EdgeReady 3 e s a d → Starts (.shimIn b) b d c → DrawersTake s d → Completes c s (fun u =>
      RowsStand s u d (fetchShim e p d s).1 ∧ Issued e s u a d none)) ∧
    (EdgeReady 4 e s a d → Starts (.journal b) b d c → RingsHold s d →
      Completes c s (fun u => Issued e s u a d none ∧ ∀ g ∈ rectCells d,
        (u.dr g).head = (s.dr g).adv (s.dr g).head (eRows d / eSlot s d)) ∧
      (let bs := rowBytes (rectRows s d)
       let n := 32 + leAt bs 8 4
       eTotal d = eSlot s d → testing s p = false → (s.ctx p).jFull = false → n ≤ bs.length → n ≤ journalLeft s p → (s.part p).slot < 8 →
        Completes c s (fun u => journalUsed u p = (journalUsed s p + entrySize (leAt bs 8 4)) % 2 ^ 39 ∧
          u.stepRf p oJournalUsed 40 23 = min (s.stepRf p oJournalUsed 40 23 + 1) 0x7FFFFF ∧
          ∀ j, j < n → byteOf u ((s.stepReg p oJournalBase).toNat + journalUsed s p + j) = bs.getD j 0)))

/-- GATHER_DESCRIPTOR, DESCRIPTOR_COMPLETE and STEAL (R114, R312–R315, R321, R322, R330): a gather descriptor that finds request
slots and room in the landing buffers delivers the sectors of each of its indices to the rings, zeros for an index outside the
table, and leaves its list; the oldest issued descriptor of an
edge engine signals and counts toward its list, and the last one of a list ends it; an engine with nothing left takes the last
descriptor of the engine of its group with the most left, which gives it up where it had read it. -/
def Obligations.EngineListsAdvance : Prop :=
  (∀ (b : BitVec 7) (s : State) (a : Active) (l : EList) (d : BitVec 512),
    let e := b.toNat
    let n := fld d 340 9
    let idx := fun i => ofBytes (bytesIn s (fld d 64 64 + 4 * i) 4)
    let at_ := fun i => gatherRow s a d (idx i)
    let out := fun i => fld d 160 32 ≤ idx i
    let todo := List.range' (s.gather e).pos (fld d 128 32 - (s.gather e).pos)
    (s.gather e).stolen = none → (s.gather e).raw = [] → (s.gather e).lists = [l] → l.next < l.last → l.done + 1 = l.count →
    a = { list := l.addr, lid := l.id, home := e, idx := l.next, part := l.part, slot := l.slot, istr := none } → a.part < 16 →
    engineRuns s a = true → unitGated s (16 + e / 16) = false → DescIs (s.gather e) a s d →
    gatherBad s d = false → hbmDenied s (mPart s a.part) kRead (fld d 64 64) (4 * fld d 128 32) = none →
    drawerDenied s a.part true (gatherCells d) = none →
    (∀ g ∈ gatherCells d, landingRoom s g (fld d 304 16 / n) = true ∧ (s.dr g).head = (s.dr g).head2 ∧ (s.dr g).tail = (s.dr g).tail2 ∧ (s.dr g).mbase + (s.dr g).msize ≤ 512 ∧
      ∀ i ∈ todo,
      (s.dr g).posFree ((s.dr g).adv (fld d 352 16) i) = true ∧ (s.dr g).posGone ((s.dr g).adv (fld d 352 16) i) = false) →
    fenced s a d 1 8 32 = false → s.hbmErr = [] → s.drErr = [] → MemOk s →
    (∀ x, slotRoom (s.plinth (stackOf x)).slots x = true) →
    (∀ k, ∀ r ∈ (s.plinth k).slots ++ (s.plinth k).queue, r.1 ≠ reqGather e) →
    (∀ i ∈ todo, ¬ out i → at_ i % 32 = 0 ∧ hbmDenied s (mPart s a.part) kRead (at_ i) (32 * fld d 304 16) = none) →
    Completes (.gatherDescriptor b) s (fun u =>
      (∀ i ∈ todo, ∀ k, k < fld d 304 16 →
        let g := fld d 320 12 * 256 + fld d 332 8 + k % n
        let y := s.dr g
        rowIn u g (y.mbase + y.adv (fld d 352 16) i % y.regionN * y.perPos + k / n)
          = if out i then 0 else BitVec.ofNat 256 (ofBytes (bytesIn s (at_ i + 32 * k) 32))) ∧
      u.reg (rGOob (e / 16) (e % 16)) = s.reg (rGOob (e / 16) (e % 16)) + BitVec.ofNat 64 ((todo.filter out).length) ∧
      u.reg (rGRows (e / 16) (e % 16)) = s.reg (rGRows (e / 16) (e % 16)) + BitVec.ofNat 64 ((todo.filter (fun i => !out i)).length) ∧
      (u.gather e).lists = [] ∧ (u.gather e).pos = 0)) ∧
  (∀ (b : BitVec 8) (s : State) (a : Active) (rest : List Active),
    let e := b.toNat
    let d := a.desc
    let lists := (s.edge a.home).lists
    (s.edge e).issued = a :: rest → engineRuns s a = true → a.part < 16 →
    ((∀ l ∈ lists, l.done + 1 < l.count) → Completes (.descriptorComplete b) s (fun u =>
      (u.edge e).issued = rest ∧ (u.edge a.home).lists = countDone a.lid lists ∧
      (fld d 12 1 = 1 → eventOf u a (fld d 40 8) = min (eventOf s a (fld d 40 8) + 1) 0xFFFFFFFF) ∧
      (∀ i pos, a.istr = some (i, pos) → i < 16 → pos < 2 ^ 56 → istrMarked s a.part i = false → testing s a.part = false →
        istrPos u (rIstrReleased a.part i) = max pos (istrPos s (rIstrReleased a.part i))))) ∧
    (∀ l, lists = [l] → l.id = a.lid → l.done + 1 = l.count → l.part = a.part → l.slot = a.slot →
      Completes (.descriptorComplete b) s (fun u => (u.edge a.home).lists = [] ∧ (u.edge e).issued = rest ∧
        (∀ i, l.sig = some i → (fld d 12 1 = 0 ∨ fld d 40 8 ≠ i) →
          eventOf u a i = min (eventOf s a i + 1) 0xFFFFFFFF)))) ∧
  (∀ (b : BitVec 8) (s : State) (v : Nat) (a : Active) (ls : List EList) (l : EList),
    let e := b.toNat
    let d := BitVec.ofNat 512 (ofBytes (bytesIn s (descAddr a) 64))
    present e (s.edge e) = none → unitGated s (24 + e / 32) = false → v / 32 = e / 32 → v ≠ e → 0 < unstarted (s.edge v) →
    (∀ w, w / 32 = e / 32 → w ≠ e → unstarted (s.edge w) < unstarted (s.edge v) ∨
      (unstarted (s.edge w) = unstarted (s.edge v) ∧ v ≤ w)) →
    lastDesc s v = some a → engineRuns s a = true → (s.edge v).lists = ls ++ [l] → s.hbmErr = [] →
    hbmDenied s (mPart s a.part) kRead (descAddr a) 64 = none → eNosteal d = false → eIstr d = false → eOp d ≠ 2 →
    Completes (.steal b) s (fun u => (u.edge e).stolen = some { a with desc := d } ∧ (u.edge e).desc = some d ∧
      (u.edge v).lists = ls ++ [{ l with last := l.last - 1 }] ∧
      (∀ x, present v (s.edge v) = some x → x.home = v → x.lid = l.id → x.idx = l.last - 1 → (u.edge v).desc = none) ∧
      a.home = v ∧ a.lid = l.id ∧ a.idx = l.last - 1 ∧ u.reg (rEeCount e 2) = s.reg (rEeCount e 2) + 1))

/-- NARROW_READ and NARROW_READ_DATA (R310–R312): a request that hits takes no slot and makes its line the most recently used; one
that misses takes a slot, or waits where its channel or its bank has none, and one whose line holds a parity error invalidates
the line, sets `PL_CAUSE.NC_PAR` and misses; the data free the slot for the requests that wait, and the sector is then
present. -/
def Obligations.NarrowPathServesRequests : Prop :=
  ∀ (m : BitVec 7) (addr : BitVec 39) (s : State),
    let a := addr.toNat / 32 * 32
    let k := stackOf a
    let x := s.plinth k
    let par := (ncLines s a).any (fun l => l.gran == a / 256 && l.par)
    (hbmDenied s m.toNat kRead a 32 = none →
      (ncHit s a = true → par = false → Completes (.narrowRead m addr) s (fun u => ncHit u a = true ∧
        ((sget [] (u.plinth k).sets (ncSet a)).head?).map (·.gran) = some (a / 256) ∧ (u.plinth k).slots = x.slots ∧
        u.reg (rPlCount k 10) = s.reg (rPlCount k 10) + 1 ∧ u.reg (rPlCount k 11) = s.reg (rPlCount k 11) + 1)) ∧
      (ncHit s a = false ∨ par = true → Completes (.narrowRead m addr) s (fun u => ncHit u a = false ∧
        u.reg (rPlCount k 10) = s.reg (rPlCount k 10) + 1 ∧ u.reg (rPlCount k 11) = s.reg (rPlCount k 11) ∧
        (ncHit s a = true → (u.reg (rPlCause k)).getLsbD 4 = true ∧ u.reg (rPlCount k 14) = s.reg (rPlCount k 14) + 1) ∧
        (slotRoom x.slots a = true → (u.plinth k).slots = x.slots ++ [(m.toNat, a)] ∧ (u.plinth k).queue = x.queue) ∧
        (slotRoom x.slots a = false → (u.plinth k).slots = x.slots ∧ (u.plinth k).queue = x.queue ++ [(m.toNat, a)])))) ∧
    (∀ r, x.slots.find? (fun y => y.2 == a && y.1 < 0x80) = some r → s.hbmErr = [] → Completes (.narrowReadData addr) s (fun u =>
      (u.plinth k).slots = (giveSlots (x.slots.erase r) x.queue).1 ∧
      (u.plinth k).queue = (giveSlots (x.slots.erase r) x.queue).2 ∧ (ncOn s k = true → ncHit u a = true) ∧ u.mem = s.mem))

/-! ### Register accesses (15 and the registers of every file) -/

/-- REGISTER_WRITE (R9, R412, R435, R438, R551, R561): a rejected write changes nothing but `HOST_ERR`, `HOST_ERR_ADDR` and
`HOST_CAUSE`; a write that is taken and sets nothing off leaves RW and RWL bits as written, clears the W1C bits written as 1,
and keeps every other bit, a set lock bit and every other register. -/
def Obligations.RegisterWritesFollowTheAccessTypes : Prop :=
  ∀ (m : BitVec 7) (addr v : Word) (s : State),
    let a := addr.toNat
    let h := homeAddr s a
    (∀ code, csrWriteCode m.toNat a v s = some code → Completes (.registerWrite m addr v) s (fun u =>
      (u.reg rHostCause).getLsbD hcRegErr = true ∧ (code = eGated → (u.reg rHostCause).getLsbD hcGated = true) ∧
      u.rf rHostErr 32 32 = min (s.rf rHostErr 32 32 + 1) 0xFFFFFFFF ∧
      u.rf rHostErr 0 8 = (if s.rf rHostErr 0 8 = 0 then code.toNat else s.rf rHostErr 0 8) ∧
      (s.rf rHostErr 0 8 = 0 → u.reg rHostErrAddr = addr ∧ u.rf rHostErr 8 7 = m.toNat ∧ u.rf rHostErr 15 1 = 1) ∧
      (∀ x, x ≠ rHostErr → x ≠ rHostErrAddr → x ≠ rHostCause → u.reg x = s.reg x) ∧ u.mem = s.mem ∧ u.cells = s.cells ∧
      u.cabs = s.cabs ∧ u.ctxs = s.ctxs ∧ u.parts = s.parts ∧ u.rings = s.rings ∧ u.links = s.links)) ∧
    (∀ r, csrWriteCode m.toNat a v s = none → regRow a = some r → (∀ t, csrEffect a (s.reg h) v t = t) →
      Completes (.registerWrite m addr v) s (fun u =>
        (∀ k, k < 64 → (u.reg h).getLsbD k =
          (if (r.rw ||| r.rwl).testBit k && !r.w1c.testBit k then v.getLsbD k || ((stickyBits a).testBit k && (s.reg h).getLsbD k)
            else if r.w1c.testBit k && !(r.rw ||| r.rwl).testBit k then
              (s.reg h).getLsbD k && (!v.getLsbD k || (stickyBits a).testBit k)
            else if r.w1c.testBit k then (v.getLsbD k && !v.getLsbD k) || ((stickyBits a).testBit k && (s.reg h).getLsbD k)
            else (s.reg h).getLsbD k)) ∧
        (∀ x, x ≠ h → u.reg x = s.reg x) ∧ u.mem = s.mem ∧ u.cells = s.cells ∧ u.cabs = s.cabs ∧ u.ctxs = s.ctxs ∧
        u.parts = s.parts ∧ u.rings = s.rings ∧ u.links = s.links))

/-- ISTR_WRITE, ISTR_RELEASE, ISTR_SIZE, NC_INV, REMAP_REQ, CLASS_MAP_WRITE and ACC_WRITE (R299, R300, R311, R329, R331,
R345, R408), when the write is taken: positions of a stream move, a sector cache is emptied, a remap is pending, the
contents of the regions from the lowest one whose class changes become undefined (a free value for each byte is the model's choice,
log 6), an access window is as written. -/
def Obligations.MemoryRegisterCommands : Prop :=
  ∀ (m : BitVec 7) (v : Word) (s : State),
    let takes := fun (a : Nat) (w : Word) => csrWriteCode m.toNat a w s = none
    (∀ p i : BitVec 4,
      let r := rIstr p.toNat i.toNat
      (takes (r 0x10) v → Completes (.istrWrite m p i v) s (fun u => istrPos u (r 0x10) = fld v 0 56 ∧ u.mem = s.mem)) ∧
      (takes (r 0x30) v → Completes (.istrRelease m p i v) s (fun u => istrPos u (r 0x28) = fld v 0 56 ∧
        istrPos u (r 0x18) = max (istrPos s (r 0x18)) (fld v 0 56) ∧ istrMarked u p.toNat i.toNat = false)) ∧
      (takes (r 0x08) v → Completes (.istrSize m p i v) s (fun u => (u.reg (r 0x08)).toNat &&& pageMask = v.toNat &&& pageMask ∧
        istrPos u (r 0x10) = 0 ∧ istrPos u (r 0x18) = 0 ∧ istrPos u (r 0x20) = 0 ∧ istrPos u (r 0x28) = 0))) ∧
    (∀ k : BitVec 3, takes (rPlCtrl k.toNat) (setFld v 1 1 1) → Completes (.ncInv m k v) s (fun u =>
      (u.plinth k.toNat).sets = [] ∧ u.rf (rPlCtrl k.toNat) 0 1 = fld v 0 1 ∧ u.mem = s.mem)) ∧
    (takes rRemapReq v → Completes (.remapReq m v) s (fun u =>
      let g := fld v 24 12 * 256 + fld v 16 8
      ∃ e ∈ remapEntries u (g / 65536), fld e.2 0 9 = fld v 0 9 ∧ fld e.2 11 9 = physCell s g ∧
        fld e.2 20 9 = physCab s (g / 256))) ∧
    (∀ k : BitVec 4, MemOk s → takes (rClassMap k.toNat) v → Completes (.classMapWrite m k v) s (fun u =>
      u.reg (rClassMap k.toNat) = v ∧ ∀ i, i < 32 → fld (s.reg (rClassMap k.toNat)) (2 * i) 2 ≠ fld v (2 * i) 2 →
        (∀ j, j < i → fld (s.reg (rClassMap k.toNat)) (2 * j) 2 = fld v (2 * j) 2) →
        let lo := (32 * k.toNat + i) * 2 ^ 30
        ∀ a, byteOf u a = if lo ≤ a ∧ a < hbmEnd then Config.freeByte s.fresh a else byteOf s a)) ∧
    (∀ (addr : Word) (r : RegRow), isAccReg addr.toNat = true → takes addr.toNat v → regRow addr.toNat = some r →
      Completes (.accWrite m addr v) s (fun u => (∀ k, k < 64 → r.rwl.testBit k = true →
        (u.reg addr.toNat).getLsbD k = v.getLsbD k) ∧ ∀ x, x ≠ addr.toNat → u.reg x = s.reg x))

/-- RETRAIN, COPY_GO, QP_STATE_WRITE, DOORBELL, CQ_HEAD_DOORBELL, RING_ENABLE, RESUME, CLOSE and LOG_RESET (R364, R387,
R399, R401, R402, R418–R420, R439, R483, R486, R489), when the write is taken. The model's choice: what EN cleared discards is log
32, RATE set at entry to state 3 is log 34, the copy that a retrained port ends is log 44. -/
def Obligations.LinkRingAndPartitionCommands : Prop :=
  ∀ (m : BitVec 7) (v : Word) (s : State),
    let takes := fun (a : Nat) (w : Word) => csrWriteCode m.toNat a w s = none
    (∀ b : BitVec 4,
      let n := b.toNat
      (takes (rPortCtrl n) (setFld v 5 1 1) → portEn s n = true → fld v 0 1 = 1 → Completes (.retrain m b v) s (fun u =>
        u.reg (rPortStatus n) = 1 ∧ (u.reg (rPortCause n)).getLsbD lcDown = true ∧ (u.link n).copy = none ∧
        (u.link n).trained = none)) ∧
      (takes (rCopyCmd n) (setFld v 0 1 1) → Completes (.copyGo m b v) s (fun u => u.reg (rCopyStatus n) = 1 ∧
        ∃ c, (u.link n).copy = some c ∧ c.src = s.rf (rCopySrc n) 0 39 ∧ c.dst.toNat = s.rf (rCopyDst n) 0 39 ∧
          c.total = s.rf (rCopyLen n) 0 32)) ∧
      (takes (rPartCtrl n) (setFld v 3 1 1) → (s.part n).slot < 8 → Completes (.resume m b v) s (fun u =>
        (u.part n).halted = false ∧ stepState u n = sIdle ∧ (u.part n).window = false ∧
        ∀ d, inPart s n d = true → (u.cab d).seq.wait = 5)) ∧
      (takes (rPartCtrl n) (setFld v 4 1 1) → Completes (.close m b v) s (fun u => (u.part n).window = false))) ∧
    (∀ q : BitVec 12, takes (rQp q.toNat 0) v → Completes (.qpStateWrite m q v) s (fun u =>
      u.rf (rQp q.toNat 0) 0 3 = fld v 0 3 ∧
      (fld v 0 3 = 0 → s.rf (rQp q.toNat 0) 0 3 ≠ 0 → (∀ x ∈ u.rdma, x.q ≠ q) ∧ (∀ r, r < 256 → q.toNat ∉ (u.ring r).unacked) ∧
        ∀ n, n < 4 → ∀ x ∈ (u.eth n).out, x.2.qp ≠ some q) ∧
      (fld v 0 3 = 3 → s.rf (rQp q.toNat 0) 0 3 ≠ 3 →
        u.rf (rQp q.toNat 5) 0 32 = 100000 * 2 ^ s.rf (rEthCtrl (fld v 4 2)) 1 2) ∧
      (fld v 0 3 = 4 → s.rf (rQp q.toNat 0) 0 3 ≠ 4 → ∀ r, r < 256 → ringOn s r = true → s.rf (rCqCfg r) 0 12 = q.toNat →
        (u.ring r).stopped = true ∧ (u.reg rHostCause).getLsbD hcCqErr = true))) ∧
    (∀ b : BitVec 8,
      let r := b.toNat
      (takes (rDoorbell r) v → Completes (.doorbell m b v) s (fun u => u.reg (rRingTail r) = BitVec.ofNat 64 (fld v 0 32) ∧
        u.rings = s.rings)) ∧
      (takes (rCqHead r) v → Completes (.cqHeadDoorbell m b v) s (fun u => (sget 0 u.cqHead r).toNat = fld v 0 32 ∧
        u.rings = s.rings)) ∧
      (takes (rRingCfg r) v → ringOn s r = false → fld v 0 1 = 1 → Completes (.ringEnable m b v) s (fun u =>
        ringOn u r = true ∧ u.reg (rRingHead r) = 0 ∧ u.reg (rRingTail r) = 0 ∧ u.reg (rRingDone r) = 0 ∧
        u.reg (rCqTail r) = 0 ∧ u.ring r = { unacked := (s.ring r).unacked } ∧ sget 0 u.cqHead r = 0)) ∧
      (takes (rRingCfg r) v → ringOn s r = true → fld v 0 1 = 0 → (s.part (s.rf (rRingCfg r) 6 4)).test = 0 →
        Completes (.ringEnable m b v) s (fun u => ringOn u r = false ∧
          u.ring r = { unacked := (s.ring r).unacked }))) ∧
    (∀ size : Bool, takes (if size then rLogSize else rLogBase) v → Completes (.logReset m size v) s (fun u =>
      u.reg rLogHead = 0 ∧ u.reg rLogTail = 0 ∧
      (u.reg (if size then rLogSize else rLogBase)).toNat &&& pageMask = v.toNat &&& pageMask))

/-- FCLK_SET, MEASURE_START, CLK_ENABLE, MODULE_RESET, FABRIC_RESET, UPD_WRITE, ACTIVATE, RAISE_SVN, STREAM, REVOKE and UPD_DATA (R507,
R511, R514, R516, R528, R530–R533, R539, R545, R546), when the write is taken. The model's choice: HBM that reads a free byte after a
module reset is log 6, what the two resets forget and keep is logs 42 and 65. -/
def Obligations.ClockResetAndUpdateCommands : Prop :=
  ∀ (m : BitVec 7) (v : Word) (s : State),
    let takes := fun (a : Nat) (w : Word) => csrWriteCode m.toNat a w s = none
    (∀ b : BitVec 4,
      let f := b.toNat
      takes (rFclkSet f) v → Completes (.fclkSet m b v) s (fun u => u.rf (rFclkSet f) 0 12 = fld v 0 12 ∧
        (partOfField s f = none → u.rf (rFclkStatus f) 0 12 = fld v 0 12 ∧ u.rf (rFclkStatus f) 18 1 = 0) ∧
        (partOfField s f ≠ none → u.rf (rFclkStatus f) 0 12 = s.rf (rFclkStatus f) 0 12 ∧ u.rf (rFclkStatus f) 18 1 = 1 ∧
          sget 0 u.clk.relock f = fld v 0 12))) ∧
    (takes rMeasCtrl (setFld v 10 1 1) → Completes (.measureStart m v) s (fun u => u.rf rMeasCtrl 11 1 = 1 ∧
      u.rf rMeasCtrl 0 10 = fld v 0 10 ∧ u.rf rMeasCtrl 32 24 = fld v 32 24 ∧ u.clk.meas = some (setFld v 10 1 1))) ∧
    (takes rClkEnable0 v → Completes (.clkEnable m false v) s (fun u => ∀ b, b < 58 → u.rf rClkEnable0 b 1 = fld v b 1 ∧
      (s.rf rClkEnable0 b 1 = 0 → fld v b 1 = 1 → unitGated u b = true) ∧
      (b < 16 → s.rf rClkEnable0 b 1 ≠ fld v b 1 → u.rf (rFclkStatus b) 17 1 = 0))) ∧
    (takes rClkEnable1 v → Completes (.clkEnable m true v) s (fun u => u.rf rClkEnable1 0 1 = fld v 0 1)) ∧
    (takes rResetCtrl (setFld v 0 1 1) → shutDown s = false → MemOk s → Completes (.moduleReset m v) s (fun u =>
      u.csr = [] ∧ u.cells = [] ∧ u.cabs = [] ∧ u.parts = [] ∧ u.ctxs = [] ∧ u.rings = [] ∧ u.links = [] ∧
      u.sec.fuses = s.sec.fuses ∧ u.sec.boot = 0 ∧ u.pending = s.pending ∧
      ∀ a, byteOf u a = if a < hbmEnd then Config.freeByte s.fresh a else byteOf s a)) ∧
    (takes rResetCtrl (setFld v 0 2 2) → shutDown s = false → Completes (.fabricReset m v) s (fun u =>
      u.cells = [] ∧ u.fields = [] ∧ u.cabs = [] ∧ u.parts = [] ∧ u.ctxs = [] ∧ u.edges = [] ∧ u.mem = s.mem ∧
      u.pending = s.pending ∧ (∀ a, fabricKeeps a = false → u.reg a = regReset a) ∧ u.sec.upd = none ∧
      (s.sec.upd ≠ none → u.rf rUpdStatus 0 1 = 0 ∧ slotIn u.sec.flash (!s.sec.slot) = 3))) ∧
    (takes rUpdCmd (setFld v 0 3 1) → s.hbmErr = [] → Completes (.updWrite m v) s (fun u => u.reg rUpdStatus = 1 ∧
      u.sec.upd = some { stream := false, data := bytesIn s (s.rf rUpdAddr 0 39) (s.rf rUpdLen 0 27), len := s.rf rUpdLen 0 27 })) ∧
    (takes rUpdCmd (setFld v 0 3 2) → Completes (.activate m v) s (fun u => (curDir u.sec.flash).next = !s.sec.slot ∧
      u.reg rUpdStatus = 0 ∧ (u.reg rSecCause).getLsbD 2 = true)) ∧
    (takes rUpdCmd (setFld v 0 3 3) → recovery s = false → 2 ≤ s.sec.boot → Completes (.raiseSvn m v) s (fun u =>
      u.sec.fuses.svn = s.sec.fuses.svn ||| BitVec.ofNat 64 (2 ^ min (imgSvn (slotImg s s.sec.slot)) 64 - 1) ∧ (u.reg rSecCause).getLsbD 2 = true)) ∧
    (takes rUpdCmd (setFld v 0 3 4) → Completes (.stream m v) s (fun u => u.reg rUpdStatus = 1 ∧
      u.sec.upd = some { stream := true, data := [], len := s.rf rUpdLen 0 27 })) ∧
    (takes rUpdCmd (setFld v 0 3 5) → Completes (.revoke m v) s (fun u => u.sec.fuses.revoked = s.sec.fuses.revoked ||| 1 ∧
      (u.reg rSecCause).getLsbD 2 = true)) ∧
    (∀ x, s.sec.upd = some x → takes rUpdData v → Completes (.updData m v) s (fun u =>
      u.sec.upd = some { x with data := (x.data ++ leBytes 8 v.toNat).take x.len }))

/-! ### Links, gates, rings (09) -/

/-- TRAINING, CAPABILITY, LOCK_LOSS, PARTNER_SILENCE, DATA_FLIT, CREDIT_FLIT and REPLAY_REQUEST (R359–R364, R390): a port trains, takes the
lower of both offers, fails into training, takes flits in order and acknowledges them, asks for a replay of others, and sends
what credits allow. The model's choice: a data flit is acknowledged at once by a credit flit (log 86), the offered rate is the
lower of the trained and the set one (log 45), a failing port ends its copy (log 44). -/
def Obligations.LinksTrainAndCarryFlits : Prop :=
  ∀ (n : BitVec 4) (s : State),
    let k := n.toNat
    let l := s.link k
    (linkOn s k = true → portEn s k = true → portState s k = 1 → l.trained = none →
      Completes (.training n none) s (fun u => u.reg (rPortStatus k) = 3) ∧
      ∀ r : BitVec 2, Completes (.training n (some r)) s (fun u =>
        let rate := min r.toNat (s.rf (rPortCtrl k) 1 2)
        ((u.link k).trained.map (·.toNat)) = some rate ∧
        ∃ h, h.type = 4 ∧ .capability n h 1 (min (s.rf (rPortCtrl k) 3 2) (s.rf rStepping 12 2)) rate (s.rf rDeviceId 0 16)
          (s.rf rDeviceId 16 16) (s.rf rStepping 0 8) (s.rf (rNodeTag k) 0 16) ∈ u.sent)) ∧
    (∀ (own : BitVec 2) (level rate port : Byte) (vendor part : BitVec 16) (stepping : Byte) (node : BitVec 16),
      l.trained = some own → linkOn s k = true → portState s k = 1 →
      (level = 0 ∨ 2 < rate.toNat → Completes (.capability n level rate port vendor part stepping node) s (fun u =>
        (u.reg (rPortCause k)).getLsbD lcCap = true ∧ u.reg (rPortStatus k) = s.reg (rPortStatus k))) ∧
      (level ≠ 0 → rate.toNat ≤ 2 → Completes (.capability n level rate port vendor part stepping node) s (fun u =>
        portUp u k = true ∧ u.rf (rPortStatus k) 3 2 = min own.toNat rate.toNat ∧
        u.rf (rPortStatus k) 7 2 = min level.toNat 3 ∧
        u.rf (rPortStatus k) 5 2 = min (min level.toNat 3) (min (s.rf (rPortCtrl k) 3 2) (s.rf rStepping 12 2)) ∧
        u.rf (rPeerId k) 0 16 = vendor.toNat ∧ u.rf (rPeerId k) 16 16 = part.toNat ∧ u.rf (rPeerId k) 48 16 = node.toNat))) ∧
    (∀ c ∈ [Instr.lockLoss n, Instr.partnerSilence n], portState s k = 1 ∨ portState s k = 2 → Completes c s (fun u =>
      u.reg (rPortStatus k) = (if portEn s k then 1 else 0) ∧ (u.reg (rPortCause k)).getLsbD lcDown = true ∧
      (u.link k).copy = none ∧ (u.link k).unacked = [] ∧
      (integOn s = true → s.hbmErr = [] → u.rf (rLastReport 0) 0 16 = 0x30))) ∧
    (∀ f : FlitIn, portState s k = 2 → linkOn s k = true →
      (f.hdr.crcOk = true → f.hdr.seq = l.rxSeq + 1 → Completes (.dataFlit n f) s (fun u => (u.link k).rxSeq = f.hdr.seq ∧
        (u.link k).lost = false ∧ u.reg (rLinkCount k 1) = s.reg (rLinkCount k 1) + 1 ∧
        u.reg (rLinkCount k 3) = s.reg (rLinkCount k 3) + BitVec.ofNat 64 f.hdr.fec.1 ∧
        (∃ h, h.type = 2 ∧ h.ack = f.hdr.seq ∧ .flit n h none ∈ u.sent) ∧
        vcGet (u.link k).rx f.vc.toNat = if (vcGet l.rx f.vc.toNat).length < rxRoom f.vc.toNat then vcGet l.rx f.vc.toNat ++ [f.msg]
          else vcGet l.rx f.vc.toNat)) ∧
      (f.hdr.crcOk = false ∨ (f.hdr.seq ≠ l.rxSeq + 1 ∧ l.lost = false) → Completes (.dataFlit n f) s (fun u =>
        (∃ h, h.type = 3 ∧ h.ack = l.rxSeq ∧ .flit n h none ∈ u.sent) ∧ (u.link k).lost = true ∧ (u.link k).rx = l.rx ∧
        (u.link k).rxSeq = l.rxSeq))) ∧
    (∀ (ack : BitVec 10) (vc : BitVec 2) (cc : BitVec 4), portState s k = 2 → linkOn s k = true →
      l.copy = none → (∀ e ∈ l.entries, e.started = false) →
      (l.queue = [] → Completes (.creditFlit n ack vc cc) s (fun u =>
        vcGet (u.link k).credit vc.toNat = vcGet l.credit vc.toNat + cc.toNat ∧
        (u.link k).unacked = l.unacked.filter (fun x => 512 ≤ (ack - x.1).toNat))) ∧
      (∀ m, l.queue = [(vc.toNat, m)] → 0 < cc.toNat → l.unacked.length < 512 →
        Completes (.creditFlit n ack vc cc) s (fun u => (u.link k).queue = [] ∧
          (∃ h, h.seq = l.txSeq + 1 ∧ h.vc = vc.toNat ∧ .flit n h (some m) ∈ u.sent) ∧
          (flitType m = 1 → u.reg (rLinkCount k 0) = s.reg (rLinkCount k 0) + 1)))) ∧
    (∀ ack : BitVec 10, portState s k = 2 → linkOn s k = true →
      let again := l.unacked.filter (fun x => 512 ≤ (ack - x.1).toNat)
      ((∀ x ∈ again, x.2.2.2 < 8) → Completes (.replayRequest n ack) s (fun u =>
        (∀ x ∈ again, ∃ h, h.seq = x.1 ∧ h.vc = x.2.1 ∧ .flit n h (some x.2.2.1) ∈ u.sent) ∧
        (u.link k).unacked = again.map (fun x => (x.1, x.2.1, x.2.2.1, x.2.2.2 + 1)) ∧
        u.reg (rLinkCount k 2) = s.reg (rLinkCount k 2) + BitVec.ofNat 64 again.length)) ∧
      ((∃ x ∈ again, 8 ≤ x.2.2.2) → Completes (.replayRequest n ack) s (fun u =>
        u.reg (rPortStatus k) = (if portEn s k then 1 else 0) ∧ (u.reg (rPortCause k)).getLsbD lcDown = true)))

/-- GATE_GRADIENT, GATE_GRAD_DONE and GATE_GATHER_SOURCE (R360, R367, R369, R374, R377–R380): gradient tokens fill the local store
block by block, a gradient-done token starts the reduce-scatter with the blocks that the predecessor of their owner sends first,
as far as credits allow, and a gather source's row goes into the inactive leaf and round the ring; a token of an entry that the
present image does not have at the port is a gate fault. -/
def Obligations.GatesFeedTheRings : Prop :=
  ∀ (n ch : BitVec 4) (s : State) (p : Nat) (t : Tok),
    let k := n.toNat
    let g := gateCell k ch.toNat
    let size := ringSizeOf s k
    let pos := ringPos s k
    let l := s.link k
    gateRuns s k = some p → gateHead s k ch.toNat = some t →
    let taken := fun (u : State) => chanQueue u g (gateSide k) = (chanQueue s g (gateSide k)).drop 1
    (t.valid = false ∨ t.kind = .fin → Completes (.gateGradient n ch) s (fun u => taken u ∧ u.links = s.links)) ∧
    (t.kind = .data → t.valid = true → fld t.tag 8 8 = 0 →
      let i := fld t.tag 0 8
      let le := layerEntry s p i
      let e := (findEntry l i).getD (newEntry p (s.part p).slot k i le)
      let full := e.toks.length + 1 = if e.dtype then 4 else 2
      (gateEntry s p k i = true → e.recv < e.blocks →
        e.state = 1 → (full → storeUsed l + blockBytes e.dtype ≤ 4194304) →
        Completes (.gateGradient n ch) s (fun u => taken u ∧ ∃ x, findEntry (u.link k) i = some x ∧ x.ch = ch.toNat ∧
          (¬ full → x.toks = e.toks ++ [t.payload] ∧ x.locals = e.locals ∧ x.recv = e.recv) ∧
          (full → x.toks = [] ∧ x.locals = e.locals ++ [(e.recv, rowsBlock e.dtype (e.toks ++ [t.payload]))] ∧
            x.recv = e.recv + 1))) ∧
      (gateEntry s p k i = false → (s.part p).slot < 8 → Completes (.gateGradient n ch) s (fun u => taken u ∧
        (u.reg (rPortCause k)).getLsbD lcGate = true ∧ (u.part p).halted = true))) ∧
    (∀ i, t.kind = .control → t.valid = true →
      (List.range (layerCount s p)).find? (fun j =>
        leLayer (layerEntry s p j) == fld t.payload 0 32 && leKind (layerEntry s p j) == 0) = some i →
      let le := layerEntry s p i
      let e := (findEntry l i).getD (newEntry p (s.part p).slot k i le)
      let cnt := startedCount s k e
      let need := if e.comp then (cnt + 7) / 8 else if e.dtype then 2 * cnt else cnt
      fld (BitVec.ofNat 16 (lePorts le)) k 1 = 1 → e.recv = e.blocks → e.toks = [] → e.state = 1 → e.aborted = false →
      l.aborted = false → e.sent = 0 → l.queue = [] → (∀ y ∈ l.entries, y.started = false) →
      canSend s k 0 need = true →
      Completes (.gateGradDone n ch) s (fun u => taken u ∧
        u.reg (rLinkCount k 6) = s.reg (rLinkCount k 6) + BitVec.ofNat 64 cnt ∧
        (∃ x, findEntry (u.link k) i = some x ∧ x.state = 2 ∧ x.tag = t.tag ∧ x.sent = cnt) ∧
        (0 < cnt → e.comp = false → e.dtype = false → Queued u k 0
          (.redPartial e.layer (startedBlock s k 0) pos size 0 (sget [] e.locals (startedBlock s k 0)))))) ∧
    (t.kind = .data → t.valid = true → fld t.tag 8 8 = 1 → gateEntry s p k (fld t.tag 0 8) = false → (s.part p).slot < 8 →
      Completes (.gateGatherSource n ch) s (fun u => taken u ∧ (u.reg (rPortCause k)).getLsbD lcGate = true ∧
        (u.part p).halted = true)) ∧
    (∀ e, t.kind = .data → t.valid = true → fld t.tag 8 8 = 1 → gateEntry s p k (fld t.tag 0 8) = true →
      findEntry l (fld t.tag 0 8) = some e → e.state ≠ 1 →
      e.aborted = false → e.taken < shardSize e.blocks size pos → (1 < size → canSend s k 1 1 = true) →
      let r := t.payload
      let len := if fld r 136 1 = 1 then 8 else 16
      let off := fld r 160 64
      let exp : Int := off + toSigned (fld r 224 32) 32
      let base := leafBase s p (1 - activeLeaf s p)
      off + len ≤ (s.stepReg p oLeafSize).toNat → 0 ≤ exp → exp < (s.stepReg p oLeafSize).toNat → l.comb = [] →
      (exp < off ∨ (off + len : Nat) ≤ exp) → hbmDenied s (mPart s p) kWrite (base + off) len = none →
      hbmDenied s (mPart s p) kWrite (base + exp.toNat) 1 = none →
      Completes (.gateGatherSource n ch) s (fun u => taken u ∧ Queued u k 1 (.gathered e.layer pos r) ∧
        u.reg (rLinkCount k 8) = s.reg (rLinkCount k 8) + 1 ∧
        (∀ j, j < len → byteSoon u k (base + off + j) = BitVec.ofNat 8 (fld r (8 * j) 8)) ∧
        byteSoon u k (base + exp.toNat) = BitVec.ofNat 8 (fld r 128 8) ∧
        ∃ x, findEntry (u.link k) e.idx = some x ∧ x.taken = e.taken + 1 ∧ x.state = 3))

/-- PARTIAL, GATHER_ROW, ENTRY_COMPLETE, RING_ABORT and COPY_DATA (R360, R373, R375–R382, R384, R386, R387): a flit of partials meets
this device's blocks and goes on, is delivered to the gate, or is written, where its result can leave; a gathered block is written
and goes on until the owner's predecessor; an entry complete in every part signals; an abort ends the entries of its ring; copy
data are written with the peer's rights. The model's choice: the combiner empties when an entry completes (log 44), credits and
acknowledgements return at once by a credit flit (logs 85, 86), and where an abort stops is log 23. -/
def Obligations.RingsCombineAndGather : Prop :=
  ∀ (n : BitVec 4) (s : State), MemOk s → s.hbmErr = [] →
    let k := n.toNat
    let returned := fun (u : State) vc => ∃ h, h.type = 2 ∧ h.cvc = vc ∧ h.ccount = 1 ∧ .flit n h none ∈ u.sent
    (∀ m p (layer : BitVec 16) (q from_ : Nat) msg rest,
      let size := ringSizeOf s m
      let pos := ringPos s m
      ringFrom s k = some m → vcGet (s.link k).rx 0 = msg :: rest → portRuns s m = some p →
      (∀ half els, msg = .redPartial layer q from_ size half els →
        from_ ≠ (pos + size - 1) % size → (s.link m).frozen = false → Completes (.redPartial n) s (fun u =>
        (u.reg (rPortCause m)).getLsbD lcRing = true ∧ (u.link m).aborted = true ∧ vcGet (u.link k).rx 0 = rest)) ∧
      (∀ e, from_ = (pos + size - 1) % size → entryByLayer (s.link m) layer = some e → meetRoom s m e q = true →
        let post := fun (u : State) b => vcGet (u.link k).rx 0 = rest ∧ returned u 0 ∧
          ∃ x, findEntry (u.link m) e.idx = some x ∧ x.comb = e.comb + b ∧ x.deliv = if q % size = pos then e.deliv + b else e.deliv
        let gate := fun (u : State) ts => sget [] (u.link m).gateOut e.ch = sget [] (s.link m).gateOut e.ch ++ ts
        (∀ half els, msg = .redPartial layer q from_ size half els →
          let sum := addBlock e.dtype els (halfOf e.dtype half (sget [] e.locals q))
          let b := if lastHalf e.dtype half then 1 else 0
          (q % size ≠ pos → Completes (.redPartial n) s (fun u => post u b ∧
            Queued u m 0 (.redPartial layer q pos size half sum))) ∧
          (q % size = pos → e.kind = 0 → Completes (.redPartial n) s (fun u => post u b ∧
            gate u (shardToks e (q / size) (blockToks e.dtype sum) true))) ∧
          (q % size = pos → e.kind = 1 →
            let a := explicitAddr e q half
            let bs := blockToBytes e.dtype sum
            hbmDenied s (mPart s p) kWrite a 64 = none →
            Completes (.redPartial n) s (fun u => post u b ∧ Queued u m 1 (.explicitBlock layer q pos half sum) ∧
              ∀ j, j < bs.length → byteOf u (a + j) = bs.getD j 0))) ∧
        (∀ ws, msg = .redCompressed layer q from_ size ws → 0 < ws.length →
          let sums := fun i => addBlock e.dtype (decompress e.dtype (ws.getD i 0)) (sget [] e.locals (q + size * i))
          Completes (.redPartial n) s (fun u => post u ws.length ∧ (q % size = pos → gate u ((List.range ws.length).flatMap
            (fun i => shardToks e (q / size + i) (blockToks e.dtype (sums i)) true))))))) ∧
    (∀ m p e (layer : BitVec 16) (owner : Nat) rest,
      ringFrom s k = some m → portRuns s m = some p → entryByLayer (s.link m) layer = some e →
      let last : Bool := (ringPos s m + 1) % ringSizeOf s m = owner
      (last = false → canSend s m 1 1 = true) →
      (∀ row, vcGet (s.link k).rx 1 = .gathered layer owner row :: rest → Completes (.gatherRow n) s (fun u =>
        vcGet (u.link k).rx 1 = rest ∧ returned u 1 ∧ (last = false → Queued u m 1 (.gathered layer owner row)) ∧
        ∃ x, findEntry (u.link m) e.idx = some x ∧ x.written = e.written + 1 ∧ x.state = 3)) ∧
      (∀ q half els, vcGet (s.link k).rx 1 = .explicitBlock layer q owner half els :: rest →
        let a := explicitAddr e q half
        let bs := blockToBytes e.dtype els
        hbmDenied s (mPart s p) kWrite a 64 = none → Completes (.gatherRow n) s (fun u =>
          vcGet (u.link k).rx 1 = rest ∧ (last = false → Queued u m 1 (.explicitBlock layer q owner half els)) ∧
          (∀ j, j < bs.length → byteOf u (a + j) = bs.getD j 0) ∧
          ∃ x, findEntry (u.link m) e.idx = some x ∧ x.written = e.written + (if lastHalf e.dtype half then 1 else 0) ∧
            x.state = 3))) ∧
    (∀ (i : Byte) e, findEntry (s.link k) i.toNat = some e → entryDone s k e = true →
      (portsOf e.ports.toNat = [k] → e.aborted = false →
        Completes (.entryComplete n i) s (fun u => findEntry (u.link k) i.toNat = none ∧ (u.link k).comb = [] ∧
          (sget 0 (u.ctxAt e.part e.slot).ev e.idx).toNat = min ((sget 0 (s.ctxAt e.part e.slot).ev e.idx).toNat + 1) 0xFFFFFFFF)) ∧
      ((∃ m ∈ portsOf e.ports.toNat, m ≠ k ∧ (s.link m).aborted = false ∧ (sibling s m e).all (fun x => x.state != 4) = true) →
        Completes (.entryComplete n i) s (fun u => (∃ x, findEntry (u.link k) i.toNat = some x ∧ x.state = 4) ∧
          (u.link k).comb = [] ∧ u.ctxs = s.ctxs)) ∧
      ((∀ m ∈ portsOf e.ports.toNat, m ≠ k → (sibling s m e).any (fun x => x.state == 4) = true) →
        (∃ m ∈ portsOf e.ports.toNat, m ≠ k ∧ (sibling s m e).any (fun x => x.aborted) = true) →
        Completes (.entryComplete n i) s (fun u => u.ctxs = s.ctxs))) ∧
    (∀ (h : FlitHdr) m, portState s k = 2 → linkOn s k = true → h.crcOk = true → h.seq = (s.link k).rxSeq + 1 →
      ringFrom s k = some m →
      ((s.link m).abortOwn = false → (s.link m).aborted = false → (s.link m).frozen = false →
        Completes (.ringAbort ⟨n, h⟩) s (fun u => (u.reg (rPortCause m)).getLsbD lcAbort = true ∧
          (u.link m).entries = (s.link m).entries.map Entry.abort ∧
          (u.link m).comb = [] ∧ (u.link m).aborted = true ∧ (portLevel s m 2 = true → Queued u m 2 .abort))) ∧
      ((s.link m).abortOwn = true → Completes (.ringAbort ⟨n, h⟩) s (fun u => (u.link m).abortOwn = false ∧
        (u.link m).aborted = (s.link m).aborted ∧ u.reg (rPortCause m) = s.reg (rPortCause m)))) ∧
    (portState s k = 2 →
      (∀ (dst : BitVec 39) (total : BitVec 32) (off : Nat) (data : List Byte) rest,
        vcGet (s.link k).rx 3 = .copyPart dst total off data :: rest → (off = 0 ∨ (s.link k).inCopy ≠ 1) →
        (hbmDenied s (mPeer k) kWrite dst.toNat total.toNat = none → Completes (.copyData n) s (fun u =>
          (∀ j, j < data.length → byteOf u (dst.toNat + off + j) = data.getD j 0) ∧
          (∀ x, x < dst.toNat + off ∨ dst.toNat + off + data.length ≤ x → byteOf u x = byteOf s x) ∧
          (total.toNat ≤ off + 64 → Queued u k 3 (.copyReply cOk)))) ∧
        (hbmDenied s (mPeer k) kWrite dst.toNat total.toNat ≠ none → Completes (.copyData n) s (fun u =>
          Queued u k 3 (.copyReply eAccess) ∧ u.mem = s.mem))) ∧
      (∀ (code : Byte) rest, vcGet (s.link k).rx 3 = .copyReply code :: rest → Completes (.copyData n) s (fun u =>
        u.reg (rCopyStatus k) = BitVec.ofNat 64 (code.toNat * 256) ∧ (u.link k).copy = none ∧
        (code = eAccess → (u.reg (rPortCause k)).getLsbD lcPeerDeny = true))))


/-! ### Ethernet (10) -/

/-- ARP_REQUEST, NEIGHBOUR_SOLICITATION, ECHO_REQUEST, RDMA_WRITE and RDMA_READ (R394–R398, R400, R403, R404, R409, R413, R417,
R440, R560): a packet that fits, finds room and names the port's address is buffered, answered and counted, another is dropped and
counted; an RDMA request that its master's rights grant is served and answered, one with a wrong key or no right is not; a write
into the drawer window waits for the credits of its rows. The model's choice: answers have priority 0 (log 88), a wrong key sets
RDMA_DENY (log 35), a whole request advances RQ_PSN by its packets or waits (log 36), the data of a packet of an answer (log 87). -/
def Obligations.EthernetRequestsAreServed : Prop :=
  ∀ s : State,
    (∀ k : BitVec 3, k.toNat < 4 → ethUp s k.toNat = true → ∀ bytes vlan prio,
      let n := k.toNat
      let fits := frameFits s n bytes vlan && !shareFull s n prio bytes
      let sends := fun (i : Instr) (x : Sent) => Completes i s (fun u => GoesOut s u n 0 0 x ∧
        u.reg (rEthCount n 0) = s.reg (rEthCount n 0) + 1 ∧ Buffered n prio bytes s u ∧
        OnlyRegsAndPorts [rEthCount n 0, rEthCount n 1, rEthCount n 4] s u)
      let drops := fun (i : Instr) => Completes i s (fun u =>
        u.reg (rEthCount n 0) = s.reg (rEthCount n 0) + 1 ∧ u.reg (rEthCount n 2) = s.reg (rEthCount n 2) + 1 ∧
        OnlyRegs [rEthCount n 0, rEthCount n 2] s u)
      let answers := fun (i : Instr) (mine : Prop) (x : Sent) =>
        (mine → fits = true → sends i x) ∧ (¬ mine ∨ fits = false → drops i)
      (∀ target mac, answers (.arpRequest ⟨k, bytes, vlan, prio⟩ target mac) (s.rf (rIpv4 n) 0 32 = target.toNat) (.arp k mac)) ∧
      (∀ (b : BitVec 2) target mac, b.toNat = n →
        answers (.neighbourSolicitation ⟨b, bytes, vlan, prio⟩ target mac) (ipv6Of s n = target.toNat) (.neighbour b mac)) ∧
      (∀ v6 target data, answers (.echoRequest ⟨k, bytes, vlan, prio⟩ v6 target data)
        ((if v6 then ipv6Of s n else s.rf (rIpv4 n) 0 32) = target.toNat) (.echo k data))) ∧
    (mgmtUp s = true → ∀ bytes vlan prio, (∀ target mac, s.rf rMgmtIpv4 0 32 = target.toNat →
        Completes (.arpRequest ⟨4, bytes, vlan, prio⟩ target mac) s (fun u => .arp 4 mac ∈ u.sent ∧ OnlyRegs [] s u)) ∧
      ∀ target data, s.rf rMgmtIpv4 0 32 = target.toNat →
        (recovery s = false →
          Completes (.echoRequest ⟨4, bytes, vlan, prio⟩ false target data) s (fun u => .echo 4 data ∈ u.sent ∧ OnlyRegs [] s u)) ∧
        (recovery s = true → Idle (.echoRequest ⟨4, bytes, vlan, prio⟩ false target data) s)) ∧
    (∀ (f : Frame) (q : BitVec 12) (key : BitVec 32) (addr : Word),
      let a := addr.toNat
      let m := qpDomain s q.toNat
      let mine := s.rf (rDomainKey m) 0 32 = key.toNat
      let drawer := bDRAWER ≤ a ∧ a < drawerEnd
      let csr := bSYS ≤ a ∧ a < csrEnd ∧ a % 8 = 0
      (∀ i : Instr, (∃ data, Received f (packets s q.toNat data.length) q s ∧ i = .rdmaWrite f false q key addr data) ∨
          (Received f 1 q s ∧ ∃ len, i = .rdmaRead f false q key addr len) →
        Completes i s (fun u => Answered q s u (.nakInvalid q) ∧ qpState u q.toNat = 4 ∧ (u.reg rEthCause).getLsbD 5 = true ∧
          u.reg rQpErrNum = BitVec.ofNat 64 q.toNat ∧ u.mem = s.mem)) ∧
      (¬ mine → ∀ i : Instr, (∃ data, Received f (packets s q.toNat data.length) q s ∧ i = .rdmaWrite f true q key addr data) ∨
          (Received f 1 q s ∧ ∃ len, i = .rdmaRead f true q key addr len) →
        Completes i s (fun u => Answered q s u (.nakAccess q) ∧ (u.reg rHostCause).getLsbD hcRdmaDeny = true ∧
          u.mem = s.mem ∧ u.cells = s.cells ∧ qpState u q.toNat = qpState s q.toNat)) ∧
      (mine → ∀ data : List Byte, Received f (packets s q.toNat data.length) q s →
        let does := fun (x : Sent) (P : State → Prop) => Completes (.rdmaWrite f true q key addr data) s (fun u =>
          Answered q s u x ∧ P u)
        let row := fun j => (a - bDRAWER) / 32 + j
        let n := data.length / 32
        (a < hbmEnd → s.hbmErr = [] → MemOk s → hbmDenied s m kWrite a data.length = none →
          does (.rdmaAck q) (fun u => PsnPast q data.length s u ∧ Stored s u a data ∧ u.cells = s.cells)) ∧
        (∀ c, a < hbmEnd → hbmDenied s m kWrite a data.length = some c →
          does (.nakAccess q) (fun u => (u.reg rHostCause).getLsbD hcRdmaDeny = true ∧ u.mem = s.mem)) ∧
        (drawer → a % 32 = 0 → data ≠ [] → data.length % 32 = 0 → s.drErr = [] → MemOk s →
          windowDenied s m a data.length true = none →
          ((∀ j, j < n → landingRoom s (row j / 512) 8 = true) →
            does (.rdmaAck q) (fun u => PsnPast q data.length s u ∧ Stored s u a data ∧ u.cells = s.cells)) ∧
          (landingRoom s (row 0 / 512) (min (min 8 n) (512 - row 0 % 512)) = false →
            Completes (.rdmaWrite f true q key addr data) s (fun u => u.mem = s.mem ∧ u.cells = s.cells ∧ u.rdma =
              [{ q := q, key := key, write := true, addr := a, len := data.length, data := data, moved := true }]))) ∧
        (csr → data.length = 8 → (csrWrite m a (BitVec.ofNat 64 (ofBytes data)) (frameIn f (packets s q.toNat 8) q s).2).1 = cOk →
          Completes (.rdmaWrite f true q key addr data) s (fun u => ∃ n h, .frame n h (.rdmaAck q) ∈ u.sent ∨
            (h, .rdmaAck q) ∈ (u.eth n.toNat).out)) ∧
        (drawer → (a % 32 ≠ 0 ∨ data = [] ∨ data.length % 32 ≠ 0) → does (.nakInvalid q) (fun u => u.mem = s.mem))) ∧
      (mine → Received f 1 q s → ∀ len : Nat,
        let size := answerMtu s q.toNat
        let k := max 1 ((len + size - 1) / size)
        let does := fun (bs : List Byte) => Completes (.rdmaRead f true q key addr len) s (fun u => u.mem = s.mem ∧
          u.rf (rQp q.toNat 1) 24 24 = (s.rf (rQp q.toNat 1) 24 24 + k) % 2 ^ 24 ∧
          ∀ b ∈ chunks size k bs, Answered q s u (.rdmaData q b))
        (a < hbmEnd → s.hbmErr = [] → hbmDenied s m kRead a len = none → does (bytesIn s a len)) ∧
        (drawer → a % 32 = 0 → len ≠ 0 → len % 32 = 0 → s.drErr = [] →
          windowDenied s m a len false = none → does (bytesIn s a len)) ∧
        (csr → len = 8 → ∀ v t, csrRead m a (frameIn f 1 q s).2 = (cOk, v, t) → does (leBytes 8 v.toNat))))

/-- PFC_XON, PAUSE_FRAME, PAUSE_END, CNP, RATE_INCREASE, ACKNOWLEDGEMENT, RETRY_TIMEOUT, LINK_CHANGE and REF156_LOSS (R364,
R394, R398, R399, R402, R429, R440, R441, R518). The model's choice: NAK code 0 is the sequence error, and an answer on a queue pair
is for the lowest ring that waits for one on it (log 38); frames wait until a pause ends (log 36). -/
def Obligations.PortsKeepFlowAndRate : Prop :=
  ∀ s : State,
    (∀ (b : BitVec 2) (prio : BitVec 3),
      let n := b.toNat
      let k := prio.toNat
      (∀ drained, ethUp s n = true → Completes (.pfcXon b prio drained) s (fun u =>
        sget 0 (u.eth n).fill k = sget 0 (s.eth n).fill k - drained ∧
        (k ∈ (s.eth n).xoff → sget 0 (s.eth n).fill k - drained < s.rf (rPfcThr n) 16 16 * 1024 →
          .pause b prio false ∈ u.sent ∧ k ∉ (u.eth n).xoff))) ∧
      (∀ time, ethUp s n = true → Completes (.pauseFrame b prio time) s (fun u =>
        (pfcOn s n k = true → ethPaused u n k = (time != 0)) ∧ (pfcOn s n k = false → u.eths = s.eths) ∧
        ∀ x, x ≠ rEthCount n 0 → x ≠ rEthCount n 1 → x ≠ rEthCount n 3 → u.reg x = s.reg x)) ∧
      Completes (.pauseEnd b prio) s (fun u => ethPaused u n k = false ∧ (∀ x, x ≠ rEthCount n 1 → u.reg x = s.reg x) ∧
        ∀ h x, (h, x) ∈ (s.eth n).out → h.prio = prio → .frame b h x ∈ u.sent)) ∧
    (∀ q : BitVec 12,
      let i := q.toNat
      let rate := s.rf (rQp i 5) 0 32
      let n := qpPort s i
      (∀ f : Frame, Arrives f q s → qpState s i = 3 → Completes (.cnp f q) s (fun u =>
        u.rf (rQp i 5) 0 32 = Nat.max (s.rf (rCcCtrl n) 40 20) (rate - rate / 2 ^ s.rf (rCcCtrl n) 8 4) ∧
        u.reg (rEthCount n 5) = s.reg (rEthCount n 5) + 1 ∧ Taken f q s u ∧
        OnlyRegsAndPorts [rEthCount n 0, rEthCount n 1, rEthCount n 4, rEthCount n 5, rEthCount n 6, rEthCount n 7, rQp i 5] s u)) ∧
      (∀ f : Frame, ethUp s f.port.toNat = true → (frameOk s f = false ∨ shareFull s f.port.toNat f.prio f.bytes = true) →
        ∀ c ∈ [Instr.cnp f q, .acknowledgement ⟨f, q⟩ none, .acknowledgement ⟨f, q⟩ (some 1)], Completes c s (fun u =>
          u.reg (rEthCount f.port.toNat 0) = s.reg (rEthCount f.port.toNat 0) + 1 ∧
          u.reg (rEthCount f.port.toNat 2) = s.reg (rEthCount f.port.toNat 2) + 1 ∧
          OnlyRegs [rEthCount f.port.toNat 0, rEthCount f.port.toNat 2] s u)) ∧
      (qpState s i = 3 → unitGated s (48 + n) = false → Completes (.rateIncrease q) s (fun u =>
        u.rf (rQp i 5) 0 32 = Nat.min (100000 * 2 ^ s.rf (rEthCtrl n) 1 2) (rate + s.rf (rCcCtrl n) 12 16) ∧
        OnlyRegs [rQp i 5] s u)) ∧
      (∀ r, ringUnacked s i = some r →
        (∀ f : Frame, Arrives f q s →
          Completes (.acknowledgement ⟨f, q⟩ none) s (fun u => (u.ring r).unacked = (s.ring r).unacked.erase q.toNat ∧
            qpState u i = qpState s i ∧ Taken f q s u) ∧
          Completes (.acknowledgement ⟨f, q⟩ (some 0)) s (fun u => u.rings = s.rings ∧ qpState u i = qpState s i ∧
            Taken f q s u)) ∧
        (qpState s i = 3 → ∀ c : Instr,
          (∃ (f : Frame) (code : Byte), Arrives f q s ∧ code ≠ 0 ∧ c = .acknowledgement ⟨f, q⟩ (some code)) ∨ c = .retryTimeout q →
          Completes c s (fun u => qpState u i = 4 ∧ (u.reg rEthCause).getLsbD 5 = true ∧
            u.reg rQpErrNum = BitVec.ofNat 64 i ∧ ∀ x, x < 256 → ringOn s x = true → s.rf (rCqCfg x) 0 12 = i →
              (u.ring x).stopped = true ∧ (u.reg rHostCause).getLsbD hcCqErr = true)))) ∧
    (∀ (k : BitVec 3) (up : Bool),
      let n := k.toNat
      (n < 4 → (up = true → s.rf (rEthCtrl n) 0 1 = 1 ∧ unitGated s (48 + n) = false) → Completes (.linkChange k up) s (fun u =>
        u.rf (rEthStatus n) 0 1 = up.toNat ∧ (s.rf (rEthStatus n) 0 1 ≠ up.toNat → (u.reg rEthCause).getLsbD n = true) ∧
        OnlyRegs [rEthStatus n, rEthCause] s u)) ∧
      (n = 4 → mgmtUp s = true → Completes (.linkChange k up) s (fun u => (u.reg rEthCause).getLsbD 4 = true ∧
        OnlyRegs [rEthCause] s u))) ∧
    Completes .ref156Loss s (fun u => (u.reg rClkCause).getLsbD 17 = true ∧ (∀ n, n < 4 → u.rf (rEthStatus n) 0 1 = 0) ∧
      ∀ n, n < 16 → portState s n = 1 ∨ portState s n = 2 → (u.reg (rPortCause n)).getLsbD lcDown = true)

/-- REG_READ, REG_WRITE, ATTENTION_PERIOD and the SPDM responder (R405, R406, R432, R540–R543): a peer's access is answered
with its code and value, another's is counted; the masked causes go out again; the requests of SPDM are answered in the order of its
negotiation, and the signed answers carry the signatures of R540 and R543. The model's choice: codes, payloads, their order and the
signing context follow SPDM 1.3 (log 10), signatures and keys are uninterpreted (log 7), the nonce is a free value (log 6). -/
def Obligations.ServiceDieAnswers : Prop :=
  ∀ s : State,
    (∀ src port magic op seq addr v, mgmtUp s = true →
      (mgmtPeer s src = false → Completes (.regRead ⟨src, port⟩ magic op seq addr) s (fun u =>
          u.reg rMgmtDeny = s.reg rMgmtDeny + 1 ∧ u.sent = s.sent ∧ OnlyRegs [rMgmtDeny] s u) ∧
        Completes (.regWrite ⟨src, port⟩ magic op seq addr v) s (fun u =>
          u.reg rMgmtDeny = s.reg rMgmtDeny + 1 ∧ u.sent = s.sent ∧ OnlyRegs [rMgmtDeny] s u)) ∧
      (mgmtPeer s src = true → (magic ≠ 0x4D47 ∨ op ≠ 1 ∧ op ≠ 2) →
        Completes (.regRead ⟨src, port⟩ magic op seq addr) s (fun u => u.sent = s.sent ++ [.mgmtResp src port magic op eOpcode seq addr 0] ∧ OnlyRegs [] s u) ∧
        Completes (.regWrite ⟨src, port⟩ magic op seq addr v) s (fun u => u.sent = s.sent ++ [.mgmtResp src port magic op eOpcode seq addr 0] ∧ OnlyRegs [] s u)) ∧
      (mgmtPeer s src = true →
        (∀ code, csrDenied mMgmt addr.toNat false s = some code → Completes (.regRead ⟨src, port⟩ 0x4D47 1 seq addr) s (fun u =>
          .mgmtResp src port 0x4D47 1 code seq addr 0 ∈ u.sent ∧ OnlyRegs [rHostErr, rHostErrAddr, rHostCause] s u)) ∧
        (csrDenied mMgmt addr.toNat false s = none → Completes (.regRead ⟨src, port⟩ 0x4D47 1 seq addr) s (fun u =>
          .mgmtResp src port 0x4D47 1 cOk seq addr (csrValue addr.toNat s) ∈ u.sent ∧ OnlyRegs [] s u)) ∧
        (∀ code, csrWriteCode mMgmt addr.toNat v s = some code → Completes (.regWrite ⟨src, port⟩ 0x4D47 2 seq addr v) s (fun u =>
          .mgmtResp src port 0x4D47 2 code seq addr 0 ∈ u.sent ∧ OnlyRegs [rHostErr, rHostErrAddr, rHostCause] s u)) ∧
        (csrWriteCode mMgmt addr.toNat v s = none → Completes (.regWrite ⟨src, port⟩ 0x4D47 2 seq addr v) s (fun u =>
          .mgmtResp src port 0x4D47 2 cOk seq addr 0 ∈ u.sent)))) ∧
    (s.rf rEvtDest 48 1 = 1 → mgmtFull s = true → attnMasked s ≠ 0 → Completes .attentionPeriod s (fun u =>
      u.sent = s.sent ++ [.attention (BitVec.ofNat 32 (s.rf rEvtDest 0 32)) (BitVec.ofNat 16 (s.rf rEvtDest 32 16))
        (leBytes 2 0x4D41 ++ leBytes 2 s.sec.frames.toNat ++ leBytes 4 (attnSummary s) ++ leBytes 4 (s.rf rAttnMask 0 10) ++
          leBytes 4 (s.reg rDeviceId).toNat ++ leBytes 8 (s.reg rEpochTag).toNat ++ zeros 8)] ∧ u.sec.frames = s.sec.frames + 1 ∧ OnlyRegs [] s u)) ∧
    (spdmRuns s = true →
      (∀ i, i < 4 → conn? s i = none → (∀ j, j < i → conn? s j ≠ none) → Completes .spdmConnect s (fun u =>
        .accepted i ∈ u.sent ∧ conn? u i = some { id := i } ∧ (∀ j, j ≠ i → conn? u j = conn? s j) ∧ u.csr = s.csr)) ∧
      ((∀ j, j < 4 → conn? s j ≠ none) → Completes .spdmConnect s (fun u => .spdmRefused ∈ u.sent ∧ OnlyRegs [] s u)) ∧
      (∀ (id : BitVec 2) (c : Conn) (msg : List Byte), conn? s id.toNat = some c →
        let error := fun (i : Instr) (m : List Byte) (e : Byte) => Answers i id c m spError [e] s
        Negotiates (.getVersion id msg) id { id := c.id } 1 msg spVersion (leBytes 2 0x1300) s ∧
        (c.phase = 1 → Negotiates (.getCapabilities id msg) id c 2 msg spCapabilities (leBytes 4 0x16) s) ∧
        (c.phase = 2 → Negotiates (.negotiateAlgorithms id msg) id c 3 msg spAlgorithms (leBytes 4 8 ++ leBytes 4 2) s) ∧
        (c.phase ≠ 1 → error (.getCapabilities id msg) msg spUnexpected) ∧
        (c.phase ≠ 2 → error (.negotiateAlgorithms id msg) msg spUnexpected) ∧
        (c.phase ≠ 3 → ∀ (slot index : Byte) (signed : Bool), error (.getDigests id msg) msg spUnexpected ∧
          error (.getCertificate id slot 0 0 msg) msg spUnexpected ∧ error (.challenge id slot msg) msg spUnexpected ∧
          error (.getMeasurements id signed index msg) msg spUnexpected ∧ error (.vendorDefinedRequest id 4 0x4F54 msg) msg spUnexpected) ∧
        (c.phase = 3 → Answers (.getDigests id msg) id c msg spDigests
          (hashBytes (sha384 (certChain s 0)) ++ hashBytes (sha384 (certChain s 1))) s) ∧
        (c.phase = 3 → ∀ (slot : Byte) (off len : Nat),
          (slot.toNat < 2 → Answers (.getCertificate id slot off len msg) id c msg spCertificate
            (((certChain s slot.toNat).drop off).take len) s) ∧
          (2 ≤ slot.toNat → error (.getCertificate id slot off len msg) msg spUnsupported ∧
            error (.challenge id slot msg) msg spUnsupported) ∧
          (slot.toNat < 2 → AnswersSigned (.challenge id slot msg) id c msg spChallengeAuth
            (hashBytes (sha384 (certChain s slot.toNat))) s)) ∧
        (c.phase = 3 → ∀ index : Byte, measureUnknown s index.toNat = true → ∀ signed : Bool,
          error (.getMeasurements id signed index msg) msg spInvalid) ∧
        (c.phase = 3 → ∀ index : Byte, measureUnknown s index.toNat = false →
          Answers (.getMeasurements id false index msg) id c msg spMeasurements (measurementBody s index.toNat) s ∧
          AnswersSigned (.getMeasurements id true index msg) id c msg spMeasurements (measurementBody s index.toNat) s) ∧
        (∀ m, c.phase = 3 → c.signed = some m → Answers (.vendorDefinedRequest id 4 0x4F54 [1]) id c [1] spVendor
          ([1, 0, 0, 0] ++ aliasSlh s m) s) ∧
        (c.phase = 3 → c.signed = none → error (.vendorDefinedRequest id 4 0x4F54 [1]) [1] spUnexpected) ∧
        (c.phase = 3 → ∀ std vendor payload, ¬ (std = 4 ∧ vendor = 0x4F54 ∧ payload = [1]) →
          error (.vendorDefinedRequest id std vendor payload) payload spUnsupported) ∧
        (∀ code : Byte, error (.spdmUnsupported id code) [code] spUnsupported))) ∧
    (∀ id : BitVec 2, Completes (.connectionClose id) s (fun u => conn? u id.toNat = none ∧
      (∀ j, j ≠ id.toNat → conn? u j = conn? s j) ∧ u.csr = s.csr))

/-! ### Clocks, power, start-up (13, 14) -/

/-- PLL_UNLOCK, PLL_LOCK, THROTTLE_TICK, MEASURE_END, REF100_LOSS, CALIBRATION, SENSOR_CONVERSION and VIN_RANGE (R508–R511,
R513, R516–R519, R522–R524, R529). By how many edges a measured window differs from one at the present frequency, inside what the
domain delivers, comes with the command (log 4). The model's choice: THROT_CYC counts at the duty in force and carries the rest of a
cycle (log 40), what a shutdown clears (log 8), and memory that reads 0 behind it (log 2). -/
def Obligations.ClockAndSensorEvents : Prop :=
  ∀ s : State,
    (∀ f : BitVec 4, Completes (.pllUnlock f) s (fun u => (u.reg rClkCause).getLsbD f.toNat = true ∧
      u.rf (rFclkStatus f.toNat) 17 1 = 0 ∧ f.toNat ∈ u.clk.unlocked ∧
      ∀ p, partOfField s f.toNat = some p → testing s p = false → (u.part p).halted = true)) ∧
    (∀ b : BitVec 6, Completes (.pllLock b) s (fun u =>
      unitGated u b.toNat = (s.rf rClkEnable0 b.toNat 1 == 0 || stackFailed s b.toNat) ∧ b.toNat ∉ u.clk.unlocked ∧
      (b.toNat < 16 → u.rf (rFclkStatus b.toNat) 17 1 = 1) ∧ ∀ x, x ≠ rFclkStatus b.toNat → u.reg x = s.reg x)) ∧
    (shutDown s = false → unitGated s 54 = false → Completes .throttleTick s (fun u =>
      ((∀ f, f < 16 → s.rf rClkEnable0 f 1 = 1 → s.rf (rFclkStatus f) 12 5 < 16) → u.reg rPwrCause = s.reg rPwrCause) ∧
      ∀ f, f < 16 → s.rf rClkEnable0 f 1 = 1 →
      let limit := s.rf rPwrCtrl 0 15
      let hot := 4 * (s.rf rThermCtrl 0 8 : Int)
      let d := s.rf (rFclkStatus f) 12 5
      let temps := (List.range 4).map (fun q => tempQc s (4 * f + q))
      let d' := if temps.any (fun t => hot ≤ t) ∨ limit < s.rf rPinAvg 0 16 then (if d ≤ 4 then 4 else d - 1)
        else if temps.all (fun t => t < hot - 8) ∧ s.rf rPinAvg 0 16 * 16 < limit * 15 then (if d < 16 then d + 1 else 16)
        else d
      u.rf (rFclkStatus f) 12 5 = d' ∧ (16 ≤ d → d' < 16 → u.rf rPwrCause 0 1 = 1) ∧
      let cycles := if unitGated s f then 0 else s.rf (rFclkStatus f) 0 12 * (4000 - s.rf rSscCtrl 0 4) * 10 * (16 - d)
      let n := sget 0 s.clk.throtRem f + cycles
      u.reg (rThrotCyc f) = s.reg (rThrotCyc f) + BitVec.ofNat 64 (n / 64000) ∧ sget 0 u.clk.throtRem f = n % 64000)) ∧
    (∀ drift v, s.clk.meas = some v → Completes (.measureEnd drift) s (fun u => u.rf rMeasCtrl 11 1 = 0 ∧ u.clk.meas = none ∧
      let i := fld v 4 6
      let w := fld v 32 24
      (domainGated s (fld v 0 4) i = true → u.rf rMeasCount 0 32 = 0) ∧
      (domainGated s (fld v 0 4) i = false → fld v 0 4 = 0 →
        let edges := s.rf (rFclkStatus i) 0 12 * (4000 - s.rf rSscCtrl 0 4) * s.rf (rFclkStatus i) 12 5 * w / 16000000
        u.rf rMeasCount 0 32 = min (2200000 * w * 1000150 / 250000000000 + 1) (edges + drift).toNat) ∧
      ∀ x, x ≠ rMeasCtrl → x ≠ rMeasCount → u.reg x = s.reg x)) ∧
    (shutDown s = false → Completes .ref100Loss s (fun u => DownFor 5 u ∧ (u.reg rClkCause).getLsbD 16 = true)) ∧
    (∀ (k : CalChannel) cycles failed,
      let n := k.stack.toNat
      let ch := k.channel.toNat
      (unitGated s (16 + n) = false → k.periodic = true ∨ ch ∈ (s.plinth n).calDue → Completes (.calibration k cycles failed) s (fun u =>
        u.reg (rPlCount n 5) = s.reg (rPlCount n 5) + BitVec.ofNat 64 (cycles.val + (failed.map (·.val)).sum) ∧
        (failed ≠ [] → (u.reg (rPlCause n)).getLsbD 3 = true) ∧ (failed = [] → u.reg (rPlCause n) = s.reg (rPlCause n)) ∧
        (sget 0 (u.plinth n).calTemp ch).toNat = s.rf (rTemp (64 + n)) 0 16 ∧ ch ∉ (u.plinth n).calDue ∧
        ∀ x, x ≠ rPlCount n 5 → x ≠ rPlCause n → u.reg x = s.reg x)) ∧
      (k.periodic = false → ch ∉ (s.plinth n).calDue → Idle (.calibration k cycles failed) s)) ∧
    (∀ (temps mvs : List (BitVec 16)) (vin iin pin : BitVec 16) (mj : Nat), unitGated s 54 = false → temps.length = 72 →
      mvs.length = 24 → Completes (.sensorConversion temps mvs vin iin pin mj) s (fun u =>
        let t := fun n => toSigned (temps.getD n 0).toNat 16
        let hot := fun (limit : Int) (lo hi : Nat) (old : Sparse Nat) => ∃ n, lo ≤ n ∧ n < hi ∧ 4 * limit ≤ t n ∧ 2 ≤ sget 0 old n
        (∀ n, n < 72 → u.rf (rTemp n) 0 16 = (temps.getD n 0).toNat) ∧ (∀ n, n < 24 → u.rf (rVmon n) 0 16 = (mvs.getD n 0).toNat) ∧
        u.rf rVin 0 16 = vin.toNat ∧ u.rf rIin 0 16 = iin.toNat ∧ u.rf rPinAvg 0 16 = pin.toNat ∧
        u.reg rEnergy = s.reg rEnergy + BitVec.ofNat 64 mj ∧
        ((∃ n, n < 64 ∧ 4 * (s.rf rThermCtrl 0 8 : Int) ≤ t n) → u.rf rPwrCause 1 1 = 1) ∧
        ((∃ n, 64 ≤ n ∧ n < 72 ∧ 4 * (s.rf rThermCtrl 8 8 : Int) ≤ t n) → u.rf rPwrCause 2 1 = 1) ∧
        (vin.toNat < 46000 → u.rf rPwrCause 3 1 = 1) ∧ (58000 < vin.toNat → u.rf rPwrCause 4 1 = 1) ∧
        (s.rf rPwrCtrl 0 15 < pin.toNat → u.rf rPwrCause 5 1 = 1) ∧
        (shutDown s = false → (hot 115 0 64 s.clk.fieldHot → DownFor 1 u) ∧
          (¬ hot 115 0 64 s.clk.fieldHot → hot 105 64 72 s.clk.hbmHot → DownFor 2 u) ∧
          (¬ hot 115 0 64 s.clk.fieldHot → ¬ hot 105 64 72 s.clk.hbmHot → shutDown u = false ∧
            ∀ k, k < 8 → ∀ e ∈ (s.plinth k).calTemp, 20 ≤ (t (64 + k) - e.2.toInt).natAbs → e.1 ∈ (u.plinth k).calDue)))) ∧
    (∀ (mv : BitVec 16) (sustained : Bool), mv.toNat ≤ 40000 → Completes (.vinRange mv sustained) s (fun u =>
      AtPowerOn s u ∧ u.mem = {} ∧ u.sec.powered = false)) ∧
    (∀ (mv : BitVec 16) (sustained : Bool), 40000 < mv.toNat → Completes (.vinRange mv sustained) s (fun u =>
      (mv.toNat < 46000 → u.rf rPwrCause 3 1 = 1) ∧ (58000 < mv.toNat → u.rf rPwrCause 4 1 = 1) ∧
      (shutDown s = false → sustained = true → (mv.toNat < 44000 → DownFor 3 u) ∧ (60000 < mv.toNat → DownFor 4 u)) ∧
      (sustained = false ∨ (44000 ≤ mv.toNat ∧ mv.toNat ≤ 60000) → OnlyRegs [rPwrCause] s u)))

/-- PWR_OK_RISE, PWR_OK_FALL, RST_N, BOOT_PHASE, UPD_WRITE_DONE and FLASH_COPY (R346, R356, R520, R530–R541, R545–R548). The model's
choice: verdicts over signatures come with the command (log 7), FALLBACK whenever the other slot boots and clocks that are locked
as their phase ends (log 41), HBM that reads a free byte after RST_N (log 6), registers and memory at power-on (logs 1 and 2), the
checks of the stores (log 9), the fault counts in the flash (log 89). -/
def Obligations.ResetsBootAndUpdate : Prop :=
  ∀ s : State,
    let inactive := fun (u : State) => slotSt u (!s.sec.slot)
    (∃ u, exec .pwrOkRise s = .next u ∧ AtPowerOn s u ∧ u.mem = {} ∧ u.sec.flash = keptFlash s ∧ u.sec.powered = true) ∧
    Completes .pwrOkFall s (fun u => AtPowerOn s u ∧ u.mem = {} ∧ u.sec.powered = false ∧
      (s.sec.upd = none → u.sec.flash = keptFlash s) ∧ (s.sec.upd ≠ none → inactive u = 3)) ∧
    (shutDown s = false → s.sec.powered = true → MemOk s → Completes .rstN s (fun u => AtPowerOn s u ∧
      (s.sec.upd = none → u.sec.flash = keptFlash s) ∧ (s.sec.upd ≠ none → inactive u = 3) ∧
      ∀ a, byteOf u a = if a < hbmEnd then Config.freeByte s.fresh a else byteOf s a)) ∧
    (s.sec.powered = true → shutDown s = false → s.sec.stuck = false → ∀ (n : Nat) (seen : BootSeen), s.sec.boot + 1 = n → n ≤ 7 →
      let sig := fun (b : Bool) => if b then seen.sigB else seen.sigA
      let f := s.sec.flash
      let next := (curDir f).next
      let recovers := fun (u : State) (kept : Bool) => recovery u = true ∧ u.sec.stuck = true ∧ u.rf rBootStatus 0 3 = 0 ∧
        u.rf rMgmtCtrl 0 2 = 1 ∧ unitGated u 52 = false ∧
        u.rf rMgmtIpv4 0 32 = (if cfgOk s && kept then f.cfg.ipv4 else s.sec.fuses.ipv4).toNat
      Completes (.bootPhase seen) s (fun u => u.sec.boot = n ∧
        (n = 1 →
          let found := (seen.dirOk.1 && dirOk f.dir0) || (seen.dirOk.2 && dirOk f.dir1)
          (found = false → recovers u seen.cfgOk) ∧ (found = true → u.rf rBootStatus 0 3 = 1 ∧
          unitGated u 53 = false ∧ unitGated u 54 = false)) ∧
        (n = 2 → (slotVerify s (slotImg s next) (sig next) = true → u.sec.slot = next ∧ u.rf rBootStatus 0 3 = 2) ∧
          (slotVerify s (slotImg s next) (sig next) = false →
            (slotSt s next = 1 → slotSt u next = 3) ∧
            (slotVerify s (slotImg s (!next)) (sig (!next)) = true → u.sec.slot = (!next) ∧ (u.reg rSecCause).getLsbD 0 = true ∧
              u.rf rBootStatus 0 3 = 2) ∧
            (slotVerify s (slotImg s (!next)) (sig (!next)) = false → recovers u true))) ∧
        (n = 3 → u.sec.measured = measure s ∧ u.sec.aliasCerts = aliasCerts s.sec.fuses.seed ((measure s).getD 1 0) ∧ u.rf rBootStatus 0 3 = 3) ∧
        (n = 4 → u.rf rBootStatus 0 3 = 4 ∧ u.rf rBootStatus 3 8 = seen.hbmFail.toNat ∧
          (∀ k, k < 8 → unitGated u (16 + k) = seen.hbmFail.getLsbD k) ∧
          (f.storeCrc = crc32c (storeBytes f) → u.integ.faults = f.faults)) ∧
        (n = 5 → u.rf rBootStatus 0 3 = 5 ∧ u.rf rMgmtCtrl 0 2 = s.sec.flash.cfg.mode.toNat ∧ unitGated u 52 = false ∧
          u.rf rMgmtIpv4 0 32 = s.sec.flash.cfg.ipv4.toNat ∧ (s.rf rBootStatus 3 8 ≠ 0 → u.sec.stuck = true)) ∧
        (n = 6 → u.rf rBootStatus 0 3 = 6 ∧ (∀ f, f < 16 → unitGated u f = false ∧ u.rf (rFclkStatus f) 17 1 = 1) ∧
          u.drErr = [] ∧ (MemOk s → ∀ a, bDRAWER ≤ a → a < drawerEnd → byteOf u a = 0)) ∧
        (n = 7 → u.rf rBootStatus 0 3 = 7 ∧ u.sec.measured.length = s.sec.measured.length + 1 ∧
          (∀ k, k < 20 → unitGated u (32 + k) = false) ∧ (slotSt s s.sec.slot = 1 → slotSt u s.sec.slot = 2)))) ∧
    (∀ (v : SigVerdict) (x : Upd), s.sec.upd = some x → x.len ≤ x.data.length →
      Completes (.updWriteDone v) s (fun u => slotImg u (!s.sec.slot) = x.data ∧ u.sec.upd = none ∧
        (slotVerify s x.data v = true → inactive u = 1 ∧ u.reg rUpdStatus = 0 ∧ (u.reg rSecCause).getLsbD 2 = true) ∧
        (slotVerify s x.data v = false → inactive u = 3 ∧ (u.reg rSecCause).getLsbD 3 = true ∧
          u.rf rUpdStatus 8 8 = (if fusedSvn s.sec.fuses ≤ imgSvn x.data then eSignature else eVersion).toNat))) ∧
    (∀ w, (flashEntries s).find? (fun e => !s.sec.flash.remap.contains e) = some w → Completes .flashCopy s (fun u =>
      u.sec.flash.remap = s.sec.flash.remap ++ [w] ∧ u.sec.flash.storeCrc = crc32c (storeBytes u.sec.flash) ∧ u.rf rRemapStatus 32 16 = s.rf rRemapStatus 32 16 - 1 ∧
      ∀ x, x ≠ rRemapStatus → u.reg x = s.reg x))

/-! ### Command rings, contexts, tests (10, 11, 12) -/

/-- DESCRIPTOR_FETCH, COMPLETION_WRITE, CMD_NOP, RUN, SEM, EVENT, FILL and DFILL (R398, R421–R428, R450, R561): a fetch takes
the next descriptor, and completes it at once when its dependency is met and its opcode or version is not accepted; a
completion goes to the host's queue; a command has its effect and completes, waits, or is rejected with its code. The model's choice:
DFILL comes with the cycles that have passed (log 4), a descriptor is fetched without an access check (log 59), and DETAIL of the
codes other than E_RANGE (log 70). -/
def Obligations.RingsFetchRunAndComplete : Prop :=
  ∀ (b : BitVec 8) (s : State),
    let r := b.toNat
    let p := ringPart s r
    let head := s.rf (rRingHead r) 0 32
    let a := (s.reg (rRingBase r)).toNat + 64 * (head % ringSize s r)
    let fetched : Cmd := BitVec.ofNat 512 (ofBytes (bytesIn s a 64))
    (ringOn s r = true → (s.ring r).cur = none → head ≠ s.rf (rRingTail r) 0 32 → (s.ring r).held.length < 16 →
      a + 64 ≤ hbmEnd → hbmGated s a 64 = false → s.hbmErr = [] →
      Completes (.descriptorFetch b) s (fun u => u.rf (rRingHead r) 0 32 = (head + 1) % 2 ^ 32 ∧ u.mem = s.mem ∧
        (depMet s fetched = true → dOpOk (dOp fetched) = false → Completed r fetched eOpcode 0 s u) ∧
        (depMet s fetched = true → dOpOk (dOp fetched) = true → dVersionOk s (dVersion fetched) = false →
          Completed r fetched eVersion 1 s u) ∧
        (depMet s fetched = false ∨ (dOpOk (dOp fetched) = true ∧ dVersionOk s (dVersion fetched) = true) →
          (u.ring r).cur = some fetched ∧ (u.ring r).started = false ∧ (u.ring r).held = (s.ring r).held))) ∧
    (∀ c rest, (s.ring r).held = c :: rest → canWrite s r = true → (s.ring r).ending = none →
      Completes (.completionWrite b) s (fun u =>
      let q := s.rf (rCqCfg r) 0 12
      Answered (BitVec.ofNat 12 q) s u (.completion b (BitVec.ofNat 12 q) (BitVec.ofNat 32 (s.rf (rCqCfg r) 32 32))
        (s.reg (rCqAddr r) + BitVec.ofNat 64 (32 * (s.rf (rCqTail r) 0 32 % cqSize s r))) (complBytes r c)) ∧
      (u.ring r).held = rest ∧ (u.ring r).unacked = (s.ring r).unacked ++ [q] ∧
      u.rf (rCqTail r) 0 32 = (s.rf (rCqTail r) 0 32 + 1) % 2 ^ 32 ∧
      u.rf (rQp q 1) 0 24 = (s.rf (rQp q 1) 0 24 + 1) % 2 ^ 24 ∧ u.mem = s.mem)) ∧
    (∀ d, CmdReady 1 r s d → Completes (.cmdNop b) s (fun u => Completed r d cOk 0 s u ∧ u.mem = s.mem ∧ u.ctxs = s.ctxs ∧
      u.parts = s.parts ∧ ∀ x, x ≠ rRingDone r → u.reg x = s.reg x)) ∧
    (∀ d off, (s.ring r).cur = some d → (s.ring r).started = false → (s.ring r).ending = none → (s.ring r).held.length < 16 →
      ringOn s r = true → dOp d = 1 → dVersionOk s (dVersion d) = true → depMet s d = true → dHeaderBad s d = some off →
      Completes (.cmdNop b) s (Completed r d eRange off s)) ∧
    (∀ d, CmdReady 2 r s d → unitGated s 56 = false → (s.ring r).cid = none →
      let x := s.ctxAt p (dCtx d)
      let attached : RunReq :=
        { ring := r, seq := BitVec.ofNat 32 (s.rf (rRingDone r) 0 32), cookie := BitVec.ofNat 32 (fld d 32 32),
          image := fld d 128 64 }
      (x.alive = false → Completes (.run b) s (Completed r d eState 1 s)) ∧
      (x.alive = true → slotOfCid s p x.cid.toNat = some (dCtx d) → x.run = none → x.prog = false → Completes (.run b) s (fun u =>
        (u.ctxAt p (dCtx d)).run = some attached ∧ (u.ring r).started = true ∧ (u.ring r).cur = some d ∧
        (isRunning s p (dCtx d) = false → (u.ctxAt p (dCtx d)).prog = false) ∧
        (isRunning s p (dCtx d) = true → (s.part p).halted = false → testing s p = false → x.fill = none → x.load = none →
          stepState s p = sIdle →
          (u.ctxAt p (dCtx d)).prog = true ∧ (u.ctxAt p (dCtx d)).fill = some (fRun, fld d 128 64)))) ∧
      (x.alive = true → slotOfCid s p x.cid.toNat = some (dCtx d) → (x.run ≠ none ∨ x.prog = true) →
        Completes (.run b) s (fun u => (u.ring r).cid = some x.cid ∧ (u.ring r).cur = some d ∧ (u.ring r).started = false ∧
          u.ctxs = s.ctxs ∧ u.csr = s.csr))) ∧
    (∀ d cid, CmdReady 2 r s d → unitGated s 56 = false → (s.ring r).cid = some cid → slotOfCid s p cid.toNat = none →
      (∃ k ∈ (s.part p).parked, k.ctx.cid = cid ∧ k.ctx.run = none ∧ k.ctx.prog = false) → Completes (.run b) s (fun u =>
        (u.ring r).started = true ∧ ∃ k ∈ (u.part p).parked, k.ctx.cid = cid ∧ ∃ q, k.ctx.run = some q ∧ q.ring = r ∧
          q.image = fld d 128 64)) ∧
    (∀ d, CmdReady 3 r s d → unitGated s 56 = false →
      let x := s.ctxAt p (dCtx d)
      let i := fld d 128 6
      let v : Int := if fld d 136 1 = 0 then (fld d 160 32 : Nat) else semOf x i + toSigned (fld d 160 32) 32
      (x.alive = true → 0 ≤ v → v ≤ 0xFFFFFFFF → Completes (.sem b) s (fun u => Completed r d cOk 0 s u ∧
        ((∀ w ∈ x.semQ, w.sem ≠ i) → (semOf (u.ctxAt p (dCtx d)) i : Int) = v))) ∧
      (x.alive = true → (v < 0 ∨ 0xFFFFFFFF < v) → Completes (.sem b) s (fun u => Completed r d eRange 20 s u ∧
        u.ctxs = s.ctxs)) ∧
      (x.alive = false → Completes (.sem b) s (fun u => Completed r d eState 1 s u ∧ u.ctxs = s.ctxs))) ∧
    (∀ d, CmdReady 4 r s d → unitGated s 56 = false → (s.ctxAt p (dCtx d)).alive = true →
      let i := fld d 128 8
      let n := fld d 160 32
      (n ≠ 0 → Completes (.event b) s (fun u => Completed r d cOk 0 s u ∧
        evOf (u.ctxAt p (dCtx d)) i = Nat.min (evOf (s.ctxAt p (dCtx d)) i + n) 0xFFFFFFFF)) ∧
      (n = 0 → Completes (.event b) s (fun u => Completed r d eRange 20 s u ∧ u.ctxs = s.ctxs))) ∧
    (∀ d, CmdReady 5 r s d →
      let a := fld d 128 64
      let n := fld d 192 64
      (hbmDenied s (ringDomain s r) kWrite a n = none → a % 256 = 0 → n % 256 = 0 → n ≠ 0 → s.hbmErr = [] → MemOk s →
        Completes (.fill b) s (fun u => Completed r d cOk 0 s u ∧
          Stored s u a ((List.replicate (n / 8) (leBytes 8 (fld d 256 64))).flatten))) ∧
      (hbmDenied s (ringDomain s r) kWrite a n = some eAccess → Completes (.fill b) s (fun u =>
        Completed r d eAccess 16 s u ∧ u.mem = s.mem)) ∧
      (hbmDenied s (ringDomain s r) kWrite a n = none → a % 256 ≠ 0 → Completes (.fill b) s (fun u =>
        Completed r d eAlign 16 s u ∧ u.mem = s.mem))) ∧
    (∀ d, CmdReady 6 r s d → unitGated s 56 = false → (s.ctxAt p (dCtx d)).alive = true →
      let acc := s.reg (rAccCsr (ringDomain s r))
      let base := bDRAWER + partFirst s p * 2 ^ 30
      let lo := (s.ring r).filled
      (fld acc 17 1 = 1 → fld acc p 1 = 1 → stepState s p = sIdle → programRuns s p = false → partOn s p = true → MemOk s →
        ∀ cycles : Nat, Completes (.dfill ⟨b, cycles⟩) s (fun u =>
          (512 ≤ lo + cycles → Completed r d cOk 0 s u) ∧
          (lo + cycles < 512 → (u.ring r).filled = lo + cycles ∧ (u.ring r).cur = some d ∧ (u.ring r).started = true) ∧
          ∀ x, byteOf u x = if base ≤ x ∧ x < base + partF s p * 2 ^ 30 ∧ lo ≤ (x - base) % 0x4000 / 32 ∧
              (x - base) % 0x4000 / 32 < min 512 (lo + cycles) then (leBytes 4 (fld d 128 32)).getD (x % 4) 0 else byteOf s x)) ∧
      (fld acc 17 1 = 1 → fld acc p 1 = 1 → (stepState s p ≠ sIdle ∨ programRuns s p = true) →
        ∀ cycles, Completes (.dfill ⟨b, cycles⟩) s (SameButFrames s)) ∧
      (fld acc 17 1 = 0 ∨ fld acc p 1 = 0 → ∀ cycles, Completes (.dfill ⟨b, cycles⟩) s (fun u =>
        Completed r d eAccess 0 s u ∧ u.mem = s.mem)))

/-- CTX_CREATE, CTX_DESTROY, CTX_PARK, CTX_UNPARK, CTX_POST, CTX_SWITCH, SLICE_EXPIRY, CONTEXT_SWITCH, FORCED_SCAN_OUT and
EVICTION (R445, R449, R451, R453–R458, R461, R469): a context is created, destroyed once nothing waits for it, parked and
brought back; a request switches at the next boundary to the context named or lapses there; a forced scan-out stops issue
first and then saves in full form. The model's choice: what holds a boundary back and a context without an image (log 61), the
order of parked contexts (log 62), DETAIL of the codes other than E_RANGE (log 70), a destroyed context that leaves the fabric free
(log 66). -/
def Obligations.ContextsComeAndGo : Prop :=
  (∀ (b : BitVec 8) (s : State) (d : Cmd), unitGated s 56 = false →
    let r := b.toNat
    let p := ringPart s r
    let sl := dCtx d
    let x := s.ctxAt p sl
    let cid := fld d 224 32
    let ports := fld d 192 16
    let parkedWith := fun (u : State) => (u.part p).parked.find? (fun k => k.ctx.cid.toNat == cid)
    (CmdReady 0x10 r s d → (portsTaken s p 8).toNat &&& ports = 0 →
      (x.alive = false → ports &&& partPorts s p = ports → cidUsed s p (BitVec.ofNat 32 cid) = false → fld d 128 64 % 4096 = 0 →
        Completes (.ctxCreate b) s (fun u => Completed r d cOk 0 s u ∧ (∀ off, off < 0x1000 →
            u.reg (rStep p sl off) = regReset (rStep p sl off)) ∧
          u.ctxAt p sl = { alive := true, cid := BitVec.ofNat 32 cid, ports := BitVec.ofNat 16 ports, area := fld d 128 64 })) ∧
      (x.alive = true → Completes (.ctxCreate b) s (fun u => Completed r d eState 1 s u ∧ u.ctxs = s.ctxs))) ∧
    (CmdReady 0x11 r s d →
      (x.alive = true → ctxIdle x = true → (∀ q, q < 256 → ringPart s q = p → (s.ring q).cid ≠ some x.cid) →
        Completes (.ctxDestroy b) s (fun u => Completed r d cOk 0 s u ∧ u.ctxAt p sl = {} ∧ isRunning u p sl = false ∧
          (isRunning s p sl = true → ∀ c, inPart s p c = true → (u.cab c).now.st ≠ 2))) ∧
      (x.alive = false ∨ ctxIdle x = false ∨ (∃ q, q < 256 ∧ ringPart s q = p ∧ (s.ring q).cid = some x.cid) → Completes (.ctxDestroy b) s (fun u => Completed r d eState 1 s u ∧
        u.ctxs = s.ctxs))) ∧
    (CmdReady 0x12 r s d → x.alive = true →
      (isRunning s p sl = false → (s.part p).parked.length + (if (s.part p).parking.isSome then 1 else 0) < 16 →
        Completes (.ctxPark b) s (fun u => Completed r d cOk 0 s u ∧ u.ctxAt p sl = {} ∧
          ∃ k, (u.part p).parked = (s.part p).parked ++ [k] ∧ k.held = true ∧ k.ctx.cid = x.cid ∧
            k.regs = stepOffsets.map (fun o => (o.lo, s.reg (rStep p sl o.lo))))) ∧
      (isRunning s p sl = true → (s.part p).parking = none → (s.part p).parked.length < 16 →
        Completes (.ctxPark b) s (fun u => (u.part p).parking = some r ∧ (u.ring r).cur = some d ∧ u.ctxs = s.ctxs)) ∧
      (16 ≤ (s.part p).parked.length → Completes (.ctxPark b) s (fun u => Completed r d eCapacity 1 s u ∧ u.ctxs = s.ctxs))) ∧
    ((s.ring r).cur = some d → (s.ring r).started = true → (s.ring r).ending = none → (s.ring r).held.length < 16 →
      ringOn s r = true → dOp d = 0x12 → (s.part p).parking ≠ some r → Completes (.ctxPark b) s (Completed r d eState 1 s)) ∧
    (CmdReady 0x13 r s d → x.alive = false →
      (∀ k, parkedWith s = some k → k.ctx.ports &&& portsTaken s p 8 = 0 → Completes (.ctxUnpark b) s (fun u =>
        Completed r d cOk 0 s u ∧ u.ctxAt p sl = { k.ctx with keepLink := (u.ctxAt p sl).keepLink } ∧ parkedWith u = none)) ∧
      (parkedWith s = none → Completes (.ctxUnpark b) s (fun u => Completed r d eRange 28 s u ∧ u.ctxs = s.ctxs))) ∧
    (CmdReady 0x14 r s d →
      let i := fld d 128 8
      let n := fld d 160 32
      (fld d 136 1 = 1 → n ≠ 0 → ∀ t, slotOfCid s p cid = some t → Completes (.ctxPost b) s (fun u =>
        Completed r d cOk 0 s u ∧ evOf (u.ctxAt p t) i = Nat.min (evOf (s.ctxAt p t) i + n) 0xFFFFFFFF)) ∧
      (fld d 136 1 = 0 → n ≠ 0 → i < 64 → ∀ t, slotOfCid s p cid = some t → semOf (s.ctxAt p t) i + n ≤ 0xFFFFFFFF →
        (∀ w ∈ (s.ctxAt p t).semQ, w.sem ≠ i) → Completes (.ctxPost b) s (fun u => Completed r d cOk 0 s u ∧
          semOf (u.ctxAt p t) i = semOf (s.ctxAt p t) i + n)) ∧
      (fld d 136 1 = 1 → n ≠ 0 → slotOfCid s p cid = none → ∀ k, parkedWith s = some k → Completes (.ctxPost b) s (fun u =>
        Completed r d cOk 0 s u ∧ ∃ k', parkedWith u = some k' ∧ evOf k'.ctx i = Nat.min (evOf k.ctx i + n) 0xFFFFFFFF)) ∧
      (fld d 136 1 = 1 → n ≠ 0 → slotOfCid s p cid = none → parkedWith s = none → Completes (.ctxPost b) s (fun u =>
        Completed r d eRange 28 s u ∧ u.ctxs = s.ctxs))) ∧
    (CmdReady 0x15 r s d →
      (x.alive = true → ctxIdle x = false → s.rf (rPartSched p) 40 1 = 1 → Completes (.ctxSwitch b) s (fun u =>
        Completed r d cOk 0 s u ∧ (u.part p).switch = true ∧ (u.part p).target = some sl)) ∧
      (x.alive = false ∨ ctxIdle x = true ∨ s.rf (rPartSched p) 40 1 = 0 → Completes (.ctxSwitch b) s (fun u =>
        Completed r d eState 1 s u ∧ u.parts = s.parts)))) ∧
  (∀ (b : BitVec 4) (s : State),
    let p := b.toNat
    let y := s.part p
    let x := s.ctx p
    scheduling s p = true → y.slot < 8 →
    (sliceRuns s p = true → s.rf (rPartSched p) 40 1 = 1 → (nextSlot s p).isSome = true → Completes (.sliceExpiry b) s (fun u =>
      (u.part p).switch = true ∧ u.csr = s.csr ∧ u.ctxs = s.ctxs)) ∧
    (sliceRuns s p = false ∨ s.rf (rPartSched p) 40 1 = 0 ∨ nextSlot s p = none → Idle (.sliceExpiry b) s) ∧
    (y.running = false → ∀ sl q, nextSlot s p = some sl → (s.ctxAt p sl).saved = none → (s.ctxAt p sl).run = some q →
      (s.ctxAt p sl).prog = false → (s.ctxAt p sl).fill = none → (s.ctxAt p sl).load = none → (s.ctxAt p sl).again = none →
      s.rf (rStep p sl oStepStatus) 0 3 = sIdle →
      Completes (.contextSwitch b) s (fun u => isRunning u p sl = true ∧ (u.ctxAt p sl).prog = true ∧
        (u.ctxAt p sl).fill = some (fRun, q.image) ∧
        u.rf (rRunStatus p) 32 32 = (s.rf (rRunStatus p) 32 32 + 1) % 2 ^ 32)) ∧
    (y.running = true → restoring s p = false → switchDue s p = true → boundary s p = true → y.parking = none → s.hbmErr = [] →
      (s.cab (firstCab s p)).now.st = 2 → hbmDenied s (mPart s p) kWrite x.area (0x1000 + scanBytes s p false) = none →
      Completes (.contextSwitch b) s (fun u => (u.part p).switch = false ∧ (u.part p).target = none ∧
        (u.ctxAt p y.slot).saved = some false ∧ (∀ g, inPart s p (g / 256) = true → (u.bench g).iters = []) ∧
        ∀ t, y.target = some t → t ≠ y.slot → (s.ctxAt p t).alive = true → ctxIdle (s.ctxAt p t) = false →
          (s.ctxAt p t).saved ≠ some false → (u.part p).slot = t ∧ (u.part p).running = true)) ∧
    (y.running = true → restoring s p = false → boundary s p = true → y.parking = none → nextSlot s p = none →
      Completes (.contextSwitch b) s (fun u => (u.part p).switch = false ∧ (u.part p).target = none ∧ u.csr = s.csr ∧
        u.ctxs = s.ctxs ∧ u.cells = s.cells ∧ u.mem = s.mem)) ∧
    (forcedDue s p = true → (dowelIdle s p && flitsAcked s p) = false → Completes (.forcedScanOut b) s (fun u =>
      (u.part p).frozen = true ∧ u.csr = s.csr ∧ u.ctxs = s.ctxs ∧ u.cells = s.cells ∧ u.mem = s.mem)) ∧
    (forcedDue s p = true → dowelIdle s p = true → flitsAcked s p = true →
      y.parking = none → s.hbmErr = [] → (s.cab (firstCab s p)).now.st = 2 →
      hbmDenied s (mPart s p) kWrite x.area (0x1000 + scanBytes s p true) = none →
      Completes (.forcedScanOut b) s (fun u => (u.reg (rPartCause p)).getLsbD pcForced = true ∧ (u.part p).switch = false ∧
        (u.ctxAt p y.slot).saved = some true ∧ (∀ n, n < 16 → x.ports.getLsbD n = true → (u.link n).frozen = true) ∧
        ∀ g, inPart s p (g / 256) = true → (u.bench g).iters = [] ∧ (u.bench g).store = [])) ∧
    (y.parking = none → s.rf (rBlockEvict p) 0 32 ≠ 0 →
      (∀ sl, sl < 8 → ctxState s p sl = 0 ∨ ctxState s p sl = 1 ∨ ctxState s p sl = 4) →
      ∀ v k, victim s p = some v → isRunning s p v = false →
        y.parked.find? (fun k => !k.held && parkedRunnable s p k && k.ctx.ports &&& portsTaken s p v == 0) = some k →
        (s.ctxAt p v).cid ≠ k.ctx.cid →
        Completes (.eviction b) s (fun u => (u.ctxAt p v).cid = k.ctx.cid ∧ (u.reg (rPartCause p)).getLsbD pcEvict = true ∧
          (∀ j ∈ (u.part p).parked, j.ctx.cid ≠ k.ctx.cid) ∧
          ∃ j ∈ (u.part p).parked, j.ctx.cid = (s.ctxAt p v).cid ∧ j.held = false)))

/-- TEST_LOAD, TEST_RUN, TEST_DROP, RETIRE and CHECK_EXECUTION (R478–R485, R494, R495, R497–R500, R561). The model's choice: verdicts
over the package's signatures come with the command (log 7), what a faulty stage gets wrong comes with CHECK_EXECUTION (log 28),
TEST_RUN goes on as it is commanded again (log 63), and DETAIL of the codes other than E_RANGE (log 70). -/
def Obligations.FieldTestsRetirementAndChecks : Prop :=
  (∀ (b : BitVec 8) (s : State) (d : Cmd), unitGated s 57 = false →
    let r := b.toNat
    let p := ringPart s r
    let a := fld d 128 64
    let n := fld d 192 32
    let pkg := bytesIn s a n
    (CmdReady 0x18 r s d → hbmDenied s (ringDomain s r) kRead a n = none → a % 4096 = 0 → s.hbmErr = [] → MemOk s →
      pkgOf s (pkId pkg) = none → packageBad pkg n = false → s.integ.pkgs.length < 16 → packageVersionBad pkg = false →
      (∀ base, testPlace s (pkSize pkg) = some base →
        (∀ v : SigVerdict, testKeys s = some v.keys → v.rsa = true → v.slh = true → (∀ i, i < pkPatterns pkg → patternBreach s p pkg i = none) →
          Completes (.testLoad b v) s (fun u => Completed r d cOk 0 s u ∧ Stored s u base (pkg.take (pkSize pkg)) ∧
            u.integ.pkgs = s.integ.pkgs ++ [{ id := BitVec.ofNat 16 (pkId pkg), base := base, size := pkSize pkg }])) ∧
        (∀ v : SigVerdict, testKeys s ≠ some v.keys ∨ v.rsa = false ∨ v.slh = false → Completes (.testLoad b v) s (fun u =>
          Completed r d eSignature 16 s u ∧ u.integ = s.integ ∧ u.mem = s.mem))) ∧
      (testPlace s (pkSize pkg) = none → ∀ v, Completes (.testLoad b v) s (fun u => Completed r d eCapacity 24 s u ∧
        u.integ = s.integ ∧ u.mem = s.mem))) ∧
    (CmdReady 0x19 r s d →
      let busy : Prop := s.rf (rPartSched p) 40 1 = 0 ∧ (s.part p).running = true
      (busy → (s.part p).test = 0 → Completes (.testRun b) s (Completed r d eBusy 0 s)) ∧
      (¬ busy → pkgOf s (tdPkg d) = none → Completes (.testRun b) s (Completed r d eRange 16 s))) ∧
    (∀ k, CmdReady 0x19 r s d → pkgOf s (tdPkg d) = some k → (s.part p).test = 0 → (s.part p).slot < 8 → s.hbmErr = [] →
      ((s.part p).running = false ∨ (s.part p).halted = true ∧ s.rf (rPartSched p) 40 1 = 1) →
      (tdAll d = true ∨ tdPattern d < pkPatterns (bytesIn s k.base k.size)) →
      Completes (.testRun b) s (fun u =>
        let first := if tdAll d then 0 else tdPattern d
        (u.ring r).cur = some d ∧ (u.ring r).started = true ∧ (u.part p).test = 2 ∧ (u.part p).testPat = first ∧
        (u.part p).testBad = 0 ∧ (u.ctx p).jig = k.base + ptImg (bytesIn s k.base k.size) first ∧
        u.reg (rTestResult p) = BitVec.ofNat 64 k.id.toNat)) ∧
    (∀ k, (s.ring r).cur = some d → (s.ring r).started = true → (s.ring r).ending = none → (s.ring r).held.length < 16 →
      ringOn s r = true → dOp d = 0x19 → p < 16 → s.hbmErr = [] →
      pkgOf s (tdPkg d) = some k → (s.part p).test = 2 → (s.part p).testKeep = false → patternDone s p = true →
      let pb := bytesIn s k.base k.size
      let i := (s.part p).testPat
      (tdAll d = false ∨ pkPatterns pb ≤ i + 1) → Completes (.testRun b) s (fun u =>
        Completed r d cOk 0 s u ∧ (u.part p).test = 0 ∧ u.rf (rTestResult p) 0 16 = k.id.toNat ∧
        u.rf (rTestResult p) 16 7 = (s.rf (rTestResult p) 16 7 + 1) % 128 ∧
        (s.cells = [] → u.rf (rTestResult p) 32 16 = (s.part p).testBad % 2 ^ 16) ∧
        (s.drErr = [] → MemOk s → ∀ g j, partOfCell s g = some p → (s.bench g).prog ≠ [] →
          differs ((List.range (ptRows pb i)).map (fun q => rowIn s g (ptRow pb i + q))) (pb.drop (ptExp pb i)) = some j →
          (u.reg (rCellFault (g / 256) (g % 256 / 64))).getLsbD (g % 64) = true ∧
          (u.reg rIntegCause).getLsbD icTestFail = true))) ∧
    (CmdReady 0x1A r s d →
      ((∀ q c, q < 256 → ringOn s q = true → (s.ring q).cur = some c → ¬ (dOp c = 0x19 ∧ tdPkg c = tdPkg d)) →
        ((pkgOf s (tdPkg d)).isSome = true → Completes (.testDrop b) s (fun u => Completed r d cOk 0 s u ∧
          pkgOf u (tdPkg d) = none)) ∧
        (pkgOf s (tdPkg d) = none → Completes (.testDrop b) s (fun u => Completed r d eRange 16 s u ∧ u.integ = s.integ))) ∧
      (∀ q c, q < 256 → ringOn s q = true → (s.ring q).cur = some c → dOp c = 0x19 → tdPkg c = tdPkg d →
        Completes (.testDrop b) s (fun u => Completed r d eState 16 s u ∧ u.integ = s.integ))) ∧
    (CmdReady 0x1B r s d →
      let c := fld d 128 12
      let g := c * 256 + fld d 140 8
      (inPart s p c = false → Completes (.retire b) s (fun u => Completed r d ePartition 16 s u ∧ u.integ = s.integ)) ∧
      (inPart s p c = true → fld d 148 1 = 0 →
        (cellGone s g = false → cellSpare s g = true → Completes (.retire b) s (fun u => Completed r d cOk 0 s u ∧
          u.integ.pendCell = s.integ.pendCell ++ [g])) ∧
        (cellGone s g = false → cellSpare s g = false → cabSpare s c = false → Completes (.retire b) s (fun u =>
          Completed r d eCapacity 16 s u ∧ u.integ = s.integ))) ∧
      (inPart s p c = true → fld d 148 1 = 1 → c ∉ s.integ.pendCab → c ∉ s.integ.deadCab → cabSpare s c = true →
        Completes (.retire b) s (fun u => Completed r d cOk 0 s u ∧ u.integ.pendCab = s.integ.pendCab ++ [c])))) ∧
  (∀ (g : CellId) (slot : Bool) (s : State) (c : Capture) (p : Nat) (wrong err : List Byte),
    let n := g.toNat
    let own := resultBytes c
    let found := spoil c err
    let referee := spoil c wrong
    capAt (s.bench n) slot = some c → partOfCell s n = some p → cellRuns s n = true → integOn s = true →
    (err = [] ∨ found = own → Completes (.checkExecution g slot err wrong) s (fun u => capAt (u.bench n) slot = none ∧
      u.reg (rIntegCount p 0) = s.reg (rIntegCount p 0) + 1 ∧ u.integ = s.integ ∧ u.parts = s.parts ∧ u.mem = s.mem ∧
      ∀ x, x ≠ rIntegCount p 0 → u.reg x = s.reg x)) ∧
    (found ≠ own → testing s p = false → (s.part p).slot < 8 → Completes (.checkExecution g slot err wrong) s (fun u =>
      let named := fun (h : Nat) => (u.reg (rCellFault (h / 256) (h % 256 / 64))).getLsbD (h % 64) = true
      let counted := fun (h : Nat) => sget 0 u.integ.faults (physKey s h) = sget 0 s.integ.faults (physKey s h) + 1
      capAt (u.bench n) slot = none ∧ (u.reg rIntegCause).getLsbD icCheck = true ∧
      u.reg (rIntegCount p 1) = s.reg (rIntegCount p 1) + 1 ∧
      (referee = own → named (partnerOf n) ∧ counted (partnerOf n)) ∧
      (referee ≠ own → named n ∧ counted n ∧ (referee ≠ found → counted (partnerOf n))) ∧
      ((s.part p).window = false → (u.part p).window = true ∧ (u.part p).halted = (s.part p).halted) ∧
      ((s.part p).window = true → (u.part p).halted = true))))
end

