-- ==== Sys2Proof/Laws/State.lean ====
section
/-! SUPPORT. The fields of the state after each named update (one lemma per field per update), and what an entry of a
collection reads as after another has been replaced. -/

namespace Sys2Proof.Machine

/-! ### Collections by number -/

@[simp] theorem sget_sset_same {α : Type} (d v : α) (i : Nat) : ∀ m : Sparse α, sget d (sset m i v) i = v
  | [] => by simp [sset, sget]
  | (k, w) :: m => by
    unfold sset
    split
    · simp [sget]
    · split
      · simp [sget]
      · rename_i h1 h2
        simp only [sget, h1, h2, if_false]
        exact sget_sset_same d v i m

@[simp] theorem sget_sset_other {α : Type} (d v : α) {i j : Nat} (h : j ≠ i) :
    ∀ m : Sparse α, sget d (sset m i v) j = sget d m j
  | [] => by simp [sset, sget, h]
  | (k, w) :: m => by
    unfold sset
    split
    · rename_i h1
      simp only [sget]
      by_cases hj : j < i
      · have : j < k := by omega
        simp [hj, this]
      · simp [hj, h]
    · split
      · rename_i h1 h2
        subst h2
        simp only [sget]
        by_cases hj : j < i
        · simp [hj]
        · simp only [hj, h, if_false]
      · rename_i h1 h2
        simp only [sget]
        by_cases hj : j < k
        · simp [hj]
        · by_cases hk : j = k
          · simp [hk]
          · simp only [hj, hk, if_false]
            exact sget_sset_other d v h m

/-! ### Fields after updates -/

@[simp] theorem State.setReg_csr (s : State) (a : Nat) (v : Word) : (s.setReg a v).csr = sset s.csr a v := rfl
@[simp] theorem State.setReg_mem (s : State) (a : Nat) (v : Word) : (s.setReg a v).mem = s.mem := rfl
@[simp] theorem State.setReg_hbmErr (s : State) (a : Nat) (v : Word) : (s.setReg a v).hbmErr = s.hbmErr := rfl
@[simp] theorem State.setReg_drErr (s : State) (a : Nat) (v : Word) : (s.setReg a v).drErr = s.drErr := rfl
@[simp] theorem State.setReg_cells (s : State) (a : Nat) (v : Word) : (s.setReg a v).cells = s.cells := rfl
@[simp] theorem State.setReg_fields (s : State) (a : Nat) (v : Word) : (s.setReg a v).fields = s.fields := rfl
@[simp] theorem State.setReg_dowel (s : State) (a : Nat) (v : Word) : (s.setReg a v).dowel = s.dowel := rfl
@[simp] theorem State.setReg_cabs (s : State) (a : Nat) (v : Word) : (s.setReg a v).cabs = s.cabs := rfl
@[simp] theorem State.setReg_ctxs (s : State) (a : Nat) (v : Word) : (s.setReg a v).ctxs = s.ctxs := rfl
@[simp] theorem State.setReg_parts (s : State) (a : Nat) (v : Word) : (s.setReg a v).parts = s.parts := rfl
@[simp] theorem State.setReg_edges (s : State) (a : Nat) (v : Word) : (s.setReg a v).edges = s.edges := rfl
@[simp] theorem State.setReg_gathers (s : State) (a : Nat) (v : Word) : (s.setReg a v).gathers = s.gathers := rfl
@[simp] theorem State.setReg_plinths (s : State) (a : Nat) (v : Word) : (s.setReg a v).plinths = s.plinths := rfl
@[simp] theorem State.setReg_links (s : State) (a : Nat) (v : Word) : (s.setReg a v).links = s.links := rfl
@[simp] theorem State.setReg_eths (s : State) (a : Nat) (v : Word) : (s.setReg a v).eths = s.eths := rfl
@[simp] theorem State.setReg_rdma (s : State) (a : Nat) (v : Word) : (s.setReg a v).rdma = s.rdma := rfl
@[simp] theorem State.setReg_rings (s : State) (a : Nat) (v : Word) : (s.setReg a v).rings = s.rings := rfl
@[simp] theorem State.setReg_integ (s : State) (a : Nat) (v : Word) : (s.setReg a v).integ = s.integ := rfl
@[simp] theorem State.setReg_clk (s : State) (a : Nat) (v : Word) : (s.setReg a v).clk = s.clk := rfl
@[simp] theorem State.setReg_sec (s : State) (a : Nat) (v : Word) : (s.setReg a v).sec = s.sec := rfl
@[simp] theorem State.setReg_cqHead (s : State) (a : Nat) (v : Word) : (s.setReg a v).cqHead = s.cqHead := rfl
@[simp] theorem State.setReg_sent (s : State) (a : Nat) (v : Word) : (s.setReg a v).sent = s.sent := rfl
@[simp] theorem State.setReg_fresh (s : State) (a : Nat) (v : Word) : (s.setReg a v).fresh = s.fresh := rfl
@[simp] theorem State.setReg_pending (s : State) (a : Nat) (v : Word) : (s.setReg a v).pending = s.pending := rfl

@[simp] theorem State.setRf_csr (s : State) (a lo len v : Nat) : (s.setRf a lo len v).csr = sset s.csr a (setFld (s.reg a) lo len v) := rfl
@[simp] theorem State.setRf_mem (s : State) (a lo len v : Nat) : (s.setRf a lo len v).mem = s.mem := rfl
@[simp] theorem State.setRf_hbmErr (s : State) (a lo len v : Nat) : (s.setRf a lo len v).hbmErr = s.hbmErr := rfl
@[simp] theorem State.setRf_drErr (s : State) (a lo len v : Nat) : (s.setRf a lo len v).drErr = s.drErr := rfl
@[simp] theorem State.setRf_cells (s : State) (a lo len v : Nat) : (s.setRf a lo len v).cells = s.cells := rfl
@[simp] theorem State.setRf_fields (s : State) (a lo len v : Nat) : (s.setRf a lo len v).fields = s.fields := rfl
@[simp] theorem State.setRf_dowel (s : State) (a lo len v : Nat) : (s.setRf a lo len v).dowel = s.dowel := rfl
@[simp] theorem State.setRf_cabs (s : State) (a lo len v : Nat) : (s.setRf a lo len v).cabs = s.cabs := rfl
@[simp] theorem State.setRf_ctxs (s : State) (a lo len v : Nat) : (s.setRf a lo len v).ctxs = s.ctxs := rfl
@[simp] theorem State.setRf_parts (s : State) (a lo len v : Nat) : (s.setRf a lo len v).parts = s.parts := rfl
@[simp] theorem State.setRf_edges (s : State) (a lo len v : Nat) : (s.setRf a lo len v).edges = s.edges := rfl
@[simp] theorem State.setRf_gathers (s : State) (a lo len v : Nat) : (s.setRf a lo len v).gathers = s.gathers := rfl
@[simp] theorem State.setRf_plinths (s : State) (a lo len v : Nat) : (s.setRf a lo len v).plinths = s.plinths := rfl
@[simp] theorem State.setRf_links (s : State) (a lo len v : Nat) : (s.setRf a lo len v).links = s.links := rfl
@[simp] theorem State.setRf_eths (s : State) (a lo len v : Nat) : (s.setRf a lo len v).eths = s.eths := rfl
@[simp] theorem State.setRf_rdma (s : State) (a lo len v : Nat) : (s.setRf a lo len v).rdma = s.rdma := rfl
@[simp] theorem State.setRf_rings (s : State) (a lo len v : Nat) : (s.setRf a lo len v).rings = s.rings := rfl
@[simp] theorem State.setRf_integ (s : State) (a lo len v : Nat) : (s.setRf a lo len v).integ = s.integ := rfl
@[simp] theorem State.setRf_clk (s : State) (a lo len v : Nat) : (s.setRf a lo len v).clk = s.clk := rfl
@[simp] theorem State.setRf_sec (s : State) (a lo len v : Nat) : (s.setRf a lo len v).sec = s.sec := rfl
@[simp] theorem State.setRf_cqHead (s : State) (a lo len v : Nat) : (s.setRf a lo len v).cqHead = s.cqHead := rfl
@[simp] theorem State.setRf_sent (s : State) (a lo len v : Nat) : (s.setRf a lo len v).sent = s.sent := rfl
@[simp] theorem State.setRf_fresh (s : State) (a lo len v : Nat) : (s.setRf a lo len v).fresh = s.fresh := rfl
@[simp] theorem State.setRf_pending (s : State) (a lo len v : Nat) : (s.setRf a lo len v).pending = s.pending := rfl

@[simp] theorem State.orReg_csr (s : State) (a v : Nat) : (s.orReg a v).csr = sset s.csr a (s.reg a ||| BitVec.ofNat 64 v) := rfl
@[simp] theorem State.orReg_mem (s : State) (a v : Nat) : (s.orReg a v).mem = s.mem := rfl
@[simp] theorem State.orReg_hbmErr (s : State) (a v : Nat) : (s.orReg a v).hbmErr = s.hbmErr := rfl
@[simp] theorem State.orReg_drErr (s : State) (a v : Nat) : (s.orReg a v).drErr = s.drErr := rfl
@[simp] theorem State.orReg_cells (s : State) (a v : Nat) : (s.orReg a v).cells = s.cells := rfl
@[simp] theorem State.orReg_fields (s : State) (a v : Nat) : (s.orReg a v).fields = s.fields := rfl
@[simp] theorem State.orReg_dowel (s : State) (a v : Nat) : (s.orReg a v).dowel = s.dowel := rfl
@[simp] theorem State.orReg_cabs (s : State) (a v : Nat) : (s.orReg a v).cabs = s.cabs := rfl
@[simp] theorem State.orReg_ctxs (s : State) (a v : Nat) : (s.orReg a v).ctxs = s.ctxs := rfl
@[simp] theorem State.orReg_parts (s : State) (a v : Nat) : (s.orReg a v).parts = s.parts := rfl
@[simp] theorem State.orReg_edges (s : State) (a v : Nat) : (s.orReg a v).edges = s.edges := rfl
@[simp] theorem State.orReg_gathers (s : State) (a v : Nat) : (s.orReg a v).gathers = s.gathers := rfl
@[simp] theorem State.orReg_plinths (s : State) (a v : Nat) : (s.orReg a v).plinths = s.plinths := rfl
@[simp] theorem State.orReg_links (s : State) (a v : Nat) : (s.orReg a v).links = s.links := rfl
@[simp] theorem State.orReg_eths (s : State) (a v : Nat) : (s.orReg a v).eths = s.eths := rfl
@[simp] theorem State.orReg_rdma (s : State) (a v : Nat) : (s.orReg a v).rdma = s.rdma := rfl
@[simp] theorem State.orReg_rings (s : State) (a v : Nat) : (s.orReg a v).rings = s.rings := rfl
@[simp] theorem State.orReg_integ (s : State) (a v : Nat) : (s.orReg a v).integ = s.integ := rfl
@[simp] theorem State.orReg_clk (s : State) (a v : Nat) : (s.orReg a v).clk = s.clk := rfl
@[simp] theorem State.orReg_sec (s : State) (a v : Nat) : (s.orReg a v).sec = s.sec := rfl
@[simp] theorem State.orReg_cqHead (s : State) (a v : Nat) : (s.orReg a v).cqHead = s.cqHead := rfl
@[simp] theorem State.orReg_sent (s : State) (a v : Nat) : (s.orReg a v).sent = s.sent := rfl
@[simp] theorem State.orReg_fresh (s : State) (a v : Nat) : (s.orReg a v).fresh = s.fresh := rfl
@[simp] theorem State.orReg_pending (s : State) (a v : Nat) : (s.orReg a v).pending = s.pending := rfl

@[simp] theorem State.count_csr (s : State) (a n : Nat) : (s.count a n).csr = sset s.csr a (s.reg a + BitVec.ofNat 64 n) := rfl
@[simp] theorem State.count_mem (s : State) (a n : Nat) : (s.count a n).mem = s.mem := rfl
@[simp] theorem State.count_hbmErr (s : State) (a n : Nat) : (s.count a n).hbmErr = s.hbmErr := rfl
@[simp] theorem State.count_drErr (s : State) (a n : Nat) : (s.count a n).drErr = s.drErr := rfl
@[simp] theorem State.count_cells (s : State) (a n : Nat) : (s.count a n).cells = s.cells := rfl
@[simp] theorem State.count_fields (s : State) (a n : Nat) : (s.count a n).fields = s.fields := rfl
@[simp] theorem State.count_dowel (s : State) (a n : Nat) : (s.count a n).dowel = s.dowel := rfl
@[simp] theorem State.count_cabs (s : State) (a n : Nat) : (s.count a n).cabs = s.cabs := rfl
@[simp] theorem State.count_ctxs (s : State) (a n : Nat) : (s.count a n).ctxs = s.ctxs := rfl
@[simp] theorem State.count_parts (s : State) (a n : Nat) : (s.count a n).parts = s.parts := rfl
@[simp] theorem State.count_edges (s : State) (a n : Nat) : (s.count a n).edges = s.edges := rfl
@[simp] theorem State.count_gathers (s : State) (a n : Nat) : (s.count a n).gathers = s.gathers := rfl
@[simp] theorem State.count_plinths (s : State) (a n : Nat) : (s.count a n).plinths = s.plinths := rfl
@[simp] theorem State.count_links (s : State) (a n : Nat) : (s.count a n).links = s.links := rfl
@[simp] theorem State.count_eths (s : State) (a n : Nat) : (s.count a n).eths = s.eths := rfl
@[simp] theorem State.count_rdma (s : State) (a n : Nat) : (s.count a n).rdma = s.rdma := rfl
@[simp] theorem State.count_rings (s : State) (a n : Nat) : (s.count a n).rings = s.rings := rfl
@[simp] theorem State.count_integ (s : State) (a n : Nat) : (s.count a n).integ = s.integ := rfl
@[simp] theorem State.count_clk (s : State) (a n : Nat) : (s.count a n).clk = s.clk := rfl
@[simp] theorem State.count_sec (s : State) (a n : Nat) : (s.count a n).sec = s.sec := rfl
@[simp] theorem State.count_cqHead (s : State) (a n : Nat) : (s.count a n).cqHead = s.cqHead := rfl
@[simp] theorem State.count_sent (s : State) (a n : Nat) : (s.count a n).sent = s.sent := rfl
@[simp] theorem State.count_fresh (s : State) (a n : Nat) : (s.count a n).fresh = s.fresh := rfl
@[simp] theorem State.count_pending (s : State) (a n : Nat) : (s.count a n).pending = s.pending := rfl

@[simp] theorem State.setCell_csr (s : State) (g : Nat) (c : Cell) : (s.setCell g c).csr = s.csr := rfl
@[simp] theorem State.setCell_mem (s : State) (g : Nat) (c : Cell) : (s.setCell g c).mem = s.mem := rfl
@[simp] theorem State.setCell_hbmErr (s : State) (g : Nat) (c : Cell) : (s.setCell g c).hbmErr = s.hbmErr := rfl
@[simp] theorem State.setCell_drErr (s : State) (g : Nat) (c : Cell) : (s.setCell g c).drErr = s.drErr := rfl
@[simp] theorem State.setCell_cells (s : State) (g : Nat) (c : Cell) : (s.setCell g c).cells = sset s.cells g c := rfl
@[simp] theorem State.setCell_fields (s : State) (g : Nat) (c : Cell) : (s.setCell g c).fields = s.fields := rfl
@[simp] theorem State.setCell_dowel (s : State) (g : Nat) (c : Cell) : (s.setCell g c).dowel = s.dowel := rfl
@[simp] theorem State.setCell_cabs (s : State) (g : Nat) (c : Cell) : (s.setCell g c).cabs = s.cabs := rfl
@[simp] theorem State.setCell_ctxs (s : State) (g : Nat) (c : Cell) : (s.setCell g c).ctxs = s.ctxs := rfl
@[simp] theorem State.setCell_parts (s : State) (g : Nat) (c : Cell) : (s.setCell g c).parts = s.parts := rfl
@[simp] theorem State.setCell_edges (s : State) (g : Nat) (c : Cell) : (s.setCell g c).edges = s.edges := rfl
@[simp] theorem State.setCell_gathers (s : State) (g : Nat) (c : Cell) : (s.setCell g c).gathers = s.gathers := rfl
@[simp] theorem State.setCell_plinths (s : State) (g : Nat) (c : Cell) : (s.setCell g c).plinths = s.plinths := rfl
@[simp] theorem State.setCell_links (s : State) (g : Nat) (c : Cell) : (s.setCell g c).links = s.links := rfl
@[simp] theorem State.setCell_eths (s : State) (g : Nat) (c : Cell) : (s.setCell g c).eths = s.eths := rfl
@[simp] theorem State.setCell_rdma (s : State) (g : Nat) (c : Cell) : (s.setCell g c).rdma = s.rdma := rfl
@[simp] theorem State.setCell_rings (s : State) (g : Nat) (c : Cell) : (s.setCell g c).rings = s.rings := rfl
@[simp] theorem State.setCell_integ (s : State) (g : Nat) (c : Cell) : (s.setCell g c).integ = s.integ := rfl
@[simp] theorem State.setCell_clk (s : State) (g : Nat) (c : Cell) : (s.setCell g c).clk = s.clk := rfl
@[simp] theorem State.setCell_sec (s : State) (g : Nat) (c : Cell) : (s.setCell g c).sec = s.sec := rfl
@[simp] theorem State.setCell_cqHead (s : State) (g : Nat) (c : Cell) : (s.setCell g c).cqHead = s.cqHead := rfl
@[simp] theorem State.setCell_sent (s : State) (g : Nat) (c : Cell) : (s.setCell g c).sent = s.sent := rfl
@[simp] theorem State.setCell_fresh (s : State) (g : Nat) (c : Cell) : (s.setCell g c).fresh = s.fresh := rfl
@[simp] theorem State.setCell_pending (s : State) (g : Nat) (c : Cell) : (s.setCell g c).pending = s.pending := rfl

@[simp] theorem State.setBench_csr (s : State) (g : Nat) (b : Bench) : (s.setBench g b).csr = s.csr := rfl
@[simp] theorem State.setBench_mem (s : State) (g : Nat) (b : Bench) : (s.setBench g b).mem = s.mem := rfl
@[simp] theorem State.setBench_hbmErr (s : State) (g : Nat) (b : Bench) : (s.setBench g b).hbmErr = s.hbmErr := rfl
@[simp] theorem State.setBench_drErr (s : State) (g : Nat) (b : Bench) : (s.setBench g b).drErr = s.drErr := rfl
@[simp] theorem State.setBench_cells (s : State) (g : Nat) (b : Bench) : (s.setBench g b).cells = sset s.cells g { s.cell g with bench := b } := rfl
@[simp] theorem State.setBench_fields (s : State) (g : Nat) (b : Bench) : (s.setBench g b).fields = s.fields := rfl
@[simp] theorem State.setBench_dowel (s : State) (g : Nat) (b : Bench) : (s.setBench g b).dowel = s.dowel := rfl
@[simp] theorem State.setBench_cabs (s : State) (g : Nat) (b : Bench) : (s.setBench g b).cabs = s.cabs := rfl
@[simp] theorem State.setBench_ctxs (s : State) (g : Nat) (b : Bench) : (s.setBench g b).ctxs = s.ctxs := rfl
@[simp] theorem State.setBench_parts (s : State) (g : Nat) (b : Bench) : (s.setBench g b).parts = s.parts := rfl
@[simp] theorem State.setBench_edges (s : State) (g : Nat) (b : Bench) : (s.setBench g b).edges = s.edges := rfl
@[simp] theorem State.setBench_gathers (s : State) (g : Nat) (b : Bench) : (s.setBench g b).gathers = s.gathers := rfl
@[simp] theorem State.setBench_plinths (s : State) (g : Nat) (b : Bench) : (s.setBench g b).plinths = s.plinths := rfl
@[simp] theorem State.setBench_links (s : State) (g : Nat) (b : Bench) : (s.setBench g b).links = s.links := rfl
@[simp] theorem State.setBench_eths (s : State) (g : Nat) (b : Bench) : (s.setBench g b).eths = s.eths := rfl
@[simp] theorem State.setBench_rdma (s : State) (g : Nat) (b : Bench) : (s.setBench g b).rdma = s.rdma := rfl
@[simp] theorem State.setBench_rings (s : State) (g : Nat) (b : Bench) : (s.setBench g b).rings = s.rings := rfl
@[simp] theorem State.setBench_integ (s : State) (g : Nat) (b : Bench) : (s.setBench g b).integ = s.integ := rfl
@[simp] theorem State.setBench_clk (s : State) (g : Nat) (b : Bench) : (s.setBench g b).clk = s.clk := rfl
@[simp] theorem State.setBench_sec (s : State) (g : Nat) (b : Bench) : (s.setBench g b).sec = s.sec := rfl
@[simp] theorem State.setBench_cqHead (s : State) (g : Nat) (b : Bench) : (s.setBench g b).cqHead = s.cqHead := rfl
@[simp] theorem State.setBench_sent (s : State) (g : Nat) (b : Bench) : (s.setBench g b).sent = s.sent := rfl
@[simp] theorem State.setBench_fresh (s : State) (g : Nat) (b : Bench) : (s.setBench g b).fresh = s.fresh := rfl
@[simp] theorem State.setBench_pending (s : State) (g : Nat) (b : Bench) : (s.setBench g b).pending = s.pending := rfl

@[simp] theorem State.setDr_csr (s : State) (g : Nat) (d : Drawer) : (s.setDr g d).csr = s.csr := rfl
@[simp] theorem State.setDr_mem (s : State) (g : Nat) (d : Drawer) : (s.setDr g d).mem = s.mem := rfl
@[simp] theorem State.setDr_hbmErr (s : State) (g : Nat) (d : Drawer) : (s.setDr g d).hbmErr = s.hbmErr := rfl
@[simp] theorem State.setDr_drErr (s : State) (g : Nat) (d : Drawer) : (s.setDr g d).drErr = s.drErr := rfl
@[simp] theorem State.setDr_cells (s : State) (g : Nat) (d : Drawer) : (s.setDr g d).cells = sset s.cells g { s.cell g with dr := d } := rfl
@[simp] theorem State.setDr_fields (s : State) (g : Nat) (d : Drawer) : (s.setDr g d).fields = s.fields := rfl
@[simp] theorem State.setDr_dowel (s : State) (g : Nat) (d : Drawer) : (s.setDr g d).dowel = s.dowel := rfl
@[simp] theorem State.setDr_cabs (s : State) (g : Nat) (d : Drawer) : (s.setDr g d).cabs = s.cabs := rfl
@[simp] theorem State.setDr_ctxs (s : State) (g : Nat) (d : Drawer) : (s.setDr g d).ctxs = s.ctxs := rfl
@[simp] theorem State.setDr_parts (s : State) (g : Nat) (d : Drawer) : (s.setDr g d).parts = s.parts := rfl
@[simp] theorem State.setDr_edges (s : State) (g : Nat) (d : Drawer) : (s.setDr g d).edges = s.edges := rfl
@[simp] theorem State.setDr_gathers (s : State) (g : Nat) (d : Drawer) : (s.setDr g d).gathers = s.gathers := rfl
@[simp] theorem State.setDr_plinths (s : State) (g : Nat) (d : Drawer) : (s.setDr g d).plinths = s.plinths := rfl
@[simp] theorem State.setDr_links (s : State) (g : Nat) (d : Drawer) : (s.setDr g d).links = s.links := rfl
@[simp] theorem State.setDr_eths (s : State) (g : Nat) (d : Drawer) : (s.setDr g d).eths = s.eths := rfl
@[simp] theorem State.setDr_rdma (s : State) (g : Nat) (d : Drawer) : (s.setDr g d).rdma = s.rdma := rfl
@[simp] theorem State.setDr_rings (s : State) (g : Nat) (d : Drawer) : (s.setDr g d).rings = s.rings := rfl
@[simp] theorem State.setDr_integ (s : State) (g : Nat) (d : Drawer) : (s.setDr g d).integ = s.integ := rfl
@[simp] theorem State.setDr_clk (s : State) (g : Nat) (d : Drawer) : (s.setDr g d).clk = s.clk := rfl
@[simp] theorem State.setDr_sec (s : State) (g : Nat) (d : Drawer) : (s.setDr g d).sec = s.sec := rfl
@[simp] theorem State.setDr_cqHead (s : State) (g : Nat) (d : Drawer) : (s.setDr g d).cqHead = s.cqHead := rfl
@[simp] theorem State.setDr_sent (s : State) (g : Nat) (d : Drawer) : (s.setDr g d).sent = s.sent := rfl
@[simp] theorem State.setDr_fresh (s : State) (g : Nat) (d : Drawer) : (s.setDr g d).fresh = s.fresh := rfl
@[simp] theorem State.setDr_pending (s : State) (g : Nat) (d : Drawer) : (s.setDr g d).pending = s.pending := rfl

@[simp] theorem State.setSw_csr (s : State) (g : Nat) (w : Switch) : (s.setSw g w).csr = s.csr := rfl
@[simp] theorem State.setSw_mem (s : State) (g : Nat) (w : Switch) : (s.setSw g w).mem = s.mem := rfl
@[simp] theorem State.setSw_hbmErr (s : State) (g : Nat) (w : Switch) : (s.setSw g w).hbmErr = s.hbmErr := rfl
@[simp] theorem State.setSw_drErr (s : State) (g : Nat) (w : Switch) : (s.setSw g w).drErr = s.drErr := rfl
@[simp] theorem State.setSw_cells (s : State) (g : Nat) (w : Switch) : (s.setSw g w).cells = sset s.cells g { s.cell g with sw := w } := rfl
@[simp] theorem State.setSw_fields (s : State) (g : Nat) (w : Switch) : (s.setSw g w).fields = s.fields := rfl
@[simp] theorem State.setSw_dowel (s : State) (g : Nat) (w : Switch) : (s.setSw g w).dowel = s.dowel := rfl
@[simp] theorem State.setSw_cabs (s : State) (g : Nat) (w : Switch) : (s.setSw g w).cabs = s.cabs := rfl
@[simp] theorem State.setSw_ctxs (s : State) (g : Nat) (w : Switch) : (s.setSw g w).ctxs = s.ctxs := rfl
@[simp] theorem State.setSw_parts (s : State) (g : Nat) (w : Switch) : (s.setSw g w).parts = s.parts := rfl
@[simp] theorem State.setSw_edges (s : State) (g : Nat) (w : Switch) : (s.setSw g w).edges = s.edges := rfl
@[simp] theorem State.setSw_gathers (s : State) (g : Nat) (w : Switch) : (s.setSw g w).gathers = s.gathers := rfl
@[simp] theorem State.setSw_plinths (s : State) (g : Nat) (w : Switch) : (s.setSw g w).plinths = s.plinths := rfl
@[simp] theorem State.setSw_links (s : State) (g : Nat) (w : Switch) : (s.setSw g w).links = s.links := rfl
@[simp] theorem State.setSw_eths (s : State) (g : Nat) (w : Switch) : (s.setSw g w).eths = s.eths := rfl
@[simp] theorem State.setSw_rdma (s : State) (g : Nat) (w : Switch) : (s.setSw g w).rdma = s.rdma := rfl
@[simp] theorem State.setSw_rings (s : State) (g : Nat) (w : Switch) : (s.setSw g w).rings = s.rings := rfl
@[simp] theorem State.setSw_integ (s : State) (g : Nat) (w : Switch) : (s.setSw g w).integ = s.integ := rfl
@[simp] theorem State.setSw_clk (s : State) (g : Nat) (w : Switch) : (s.setSw g w).clk = s.clk := rfl
@[simp] theorem State.setSw_sec (s : State) (g : Nat) (w : Switch) : (s.setSw g w).sec = s.sec := rfl
@[simp] theorem State.setSw_cqHead (s : State) (g : Nat) (w : Switch) : (s.setSw g w).cqHead = s.cqHead := rfl
@[simp] theorem State.setSw_sent (s : State) (g : Nat) (w : Switch) : (s.setSw g w).sent = s.sent := rfl
@[simp] theorem State.setSw_fresh (s : State) (g : Nat) (w : Switch) : (s.setSw g w).fresh = s.fresh := rfl
@[simp] theorem State.setSw_pending (s : State) (g : Nat) (w : Switch) : (s.setSw g w).pending = s.pending := rfl

@[simp] theorem State.setCab_csr (s : State) (c : Nat) (x : Cab) : (s.setCab c x).csr = s.csr := rfl
@[simp] theorem State.setCab_mem (s : State) (c : Nat) (x : Cab) : (s.setCab c x).mem = s.mem := rfl
@[simp] theorem State.setCab_hbmErr (s : State) (c : Nat) (x : Cab) : (s.setCab c x).hbmErr = s.hbmErr := rfl
@[simp] theorem State.setCab_drErr (s : State) (c : Nat) (x : Cab) : (s.setCab c x).drErr = s.drErr := rfl
@[simp] theorem State.setCab_cells (s : State) (c : Nat) (x : Cab) : (s.setCab c x).cells = s.cells := rfl
@[simp] theorem State.setCab_fields (s : State) (c : Nat) (x : Cab) : (s.setCab c x).fields = s.fields := rfl
@[simp] theorem State.setCab_dowel (s : State) (c : Nat) (x : Cab) : (s.setCab c x).dowel = s.dowel := rfl
@[simp] theorem State.setCab_cabs (s : State) (c : Nat) (x : Cab) : (s.setCab c x).cabs = sset s.cabs c x := rfl
@[simp] theorem State.setCab_ctxs (s : State) (c : Nat) (x : Cab) : (s.setCab c x).ctxs = s.ctxs := rfl
@[simp] theorem State.setCab_parts (s : State) (c : Nat) (x : Cab) : (s.setCab c x).parts = s.parts := rfl
@[simp] theorem State.setCab_edges (s : State) (c : Nat) (x : Cab) : (s.setCab c x).edges = s.edges := rfl
@[simp] theorem State.setCab_gathers (s : State) (c : Nat) (x : Cab) : (s.setCab c x).gathers = s.gathers := rfl
@[simp] theorem State.setCab_plinths (s : State) (c : Nat) (x : Cab) : (s.setCab c x).plinths = s.plinths := rfl
@[simp] theorem State.setCab_links (s : State) (c : Nat) (x : Cab) : (s.setCab c x).links = s.links := rfl
@[simp] theorem State.setCab_eths (s : State) (c : Nat) (x : Cab) : (s.setCab c x).eths = s.eths := rfl
@[simp] theorem State.setCab_rdma (s : State) (c : Nat) (x : Cab) : (s.setCab c x).rdma = s.rdma := rfl
@[simp] theorem State.setCab_rings (s : State) (c : Nat) (x : Cab) : (s.setCab c x).rings = s.rings := rfl
@[simp] theorem State.setCab_integ (s : State) (c : Nat) (x : Cab) : (s.setCab c x).integ = s.integ := rfl
@[simp] theorem State.setCab_clk (s : State) (c : Nat) (x : Cab) : (s.setCab c x).clk = s.clk := rfl
@[simp] theorem State.setCab_sec (s : State) (c : Nat) (x : Cab) : (s.setCab c x).sec = s.sec := rfl
@[simp] theorem State.setCab_cqHead (s : State) (c : Nat) (x : Cab) : (s.setCab c x).cqHead = s.cqHead := rfl
@[simp] theorem State.setCab_sent (s : State) (c : Nat) (x : Cab) : (s.setCab c x).sent = s.sent := rfl
@[simp] theorem State.setCab_fresh (s : State) (c : Nat) (x : Cab) : (s.setCab c x).fresh = s.fresh := rfl
@[simp] theorem State.setCab_pending (s : State) (c : Nat) (x : Cab) : (s.setCab c x).pending = s.pending := rfl

@[simp] theorem State.setPart_csr (s : State) (p : Nat) (x : Part) : (s.setPart p x).csr = s.csr := rfl
@[simp] theorem State.setPart_mem (s : State) (p : Nat) (x : Part) : (s.setPart p x).mem = s.mem := rfl
@[simp] theorem State.setPart_hbmErr (s : State) (p : Nat) (x : Part) : (s.setPart p x).hbmErr = s.hbmErr := rfl
@[simp] theorem State.setPart_drErr (s : State) (p : Nat) (x : Part) : (s.setPart p x).drErr = s.drErr := rfl
@[simp] theorem State.setPart_cells (s : State) (p : Nat) (x : Part) : (s.setPart p x).cells = s.cells := rfl
@[simp] theorem State.setPart_fields (s : State) (p : Nat) (x : Part) : (s.setPart p x).fields = s.fields := rfl
@[simp] theorem State.setPart_dowel (s : State) (p : Nat) (x : Part) : (s.setPart p x).dowel = s.dowel := rfl
@[simp] theorem State.setPart_cabs (s : State) (p : Nat) (x : Part) : (s.setPart p x).cabs = s.cabs := rfl
@[simp] theorem State.setPart_ctxs (s : State) (p : Nat) (x : Part) : (s.setPart p x).ctxs = s.ctxs := rfl
@[simp] theorem State.setPart_parts (s : State) (p : Nat) (x : Part) : (s.setPart p x).parts = sset s.parts p x := rfl
@[simp] theorem State.setPart_edges (s : State) (p : Nat) (x : Part) : (s.setPart p x).edges = s.edges := rfl
@[simp] theorem State.setPart_gathers (s : State) (p : Nat) (x : Part) : (s.setPart p x).gathers = s.gathers := rfl
@[simp] theorem State.setPart_plinths (s : State) (p : Nat) (x : Part) : (s.setPart p x).plinths = s.plinths := rfl
@[simp] theorem State.setPart_links (s : State) (p : Nat) (x : Part) : (s.setPart p x).links = s.links := rfl
@[simp] theorem State.setPart_eths (s : State) (p : Nat) (x : Part) : (s.setPart p x).eths = s.eths := rfl
@[simp] theorem State.setPart_rdma (s : State) (p : Nat) (x : Part) : (s.setPart p x).rdma = s.rdma := rfl
@[simp] theorem State.setPart_rings (s : State) (p : Nat) (x : Part) : (s.setPart p x).rings = s.rings := rfl
@[simp] theorem State.setPart_integ (s : State) (p : Nat) (x : Part) : (s.setPart p x).integ = s.integ := rfl
@[simp] theorem State.setPart_clk (s : State) (p : Nat) (x : Part) : (s.setPart p x).clk = s.clk := rfl
@[simp] theorem State.setPart_sec (s : State) (p : Nat) (x : Part) : (s.setPart p x).sec = s.sec := rfl
@[simp] theorem State.setPart_cqHead (s : State) (p : Nat) (x : Part) : (s.setPart p x).cqHead = s.cqHead := rfl
@[simp] theorem State.setPart_sent (s : State) (p : Nat) (x : Part) : (s.setPart p x).sent = s.sent := rfl
@[simp] theorem State.setPart_fresh (s : State) (p : Nat) (x : Part) : (s.setPart p x).fresh = s.fresh := rfl
@[simp] theorem State.setPart_pending (s : State) (p : Nat) (x : Part) : (s.setPart p x).pending = s.pending := rfl

@[simp] theorem State.setCtxAt_csr (s : State) (p sl : Nat) (x : Ctx) : (s.setCtxAt p sl x).csr = s.csr := rfl
@[simp] theorem State.setCtxAt_mem (s : State) (p sl : Nat) (x : Ctx) : (s.setCtxAt p sl x).mem = s.mem := rfl
@[simp] theorem State.setCtxAt_hbmErr (s : State) (p sl : Nat) (x : Ctx) : (s.setCtxAt p sl x).hbmErr = s.hbmErr := rfl
@[simp] theorem State.setCtxAt_drErr (s : State) (p sl : Nat) (x : Ctx) : (s.setCtxAt p sl x).drErr = s.drErr := rfl
@[simp] theorem State.setCtxAt_cells (s : State) (p sl : Nat) (x : Ctx) : (s.setCtxAt p sl x).cells = s.cells := rfl
@[simp] theorem State.setCtxAt_fields (s : State) (p sl : Nat) (x : Ctx) : (s.setCtxAt p sl x).fields = s.fields := rfl
@[simp] theorem State.setCtxAt_dowel (s : State) (p sl : Nat) (x : Ctx) : (s.setCtxAt p sl x).dowel = s.dowel := rfl
@[simp] theorem State.setCtxAt_cabs (s : State) (p sl : Nat) (x : Ctx) : (s.setCtxAt p sl x).cabs = s.cabs := rfl
@[simp] theorem State.setCtxAt_ctxs (s : State) (p sl : Nat) (x : Ctx) : (s.setCtxAt p sl x).ctxs = sset s.ctxs (ctxKey p sl) x := rfl
@[simp] theorem State.setCtxAt_parts (s : State) (p sl : Nat) (x : Ctx) : (s.setCtxAt p sl x).parts = s.parts := rfl
@[simp] theorem State.setCtxAt_edges (s : State) (p sl : Nat) (x : Ctx) : (s.setCtxAt p sl x).edges = s.edges := rfl
@[simp] theorem State.setCtxAt_gathers (s : State) (p sl : Nat) (x : Ctx) : (s.setCtxAt p sl x).gathers = s.gathers := rfl
@[simp] theorem State.setCtxAt_plinths (s : State) (p sl : Nat) (x : Ctx) : (s.setCtxAt p sl x).plinths = s.plinths := rfl
@[simp] theorem State.setCtxAt_links (s : State) (p sl : Nat) (x : Ctx) : (s.setCtxAt p sl x).links = s.links := rfl
@[simp] theorem State.setCtxAt_eths (s : State) (p sl : Nat) (x : Ctx) : (s.setCtxAt p sl x).eths = s.eths := rfl
@[simp] theorem State.setCtxAt_rdma (s : State) (p sl : Nat) (x : Ctx) : (s.setCtxAt p sl x).rdma = s.rdma := rfl
@[simp] theorem State.setCtxAt_rings (s : State) (p sl : Nat) (x : Ctx) : (s.setCtxAt p sl x).rings = s.rings := rfl
@[simp] theorem State.setCtxAt_integ (s : State) (p sl : Nat) (x : Ctx) : (s.setCtxAt p sl x).integ = s.integ := rfl
@[simp] theorem State.setCtxAt_clk (s : State) (p sl : Nat) (x : Ctx) : (s.setCtxAt p sl x).clk = s.clk := rfl
@[simp] theorem State.setCtxAt_sec (s : State) (p sl : Nat) (x : Ctx) : (s.setCtxAt p sl x).sec = s.sec := rfl
@[simp] theorem State.setCtxAt_cqHead (s : State) (p sl : Nat) (x : Ctx) : (s.setCtxAt p sl x).cqHead = s.cqHead := rfl
@[simp] theorem State.setCtxAt_sent (s : State) (p sl : Nat) (x : Ctx) : (s.setCtxAt p sl x).sent = s.sent := rfl
@[simp] theorem State.setCtxAt_fresh (s : State) (p sl : Nat) (x : Ctx) : (s.setCtxAt p sl x).fresh = s.fresh := rfl
@[simp] theorem State.setCtxAt_pending (s : State) (p sl : Nat) (x : Ctx) : (s.setCtxAt p sl x).pending = s.pending := rfl

@[simp] theorem State.setCtx_csr (s : State) (p : Nat) (x : Ctx) : (s.setCtx p x).csr = s.csr := rfl
@[simp] theorem State.setCtx_mem (s : State) (p : Nat) (x : Ctx) : (s.setCtx p x).mem = s.mem := rfl
@[simp] theorem State.setCtx_hbmErr (s : State) (p : Nat) (x : Ctx) : (s.setCtx p x).hbmErr = s.hbmErr := rfl
@[simp] theorem State.setCtx_drErr (s : State) (p : Nat) (x : Ctx) : (s.setCtx p x).drErr = s.drErr := rfl
@[simp] theorem State.setCtx_cells (s : State) (p : Nat) (x : Ctx) : (s.setCtx p x).cells = s.cells := rfl
@[simp] theorem State.setCtx_fields (s : State) (p : Nat) (x : Ctx) : (s.setCtx p x).fields = s.fields := rfl
@[simp] theorem State.setCtx_dowel (s : State) (p : Nat) (x : Ctx) : (s.setCtx p x).dowel = s.dowel := rfl
@[simp] theorem State.setCtx_cabs (s : State) (p : Nat) (x : Ctx) : (s.setCtx p x).cabs = s.cabs := rfl
@[simp] theorem State.setCtx_ctxs (s : State) (p : Nat) (x : Ctx) : (s.setCtx p x).ctxs = sset s.ctxs (ctxKey p (s.part p).slot) x := rfl
@[simp] theorem State.setCtx_parts (s : State) (p : Nat) (x : Ctx) : (s.setCtx p x).parts = s.parts := rfl
@[simp] theorem State.setCtx_edges (s : State) (p : Nat) (x : Ctx) : (s.setCtx p x).edges = s.edges := rfl
@[simp] theorem State.setCtx_gathers (s : State) (p : Nat) (x : Ctx) : (s.setCtx p x).gathers = s.gathers := rfl
@[simp] theorem State.setCtx_plinths (s : State) (p : Nat) (x : Ctx) : (s.setCtx p x).plinths = s.plinths := rfl
@[simp] theorem State.setCtx_links (s : State) (p : Nat) (x : Ctx) : (s.setCtx p x).links = s.links := rfl
@[simp] theorem State.setCtx_eths (s : State) (p : Nat) (x : Ctx) : (s.setCtx p x).eths = s.eths := rfl
@[simp] theorem State.setCtx_rdma (s : State) (p : Nat) (x : Ctx) : (s.setCtx p x).rdma = s.rdma := rfl
@[simp] theorem State.setCtx_rings (s : State) (p : Nat) (x : Ctx) : (s.setCtx p x).rings = s.rings := rfl
@[simp] theorem State.setCtx_integ (s : State) (p : Nat) (x : Ctx) : (s.setCtx p x).integ = s.integ := rfl
@[simp] theorem State.setCtx_clk (s : State) (p : Nat) (x : Ctx) : (s.setCtx p x).clk = s.clk := rfl
@[simp] theorem State.setCtx_sec (s : State) (p : Nat) (x : Ctx) : (s.setCtx p x).sec = s.sec := rfl
@[simp] theorem State.setCtx_cqHead (s : State) (p : Nat) (x : Ctx) : (s.setCtx p x).cqHead = s.cqHead := rfl
@[simp] theorem State.setCtx_sent (s : State) (p : Nat) (x : Ctx) : (s.setCtx p x).sent = s.sent := rfl
@[simp] theorem State.setCtx_fresh (s : State) (p : Nat) (x : Ctx) : (s.setCtx p x).fresh = s.fresh := rfl
@[simp] theorem State.setCtx_pending (s : State) (p : Nat) (x : Ctx) : (s.setCtx p x).pending = s.pending := rfl

@[simp] theorem State.setEdge_csr (s : State) (e : Nat) (x : Eng) : (s.setEdge e x).csr = s.csr := rfl
@[simp] theorem State.setEdge_mem (s : State) (e : Nat) (x : Eng) : (s.setEdge e x).mem = s.mem := rfl
@[simp] theorem State.setEdge_hbmErr (s : State) (e : Nat) (x : Eng) : (s.setEdge e x).hbmErr = s.hbmErr := rfl
@[simp] theorem State.setEdge_drErr (s : State) (e : Nat) (x : Eng) : (s.setEdge e x).drErr = s.drErr := rfl
@[simp] theorem State.setEdge_cells (s : State) (e : Nat) (x : Eng) : (s.setEdge e x).cells = s.cells := rfl
@[simp] theorem State.setEdge_fields (s : State) (e : Nat) (x : Eng) : (s.setEdge e x).fields = s.fields := rfl
@[simp] theorem State.setEdge_dowel (s : State) (e : Nat) (x : Eng) : (s.setEdge e x).dowel = s.dowel := rfl
@[simp] theorem State.setEdge_cabs (s : State) (e : Nat) (x : Eng) : (s.setEdge e x).cabs = s.cabs := rfl
@[simp] theorem State.setEdge_ctxs (s : State) (e : Nat) (x : Eng) : (s.setEdge e x).ctxs = s.ctxs := rfl
@[simp] theorem State.setEdge_parts (s : State) (e : Nat) (x : Eng) : (s.setEdge e x).parts = s.parts := rfl
@[simp] theorem State.setEdge_edges (s : State) (e : Nat) (x : Eng) : (s.setEdge e x).edges = sset s.edges e x := rfl
@[simp] theorem State.setEdge_gathers (s : State) (e : Nat) (x : Eng) : (s.setEdge e x).gathers = s.gathers := rfl
@[simp] theorem State.setEdge_plinths (s : State) (e : Nat) (x : Eng) : (s.setEdge e x).plinths = s.plinths := rfl
@[simp] theorem State.setEdge_links (s : State) (e : Nat) (x : Eng) : (s.setEdge e x).links = s.links := rfl
@[simp] theorem State.setEdge_eths (s : State) (e : Nat) (x : Eng) : (s.setEdge e x).eths = s.eths := rfl
@[simp] theorem State.setEdge_rdma (s : State) (e : Nat) (x : Eng) : (s.setEdge e x).rdma = s.rdma := rfl
@[simp] theorem State.setEdge_rings (s : State) (e : Nat) (x : Eng) : (s.setEdge e x).rings = s.rings := rfl
@[simp] theorem State.setEdge_integ (s : State) (e : Nat) (x : Eng) : (s.setEdge e x).integ = s.integ := rfl
@[simp] theorem State.setEdge_clk (s : State) (e : Nat) (x : Eng) : (s.setEdge e x).clk = s.clk := rfl
@[simp] theorem State.setEdge_sec (s : State) (e : Nat) (x : Eng) : (s.setEdge e x).sec = s.sec := rfl
@[simp] theorem State.setEdge_cqHead (s : State) (e : Nat) (x : Eng) : (s.setEdge e x).cqHead = s.cqHead := rfl
@[simp] theorem State.setEdge_sent (s : State) (e : Nat) (x : Eng) : (s.setEdge e x).sent = s.sent := rfl
@[simp] theorem State.setEdge_fresh (s : State) (e : Nat) (x : Eng) : (s.setEdge e x).fresh = s.fresh := rfl
@[simp] theorem State.setEdge_pending (s : State) (e : Nat) (x : Eng) : (s.setEdge e x).pending = s.pending := rfl

@[simp] theorem State.setGather_csr (s : State) (e : Nat) (x : Eng) : (s.setGather e x).csr = s.csr := rfl
@[simp] theorem State.setGather_mem (s : State) (e : Nat) (x : Eng) : (s.setGather e x).mem = s.mem := rfl
@[simp] theorem State.setGather_hbmErr (s : State) (e : Nat) (x : Eng) : (s.setGather e x).hbmErr = s.hbmErr := rfl
@[simp] theorem State.setGather_drErr (s : State) (e : Nat) (x : Eng) : (s.setGather e x).drErr = s.drErr := rfl
@[simp] theorem State.setGather_cells (s : State) (e : Nat) (x : Eng) : (s.setGather e x).cells = s.cells := rfl
@[simp] theorem State.setGather_fields (s : State) (e : Nat) (x : Eng) : (s.setGather e x).fields = s.fields := rfl
@[simp] theorem State.setGather_dowel (s : State) (e : Nat) (x : Eng) : (s.setGather e x).dowel = s.dowel := rfl
@[simp] theorem State.setGather_cabs (s : State) (e : Nat) (x : Eng) : (s.setGather e x).cabs = s.cabs := rfl
@[simp] theorem State.setGather_ctxs (s : State) (e : Nat) (x : Eng) : (s.setGather e x).ctxs = s.ctxs := rfl
@[simp] theorem State.setGather_parts (s : State) (e : Nat) (x : Eng) : (s.setGather e x).parts = s.parts := rfl
@[simp] theorem State.setGather_edges (s : State) (e : Nat) (x : Eng) : (s.setGather e x).edges = s.edges := rfl
@[simp] theorem State.setGather_gathers (s : State) (e : Nat) (x : Eng) : (s.setGather e x).gathers = sset s.gathers e x := rfl
@[simp] theorem State.setGather_plinths (s : State) (e : Nat) (x : Eng) : (s.setGather e x).plinths = s.plinths := rfl
@[simp] theorem State.setGather_links (s : State) (e : Nat) (x : Eng) : (s.setGather e x).links = s.links := rfl
@[simp] theorem State.setGather_eths (s : State) (e : Nat) (x : Eng) : (s.setGather e x).eths = s.eths := rfl
@[simp] theorem State.setGather_rdma (s : State) (e : Nat) (x : Eng) : (s.setGather e x).rdma = s.rdma := rfl
@[simp] theorem State.setGather_rings (s : State) (e : Nat) (x : Eng) : (s.setGather e x).rings = s.rings := rfl
@[simp] theorem State.setGather_integ (s : State) (e : Nat) (x : Eng) : (s.setGather e x).integ = s.integ := rfl
@[simp] theorem State.setGather_clk (s : State) (e : Nat) (x : Eng) : (s.setGather e x).clk = s.clk := rfl
@[simp] theorem State.setGather_sec (s : State) (e : Nat) (x : Eng) : (s.setGather e x).sec = s.sec := rfl
@[simp] theorem State.setGather_cqHead (s : State) (e : Nat) (x : Eng) : (s.setGather e x).cqHead = s.cqHead := rfl
@[simp] theorem State.setGather_sent (s : State) (e : Nat) (x : Eng) : (s.setGather e x).sent = s.sent := rfl
@[simp] theorem State.setGather_fresh (s : State) (e : Nat) (x : Eng) : (s.setGather e x).fresh = s.fresh := rfl
@[simp] theorem State.setGather_pending (s : State) (e : Nat) (x : Eng) : (s.setGather e x).pending = s.pending := rfl

@[simp] theorem State.setPlinth_csr (s : State) (k : Nat) (x : Plinth) : (s.setPlinth k x).csr = s.csr := rfl
@[simp] theorem State.setPlinth_mem (s : State) (k : Nat) (x : Plinth) : (s.setPlinth k x).mem = s.mem := rfl
@[simp] theorem State.setPlinth_hbmErr (s : State) (k : Nat) (x : Plinth) : (s.setPlinth k x).hbmErr = s.hbmErr := rfl
@[simp] theorem State.setPlinth_drErr (s : State) (k : Nat) (x : Plinth) : (s.setPlinth k x).drErr = s.drErr := rfl
@[simp] theorem State.setPlinth_cells (s : State) (k : Nat) (x : Plinth) : (s.setPlinth k x).cells = s.cells := rfl
@[simp] theorem State.setPlinth_fields (s : State) (k : Nat) (x : Plinth) : (s.setPlinth k x).fields = s.fields := rfl
@[simp] theorem State.setPlinth_dowel (s : State) (k : Nat) (x : Plinth) : (s.setPlinth k x).dowel = s.dowel := rfl
@[simp] theorem State.setPlinth_cabs (s : State) (k : Nat) (x : Plinth) : (s.setPlinth k x).cabs = s.cabs := rfl
@[simp] theorem State.setPlinth_ctxs (s : State) (k : Nat) (x : Plinth) : (s.setPlinth k x).ctxs = s.ctxs := rfl
@[simp] theorem State.setPlinth_parts (s : State) (k : Nat) (x : Plinth) : (s.setPlinth k x).parts = s.parts := rfl
@[simp] theorem State.setPlinth_edges (s : State) (k : Nat) (x : Plinth) : (s.setPlinth k x).edges = s.edges := rfl
@[simp] theorem State.setPlinth_gathers (s : State) (k : Nat) (x : Plinth) : (s.setPlinth k x).gathers = s.gathers := rfl
@[simp] theorem State.setPlinth_plinths (s : State) (k : Nat) (x : Plinth) : (s.setPlinth k x).plinths = sset s.plinths k x := rfl
@[simp] theorem State.setPlinth_links (s : State) (k : Nat) (x : Plinth) : (s.setPlinth k x).links = s.links := rfl
@[simp] theorem State.setPlinth_eths (s : State) (k : Nat) (x : Plinth) : (s.setPlinth k x).eths = s.eths := rfl
@[simp] theorem State.setPlinth_rdma (s : State) (k : Nat) (x : Plinth) : (s.setPlinth k x).rdma = s.rdma := rfl
@[simp] theorem State.setPlinth_rings (s : State) (k : Nat) (x : Plinth) : (s.setPlinth k x).rings = s.rings := rfl
@[simp] theorem State.setPlinth_integ (s : State) (k : Nat) (x : Plinth) : (s.setPlinth k x).integ = s.integ := rfl
@[simp] theorem State.setPlinth_clk (s : State) (k : Nat) (x : Plinth) : (s.setPlinth k x).clk = s.clk := rfl
@[simp] theorem State.setPlinth_sec (s : State) (k : Nat) (x : Plinth) : (s.setPlinth k x).sec = s.sec := rfl
@[simp] theorem State.setPlinth_cqHead (s : State) (k : Nat) (x : Plinth) : (s.setPlinth k x).cqHead = s.cqHead := rfl
@[simp] theorem State.setPlinth_sent (s : State) (k : Nat) (x : Plinth) : (s.setPlinth k x).sent = s.sent := rfl
@[simp] theorem State.setPlinth_fresh (s : State) (k : Nat) (x : Plinth) : (s.setPlinth k x).fresh = s.fresh := rfl
@[simp] theorem State.setPlinth_pending (s : State) (k : Nat) (x : Plinth) : (s.setPlinth k x).pending = s.pending := rfl

@[simp] theorem State.setLink_csr (s : State) (n : Nat) (x : Link) : (s.setLink n x).csr = s.csr := rfl
@[simp] theorem State.setLink_mem (s : State) (n : Nat) (x : Link) : (s.setLink n x).mem = s.mem := rfl
@[simp] theorem State.setLink_hbmErr (s : State) (n : Nat) (x : Link) : (s.setLink n x).hbmErr = s.hbmErr := rfl
@[simp] theorem State.setLink_drErr (s : State) (n : Nat) (x : Link) : (s.setLink n x).drErr = s.drErr := rfl
@[simp] theorem State.setLink_cells (s : State) (n : Nat) (x : Link) : (s.setLink n x).cells = s.cells := rfl
@[simp] theorem State.setLink_fields (s : State) (n : Nat) (x : Link) : (s.setLink n x).fields = s.fields := rfl
@[simp] theorem State.setLink_dowel (s : State) (n : Nat) (x : Link) : (s.setLink n x).dowel = s.dowel := rfl
@[simp] theorem State.setLink_cabs (s : State) (n : Nat) (x : Link) : (s.setLink n x).cabs = s.cabs := rfl
@[simp] theorem State.setLink_ctxs (s : State) (n : Nat) (x : Link) : (s.setLink n x).ctxs = s.ctxs := rfl
@[simp] theorem State.setLink_parts (s : State) (n : Nat) (x : Link) : (s.setLink n x).parts = s.parts := rfl
@[simp] theorem State.setLink_edges (s : State) (n : Nat) (x : Link) : (s.setLink n x).edges = s.edges := rfl
@[simp] theorem State.setLink_gathers (s : State) (n : Nat) (x : Link) : (s.setLink n x).gathers = s.gathers := rfl
@[simp] theorem State.setLink_plinths (s : State) (n : Nat) (x : Link) : (s.setLink n x).plinths = s.plinths := rfl
@[simp] theorem State.setLink_links (s : State) (n : Nat) (x : Link) : (s.setLink n x).links = sset s.links n x := rfl
@[simp] theorem State.setLink_eths (s : State) (n : Nat) (x : Link) : (s.setLink n x).eths = s.eths := rfl
@[simp] theorem State.setLink_rdma (s : State) (n : Nat) (x : Link) : (s.setLink n x).rdma = s.rdma := rfl
@[simp] theorem State.setLink_rings (s : State) (n : Nat) (x : Link) : (s.setLink n x).rings = s.rings := rfl
@[simp] theorem State.setLink_integ (s : State) (n : Nat) (x : Link) : (s.setLink n x).integ = s.integ := rfl
@[simp] theorem State.setLink_clk (s : State) (n : Nat) (x : Link) : (s.setLink n x).clk = s.clk := rfl
@[simp] theorem State.setLink_sec (s : State) (n : Nat) (x : Link) : (s.setLink n x).sec = s.sec := rfl
@[simp] theorem State.setLink_cqHead (s : State) (n : Nat) (x : Link) : (s.setLink n x).cqHead = s.cqHead := rfl
@[simp] theorem State.setLink_sent (s : State) (n : Nat) (x : Link) : (s.setLink n x).sent = s.sent := rfl
@[simp] theorem State.setLink_fresh (s : State) (n : Nat) (x : Link) : (s.setLink n x).fresh = s.fresh := rfl
@[simp] theorem State.setLink_pending (s : State) (n : Nat) (x : Link) : (s.setLink n x).pending = s.pending := rfl

@[simp] theorem State.setEth_csr (s : State) (n : Nat) (x : EthPort) : (s.setEth n x).csr = s.csr := rfl
@[simp] theorem State.setEth_mem (s : State) (n : Nat) (x : EthPort) : (s.setEth n x).mem = s.mem := rfl
@[simp] theorem State.setEth_hbmErr (s : State) (n : Nat) (x : EthPort) : (s.setEth n x).hbmErr = s.hbmErr := rfl
@[simp] theorem State.setEth_drErr (s : State) (n : Nat) (x : EthPort) : (s.setEth n x).drErr = s.drErr := rfl
@[simp] theorem State.setEth_cells (s : State) (n : Nat) (x : EthPort) : (s.setEth n x).cells = s.cells := rfl
@[simp] theorem State.setEth_fields (s : State) (n : Nat) (x : EthPort) : (s.setEth n x).fields = s.fields := rfl
@[simp] theorem State.setEth_dowel (s : State) (n : Nat) (x : EthPort) : (s.setEth n x).dowel = s.dowel := rfl
@[simp] theorem State.setEth_cabs (s : State) (n : Nat) (x : EthPort) : (s.setEth n x).cabs = s.cabs := rfl
@[simp] theorem State.setEth_ctxs (s : State) (n : Nat) (x : EthPort) : (s.setEth n x).ctxs = s.ctxs := rfl
@[simp] theorem State.setEth_parts (s : State) (n : Nat) (x : EthPort) : (s.setEth n x).parts = s.parts := rfl
@[simp] theorem State.setEth_edges (s : State) (n : Nat) (x : EthPort) : (s.setEth n x).edges = s.edges := rfl
@[simp] theorem State.setEth_gathers (s : State) (n : Nat) (x : EthPort) : (s.setEth n x).gathers = s.gathers := rfl
@[simp] theorem State.setEth_plinths (s : State) (n : Nat) (x : EthPort) : (s.setEth n x).plinths = s.plinths := rfl
@[simp] theorem State.setEth_links (s : State) (n : Nat) (x : EthPort) : (s.setEth n x).links = s.links := rfl
@[simp] theorem State.setEth_eths (s : State) (n : Nat) (x : EthPort) : (s.setEth n x).eths = sset s.eths n x := rfl
@[simp] theorem State.setEth_rdma (s : State) (n : Nat) (x : EthPort) : (s.setEth n x).rdma = s.rdma := rfl
@[simp] theorem State.setEth_rings (s : State) (n : Nat) (x : EthPort) : (s.setEth n x).rings = s.rings := rfl
@[simp] theorem State.setEth_integ (s : State) (n : Nat) (x : EthPort) : (s.setEth n x).integ = s.integ := rfl
@[simp] theorem State.setEth_clk (s : State) (n : Nat) (x : EthPort) : (s.setEth n x).clk = s.clk := rfl
@[simp] theorem State.setEth_sec (s : State) (n : Nat) (x : EthPort) : (s.setEth n x).sec = s.sec := rfl
@[simp] theorem State.setEth_cqHead (s : State) (n : Nat) (x : EthPort) : (s.setEth n x).cqHead = s.cqHead := rfl
@[simp] theorem State.setEth_sent (s : State) (n : Nat) (x : EthPort) : (s.setEth n x).sent = s.sent := rfl
@[simp] theorem State.setEth_fresh (s : State) (n : Nat) (x : EthPort) : (s.setEth n x).fresh = s.fresh := rfl
@[simp] theorem State.setEth_pending (s : State) (n : Nat) (x : EthPort) : (s.setEth n x).pending = s.pending := rfl

@[simp] theorem State.setRing_csr (s : State) (r : Nat) (x : Ring) : (s.setRing r x).csr = s.csr := rfl
@[simp] theorem State.setRing_mem (s : State) (r : Nat) (x : Ring) : (s.setRing r x).mem = s.mem := rfl
@[simp] theorem State.setRing_hbmErr (s : State) (r : Nat) (x : Ring) : (s.setRing r x).hbmErr = s.hbmErr := rfl
@[simp] theorem State.setRing_drErr (s : State) (r : Nat) (x : Ring) : (s.setRing r x).drErr = s.drErr := rfl
@[simp] theorem State.setRing_cells (s : State) (r : Nat) (x : Ring) : (s.setRing r x).cells = s.cells := rfl
@[simp] theorem State.setRing_fields (s : State) (r : Nat) (x : Ring) : (s.setRing r x).fields = s.fields := rfl
@[simp] theorem State.setRing_dowel (s : State) (r : Nat) (x : Ring) : (s.setRing r x).dowel = s.dowel := rfl
@[simp] theorem State.setRing_cabs (s : State) (r : Nat) (x : Ring) : (s.setRing r x).cabs = s.cabs := rfl
@[simp] theorem State.setRing_ctxs (s : State) (r : Nat) (x : Ring) : (s.setRing r x).ctxs = s.ctxs := rfl
@[simp] theorem State.setRing_parts (s : State) (r : Nat) (x : Ring) : (s.setRing r x).parts = s.parts := rfl
@[simp] theorem State.setRing_edges (s : State) (r : Nat) (x : Ring) : (s.setRing r x).edges = s.edges := rfl
@[simp] theorem State.setRing_gathers (s : State) (r : Nat) (x : Ring) : (s.setRing r x).gathers = s.gathers := rfl
@[simp] theorem State.setRing_plinths (s : State) (r : Nat) (x : Ring) : (s.setRing r x).plinths = s.plinths := rfl
@[simp] theorem State.setRing_links (s : State) (r : Nat) (x : Ring) : (s.setRing r x).links = s.links := rfl
@[simp] theorem State.setRing_eths (s : State) (r : Nat) (x : Ring) : (s.setRing r x).eths = s.eths := rfl
@[simp] theorem State.setRing_rdma (s : State) (r : Nat) (x : Ring) : (s.setRing r x).rdma = s.rdma := rfl
@[simp] theorem State.setRing_rings (s : State) (r : Nat) (x : Ring) : (s.setRing r x).rings = sset s.rings r x := rfl
@[simp] theorem State.setRing_integ (s : State) (r : Nat) (x : Ring) : (s.setRing r x).integ = s.integ := rfl
@[simp] theorem State.setRing_clk (s : State) (r : Nat) (x : Ring) : (s.setRing r x).clk = s.clk := rfl
@[simp] theorem State.setRing_sec (s : State) (r : Nat) (x : Ring) : (s.setRing r x).sec = s.sec := rfl
@[simp] theorem State.setRing_cqHead (s : State) (r : Nat) (x : Ring) : (s.setRing r x).cqHead = s.cqHead := rfl
@[simp] theorem State.setRing_sent (s : State) (r : Nat) (x : Ring) : (s.setRing r x).sent = s.sent := rfl
@[simp] theorem State.setRing_fresh (s : State) (r : Nat) (x : Ring) : (s.setRing r x).fresh = s.fresh := rfl
@[simp] theorem State.setRing_pending (s : State) (r : Nat) (x : Ring) : (s.setRing r x).pending = s.pending := rfl

@[simp] theorem State.emit_csr (s : State) (x : Sent) : (s.emit x).csr = s.csr := rfl
@[simp] theorem State.emit_mem (s : State) (x : Sent) : (s.emit x).mem = s.mem := rfl
@[simp] theorem State.emit_hbmErr (s : State) (x : Sent) : (s.emit x).hbmErr = s.hbmErr := rfl
@[simp] theorem State.emit_drErr (s : State) (x : Sent) : (s.emit x).drErr = s.drErr := rfl
@[simp] theorem State.emit_cells (s : State) (x : Sent) : (s.emit x).cells = s.cells := rfl
@[simp] theorem State.emit_fields (s : State) (x : Sent) : (s.emit x).fields = s.fields := rfl
@[simp] theorem State.emit_dowel (s : State) (x : Sent) : (s.emit x).dowel = s.dowel := rfl
@[simp] theorem State.emit_cabs (s : State) (x : Sent) : (s.emit x).cabs = s.cabs := rfl
@[simp] theorem State.emit_ctxs (s : State) (x : Sent) : (s.emit x).ctxs = s.ctxs := rfl
@[simp] theorem State.emit_parts (s : State) (x : Sent) : (s.emit x).parts = s.parts := rfl
@[simp] theorem State.emit_edges (s : State) (x : Sent) : (s.emit x).edges = s.edges := rfl
@[simp] theorem State.emit_gathers (s : State) (x : Sent) : (s.emit x).gathers = s.gathers := rfl
@[simp] theorem State.emit_plinths (s : State) (x : Sent) : (s.emit x).plinths = s.plinths := rfl
@[simp] theorem State.emit_links (s : State) (x : Sent) : (s.emit x).links = s.links := rfl
@[simp] theorem State.emit_eths (s : State) (x : Sent) : (s.emit x).eths = s.eths := rfl
@[simp] theorem State.emit_rdma (s : State) (x : Sent) : (s.emit x).rdma = s.rdma := rfl
@[simp] theorem State.emit_rings (s : State) (x : Sent) : (s.emit x).rings = s.rings := rfl
@[simp] theorem State.emit_integ (s : State) (x : Sent) : (s.emit x).integ = s.integ := rfl
@[simp] theorem State.emit_clk (s : State) (x : Sent) : (s.emit x).clk = s.clk := rfl
@[simp] theorem State.emit_sec (s : State) (x : Sent) : (s.emit x).sec = s.sec := rfl
@[simp] theorem State.emit_cqHead (s : State) (x : Sent) : (s.emit x).cqHead = s.cqHead := rfl
@[simp] theorem State.emit_sent (s : State) (x : Sent) : (s.emit x).sent = s.sent ++ [x] := rfl
@[simp] theorem State.emit_fresh (s : State) (x : Sent) : (s.emit x).fresh = s.fresh := rfl
@[simp] theorem State.emit_pending (s : State) (x : Sent) : (s.emit x).pending = s.pending := rfl

@[simp] theorem State.putBytes_csr (s : State) (a : Nat) (bs : List Byte) : (s.putBytes a bs).csr = s.csr := rfl
@[simp] theorem State.putBytes_mem (s : State) (a : Nat) (bs : List Byte) : (s.putBytes a bs).mem = s.mem.writeBytes a bs := rfl
@[simp] theorem State.putBytes_hbmErr (s : State) (a : Nat) (bs : List Byte) : (s.putBytes a bs).hbmErr = s.hbmErr := rfl
@[simp] theorem State.putBytes_drErr (s : State) (a : Nat) (bs : List Byte) : (s.putBytes a bs).drErr = s.drErr := rfl
@[simp] theorem State.putBytes_cells (s : State) (a : Nat) (bs : List Byte) : (s.putBytes a bs).cells = s.cells := rfl
@[simp] theorem State.putBytes_fields (s : State) (a : Nat) (bs : List Byte) : (s.putBytes a bs).fields = s.fields := rfl
@[simp] theorem State.putBytes_dowel (s : State) (a : Nat) (bs : List Byte) : (s.putBytes a bs).dowel = s.dowel := rfl
@[simp] theorem State.putBytes_cabs (s : State) (a : Nat) (bs : List Byte) : (s.putBytes a bs).cabs = s.cabs := rfl
@[simp] theorem State.putBytes_ctxs (s : State) (a : Nat) (bs : List Byte) : (s.putBytes a bs).ctxs = s.ctxs := rfl
@[simp] theorem State.putBytes_parts (s : State) (a : Nat) (bs : List Byte) : (s.putBytes a bs).parts = s.parts := rfl
@[simp] theorem State.putBytes_edges (s : State) (a : Nat) (bs : List Byte) : (s.putBytes a bs).edges = s.edges := rfl
@[simp] theorem State.putBytes_gathers (s : State) (a : Nat) (bs : List Byte) : (s.putBytes a bs).gathers = s.gathers := rfl
@[simp] theorem State.putBytes_plinths (s : State) (a : Nat) (bs : List Byte) : (s.putBytes a bs).plinths = s.plinths := rfl
@[simp] theorem State.putBytes_links (s : State) (a : Nat) (bs : List Byte) : (s.putBytes a bs).links = s.links := rfl
@[simp] theorem State.putBytes_eths (s : State) (a : Nat) (bs : List Byte) : (s.putBytes a bs).eths = s.eths := rfl
@[simp] theorem State.putBytes_rdma (s : State) (a : Nat) (bs : List Byte) : (s.putBytes a bs).rdma = s.rdma := rfl
@[simp] theorem State.putBytes_rings (s : State) (a : Nat) (bs : List Byte) : (s.putBytes a bs).rings = s.rings := rfl
@[simp] theorem State.putBytes_integ (s : State) (a : Nat) (bs : List Byte) : (s.putBytes a bs).integ = s.integ := rfl
@[simp] theorem State.putBytes_clk (s : State) (a : Nat) (bs : List Byte) : (s.putBytes a bs).clk = s.clk := rfl
@[simp] theorem State.putBytes_sec (s : State) (a : Nat) (bs : List Byte) : (s.putBytes a bs).sec = s.sec := rfl
@[simp] theorem State.putBytes_cqHead (s : State) (a : Nat) (bs : List Byte) : (s.putBytes a bs).cqHead = s.cqHead := rfl
@[simp] theorem State.putBytes_sent (s : State) (a : Nat) (bs : List Byte) : (s.putBytes a bs).sent = s.sent := rfl
@[simp] theorem State.putBytes_fresh (s : State) (a : Nat) (bs : List Byte) : (s.putBytes a bs).fresh = s.fresh := rfl
@[simp] theorem State.putBytes_pending (s : State) (a : Nat) (bs : List Byte) : (s.putBytes a bs).pending = s.pending := rfl

/-! ### Reading a part of the state after an update of it -/

@[simp] theorem State.setReg_reg (s : State) (a : Nat) (v : Word) : (s.setReg a v).reg a = v := sget_sset_same _ _ _ _
@[simp] theorem State.setReg_reg_other (s : State) (a : Nat) (v : Word) {j : Nat} (h : j ≠ a) : (s.setReg a v).reg j = s.reg j :=
  sget_sset_other _ _ h _
@[simp] theorem State.setCell_cell (s : State) (g : Nat) (c : Cell) : (s.setCell g c).cell g = c := sget_sset_same _ _ _ _
@[simp] theorem State.setCell_cell_other (s : State) (g : Nat) (c : Cell) {j : Nat} (h : j ≠ g) : (s.setCell g c).cell j = s.cell j :=
  sget_sset_other _ _ h _
@[simp] theorem State.setCab_cab (s : State) (c : Nat) (x : Cab) : (s.setCab c x).cab c = x := sget_sset_same _ _ _ _
@[simp] theorem State.setCab_cab_other (s : State) (c : Nat) (x : Cab) {j : Nat} (h : j ≠ c) : (s.setCab c x).cab j = s.cab j :=
  sget_sset_other _ _ h _
@[simp] theorem State.setPart_part (s : State) (p : Nat) (x : Part) : (s.setPart p x).part p = x := sget_sset_same _ _ _ _
@[simp] theorem State.setPart_part_other (s : State) (p : Nat) (x : Part) {j : Nat} (h : j ≠ p) : (s.setPart p x).part j = s.part j :=
  sget_sset_other _ _ h _
@[simp] theorem State.setEdge_edge (s : State) (e : Nat) (x : Eng) : (s.setEdge e x).edge e = x := sget_sset_same _ _ _ _
@[simp] theorem State.setEdge_edge_other (s : State) (e : Nat) (x : Eng) {j : Nat} (h : j ≠ e) : (s.setEdge e x).edge j = s.edge j :=
  sget_sset_other _ _ h _
@[simp] theorem State.setGather_gather (s : State) (e : Nat) (x : Eng) : (s.setGather e x).gather e = x := sget_sset_same _ _ _ _
@[simp] theorem State.setGather_gather_other (s : State) (e : Nat) (x : Eng) {j : Nat} (h : j ≠ e) : (s.setGather e x).gather j = s.gather j :=
  sget_sset_other _ _ h _
@[simp] theorem State.setPlinth_plinth (s : State) (k : Nat) (x : Plinth) : (s.setPlinth k x).plinth k = x := sget_sset_same _ _ _ _
@[simp] theorem State.setPlinth_plinth_other (s : State) (k : Nat) (x : Plinth) {j : Nat} (h : j ≠ k) : (s.setPlinth k x).plinth j = s.plinth j :=
  sget_sset_other _ _ h _
@[simp] theorem State.setLink_link (s : State) (n : Nat) (x : Link) : (s.setLink n x).link n = x := sget_sset_same _ _ _ _
@[simp] theorem State.setLink_link_other (s : State) (n : Nat) (x : Link) {j : Nat} (h : j ≠ n) : (s.setLink n x).link j = s.link j :=
  sget_sset_other _ _ h _
@[simp] theorem State.setEth_eth (s : State) (n : Nat) (x : EthPort) : (s.setEth n x).eth n = x := sget_sset_same _ _ _ _
@[simp] theorem State.setEth_eth_other (s : State) (n : Nat) (x : EthPort) {j : Nat} (h : j ≠ n) : (s.setEth n x).eth j = s.eth j :=
  sget_sset_other _ _ h _
@[simp] theorem State.setRing_ring (s : State) (r : Nat) (x : Ring) : (s.setRing r x).ring r = x := sget_sset_same _ _ _ _
@[simp] theorem State.setRing_ring_other (s : State) (r : Nat) (x : Ring) {j : Nat} (h : j ≠ r) : (s.setRing r x).ring j = s.ring j :=
  sget_sset_other _ _ h _

@[simp] theorem State.setCell_bench (s : State) (g : Nat) (c : Cell) : (s.setCell g c).bench g = c.bench := by simp [State.bench]
@[simp] theorem State.setCell_dr (s : State) (g : Nat) (c : Cell) : (s.setCell g c).dr g = c.dr := by simp [State.dr]
@[simp] theorem State.setCell_sw (s : State) (g : Nat) (c : Cell) : (s.setCell g c).sw g = c.sw := by simp [State.sw]
@[simp] theorem State.setBench_bench (s : State) (g : Nat) (b : Bench) : (s.setBench g b).bench g = b := by simp [State.setBench]
@[simp] theorem State.setDr_dr (s : State) (g : Nat) (d : Drawer) : (s.setDr g d).dr g = d := by simp [State.setDr]
@[simp] theorem State.setSw_sw (s : State) (g : Nat) (w : Switch) : (s.setSw g w).sw g = w := by simp [State.setSw]
@[simp] theorem State.setBench_dr (s : State) (g : Nat) (b : Bench) : (s.setBench g b).dr g = s.dr g := by
  simp [State.setBench, State.dr]
@[simp] theorem State.setDr_bench (s : State) (g : Nat) (d : Drawer) : (s.setDr g d).bench g = s.bench g := by
  simp [State.setDr, State.bench]
@[simp] theorem State.setCtxAt_ctxAt (s : State) (p sl : Nat) (x : Ctx) : (s.setCtxAt p sl x).ctxAt p sl = x :=
  sget_sset_same _ _ _ _
@[simp] theorem State.setCtx_ctx (s : State) (p : Nat) (x : Ctx) : (s.setCtx p x).ctx p = x := sget_sset_same _ _ _ _

/-- A register whose number no update names keeps its value. -/
theorem State.setRf_reg_other (s : State) (a lo len v : Nat) {b : Nat} (h : b ≠ a) : (s.setRf a lo len v).reg b = s.reg b :=
  sget_sset_other _ _ h _

theorem State.orReg_reg (s : State) (a v : Nat) : (s.orReg a v).reg a = s.reg a ||| BitVec.ofNat 64 v :=
  sget_sset_same _ _ _ _

theorem State.count_reg (s : State) (a n : Nat) : (s.count a n).reg a = s.reg a + BitVec.ofNat 64 n :=
  sget_sset_same _ _ _ _

end Sys2Proof.Machine
end

