-- ==== Sys2Proof/Laws/Ops.lean ====
section
/-! SUPPORT. What the shared operations can do: the parts of the state that each leaves alone, and what it is where its
conditions do not hold. -/

namespace Sys2Proof.Machine

/-- Only registers change. -/
structure RegFrame (s u : State) : Prop where
  mem : u.mem = s.mem
  hbmErr : u.hbmErr = s.hbmErr
  drErr : u.drErr = s.drErr
  cells : u.cells = s.cells
  fields : u.fields = s.fields
  dowel : u.dowel = s.dowel
  cabs : u.cabs = s.cabs
  ctxs : u.ctxs = s.ctxs
  parts : u.parts = s.parts
  edges : u.edges = s.edges
  gathers : u.gathers = s.gathers
  plinths : u.plinths = s.plinths
  links : u.links = s.links
  eths : u.eths = s.eths
  rdma : u.rdma = s.rdma
  rings : u.rings = s.rings
  integ : u.integ = s.integ
  clk : u.clk = s.clk
  sec : u.sec = s.sec
  cqHead : u.cqHead = s.cqHead
  sent : u.sent = s.sent
  fresh : u.fresh = s.fresh
  pending : u.pending = s.pending

theorem RegFrame.refl (s : State) : RegFrame s s := by constructor <;> rfl
theorem RegFrame.trans {s t u : State} (h : RegFrame s t) (g : RegFrame t u) : RegFrame s u :=
  ⟨g.mem.trans h.mem, g.hbmErr.trans h.hbmErr, g.drErr.trans h.drErr, g.cells.trans h.cells, g.fields.trans h.fields,
    g.dowel.trans h.dowel, g.cabs.trans h.cabs, g.ctxs.trans h.ctxs, g.parts.trans h.parts,
    g.edges.trans h.edges, g.gathers.trans h.gathers, g.plinths.trans h.plinths, g.links.trans h.links,
    g.eths.trans h.eths, g.rdma.trans h.rdma, g.rings.trans h.rings, g.integ.trans h.integ, g.clk.trans h.clk,
    g.sec.trans h.sec, g.cqHead.trans h.cqHead, g.sent.trans h.sent, g.fresh.trans h.fresh,
    g.pending.trans h.pending⟩

/-- Only what a step, its vote and its completions are made of changes: registers, contexts, partitions, rings, the flits of the
ports, sent frames. -/
structure StepFrame (s u : State) : Prop where
  mem : u.mem = s.mem
  hbmErr : u.hbmErr = s.hbmErr
  drErr : u.drErr = s.drErr
  cells : u.cells = s.cells
  fields : u.fields = s.fields
  dowel : u.dowel = s.dowel
  cabs : u.cabs = s.cabs
  edges : u.edges = s.edges
  gathers : u.gathers = s.gathers
  plinths : u.plinths = s.plinths
  eths : u.eths = s.eths
  rdma : u.rdma = s.rdma
  integ : u.integ = s.integ
  clk : u.clk = s.clk
  sec : u.sec = s.sec
  cqHead : u.cqHead = s.cqHead
  fresh : u.fresh = s.fresh
  pending : u.pending = s.pending

theorem StepFrame.refl (s : State) : StepFrame s s := by constructor <;> rfl
theorem StepFrame.trans {s t u : State} (h : StepFrame s t) (g : StepFrame t u) : StepFrame s u :=
  ⟨g.mem.trans h.mem, g.hbmErr.trans h.hbmErr, g.drErr.trans h.drErr, g.cells.trans h.cells, g.fields.trans h.fields,
    g.dowel.trans h.dowel, g.cabs.trans h.cabs, g.edges.trans h.edges, g.gathers.trans h.gathers,
    g.plinths.trans h.plinths, g.eths.trans h.eths, g.rdma.trans h.rdma, g.integ.trans h.integ,
    g.clk.trans h.clk, g.sec.trans h.sec, g.cqHead.trans h.cqHead, g.fresh.trans h.fresh,
    g.pending.trans h.pending⟩

/-- Only what a fault report writes changes: registers, the log in memory, the integrity unit, the count of free values. -/
structure ReportFrame (s u : State) : Prop where
  drErr : u.drErr = s.drErr
  cells : u.cells = s.cells
  fields : u.fields = s.fields
  dowel : u.dowel = s.dowel
  cabs : u.cabs = s.cabs
  ctxs : u.ctxs = s.ctxs
  parts : u.parts = s.parts
  edges : u.edges = s.edges
  gathers : u.gathers = s.gathers
  plinths : u.plinths = s.plinths
  links : u.links = s.links
  eths : u.eths = s.eths
  rdma : u.rdma = s.rdma
  rings : u.rings = s.rings
  clk : u.clk = s.clk
  sec : u.sec = s.sec
  cqHead : u.cqHead = s.cqHead
  sent : u.sent = s.sent
  pending : u.pending = s.pending

theorem ReportFrame.refl (s : State) : ReportFrame s s := by constructor <;> rfl
theorem ReportFrame.trans {s t u : State} (h : ReportFrame s t) (g : ReportFrame t u) : ReportFrame s u :=
  ⟨g.drErr.trans h.drErr, g.cells.trans h.cells, g.fields.trans h.fields, g.dowel.trans h.dowel,
    g.cabs.trans h.cabs, g.ctxs.trans h.ctxs, g.parts.trans h.parts, g.edges.trans h.edges,
    g.gathers.trans h.gathers, g.plinths.trans h.plinths, g.links.trans h.links, g.eths.trans h.eths, g.rdma.trans h.rdma,
    g.rings.trans h.rings, g.clk.trans h.clk, g.sec.trans h.sec, g.cqHead.trans h.cqHead,
    g.sent.trans h.sent, g.pending.trans h.pending⟩

/-- Only what a report or the end of a step changes. -/
structure FaultFrame (s u : State) : Prop where
  drErr : u.drErr = s.drErr
  cells : u.cells = s.cells
  fields : u.fields = s.fields
  dowel : u.dowel = s.dowel
  cabs : u.cabs = s.cabs
  edges : u.edges = s.edges
  gathers : u.gathers = s.gathers
  plinths : u.plinths = s.plinths
  eths : u.eths = s.eths
  rdma : u.rdma = s.rdma
  clk : u.clk = s.clk
  sec : u.sec = s.sec
  cqHead : u.cqHead = s.cqHead
  pending : u.pending = s.pending

theorem FaultFrame.refl (s : State) : FaultFrame s s := by constructor <;> rfl
theorem FaultFrame.trans {s t u : State} (h : FaultFrame s t) (g : FaultFrame t u) : FaultFrame s u :=
  ⟨g.drErr.trans h.drErr, g.cells.trans h.cells, g.fields.trans h.fields, g.dowel.trans h.dowel,
    g.cabs.trans h.cabs, g.edges.trans h.edges, g.gathers.trans h.gathers, g.plinths.trans h.plinths,
    g.eths.trans h.eths, g.rdma.trans h.rdma, g.clk.trans h.clk, g.sec.trans h.sec,
    g.cqHead.trans h.cqHead, g.pending.trans h.pending⟩

theorem RegFrame.toStepFrame {s u : State} (h : RegFrame s u) : StepFrame s u :=
  ⟨h.mem, h.hbmErr, h.drErr, h.cells, h.fields, h.dowel, h.cabs, h.edges, h.gathers, h.plinths, h.eths, h.rdma, h.integ, h.clk, h.sec, h.cqHead, h.fresh, h.pending⟩
theorem RegFrame.toReportFrame {s u : State} (h : RegFrame s u) : ReportFrame s u := ⟨h.drErr, h.cells, h.fields, h.dowel, h.cabs, h.ctxs, h.parts, h.edges, h.gathers, h.plinths, h.links, h.eths, h.rdma, h.rings, h.clk, h.sec, h.cqHead, h.sent, h.pending⟩
theorem StepFrame.toFaultFrame {s u : State} (h : StepFrame s u) : FaultFrame s u := ⟨h.drErr, h.cells, h.fields, h.dowel, h.cabs, h.edges, h.gathers, h.plinths, h.eths, h.rdma, h.clk, h.sec, h.cqHead, h.pending⟩
theorem ReportFrame.toFaultFrame {s u : State} (h : ReportFrame s u) : FaultFrame s u := ⟨h.drErr, h.cells, h.fields, h.dowel, h.cabs, h.edges, h.gathers, h.plinths, h.eths, h.rdma, h.clk, h.sec, h.cqHead, h.pending⟩

/-! ### Folds -/

/-- What every step of a fold keeps, the fold keeps. -/
theorem foldl_keeps {α : Type} {R : State → State → Prop} (hr : ∀ s, R s s) (ht : ∀ {s t u}, R s t → R t u → R s u)
    (f : State → α → State) (h : ∀ s a, R s (f s a)) : ∀ (l : List α) (s : State), R s (l.foldl f s)
  | [], s => hr s
  | a :: l, s => ht (h s a) (foldl_keeps hr ht f h l (f s a))

/-! ### Register updates -/

theorem RegFrame.setReg (s : State) (a : Nat) (v : Word) : RegFrame s (s.setReg a v) := by constructor <;> rfl
theorem RegFrame.setRf (s : State) (a lo len v : Nat) : RegFrame s (s.setRf a lo len v) := by constructor <;> rfl
theorem RegFrame.orReg (s : State) (a v : Nat) : RegFrame s (s.orReg a v) := by constructor <;> rfl
theorem RegFrame.count (s : State) (a n : Nat) : RegFrame s (s.count a n) := by constructor <;> rfl
theorem RegFrame.setStepRf (s : State) (p off lo len v : Nat) : RegFrame s (s.setStepRf p off lo len v) := by constructor <;> rfl
theorem RegFrame.ite {s t u : State} {c : Prop} [Decidable c] (h : RegFrame s t) (g : RegFrame s u) :
    RegFrame s (if c then t else u) := by split <;> assumption
theorem StepFrame.ite {s t u : State} {c : Prop} [Decidable c] (h : StepFrame s t) (g : StepFrame s u) :
    StepFrame s (if c then t else u) := by split <;> assumption
theorem FaultFrame.ite {s t u : State} {c : Prop} [Decidable c] (h : FaultFrame s t) (g : FaultFrame s u) :
    FaultFrame s (if c then t else u) := by split <;> assumption
theorem StepFrame.setCtx (s : State) (p : Nat) (x : Ctx) : StepFrame s (s.setCtx p x) := by constructor <;> rfl
theorem StepFrame.setPart (s : State) (p : Nat) (x : Part) : StepFrame s (s.setPart p x) := by constructor <;> rfl
theorem StepFrame.setRing (s : State) (r : Nat) (x : Ring) : StepFrame s (s.setRing r x) := by constructor <;> rfl
theorem StepFrame.emit (s : State) (x : Sent) : StepFrame s (s.emit x) := by constructor <;> rfl

/-! ### The end of a command (R432) -/

@[simp] theorem done_eq (s t : State) (h : s.sec.powered = true) : done s t = .next (attend s t) := by simp [done, h]

/-- While the module has no power a command changes nothing (R520). -/
theorem done_off (s t : State) (h : s.sec.powered = false) : done s t = .next s := by simp [done, h]

/-- The end of a command sends at most one frame, an attention frame, and counts it. -/
theorem attend_cases (s t : State) : attend s t = t ∨
    ∃ x, attend s t = { t with sec := { t.sec with frames := t.sec.frames + 1 }, sent := t.sent ++ [x] } := by
  unfold attend
  split
  · exact .inr ⟨_, rfl⟩
  · exact .inl rfl

@[simp] theorem attend_csr (s t : State) : (attend s t).csr = t.csr := by unfold attend; split <;> rfl
@[simp] theorem attend_mem (s t : State) : (attend s t).mem = t.mem := by unfold attend; split <;> rfl
@[simp] theorem attend_hbmErr (s t : State) : (attend s t).hbmErr = t.hbmErr := by unfold attend; split <;> rfl
@[simp] theorem attend_drErr (s t : State) : (attend s t).drErr = t.drErr := by unfold attend; split <;> rfl
@[simp] theorem attend_cells (s t : State) : (attend s t).cells = t.cells := by unfold attend; split <;> rfl
@[simp] theorem attend_dowel (s t : State) : (attend s t).dowel = t.dowel := by unfold attend; split <;> rfl
@[simp] theorem attend_cabs (s t : State) : (attend s t).cabs = t.cabs := by unfold attend; split <;> rfl
@[simp] theorem attend_ctxs (s t : State) : (attend s t).ctxs = t.ctxs := by unfold attend; split <;> rfl
@[simp] theorem attend_parts (s t : State) : (attend s t).parts = t.parts := by unfold attend; split <;> rfl
@[simp] theorem attend_edges (s t : State) : (attend s t).edges = t.edges := by unfold attend; split <;> rfl
@[simp] theorem attend_gathers (s t : State) : (attend s t).gathers = t.gathers := by unfold attend; split <;> rfl
@[simp] theorem attend_plinths (s t : State) : (attend s t).plinths = t.plinths := by unfold attend; split <;> rfl
@[simp] theorem attend_links (s t : State) : (attend s t).links = t.links := by unfold attend; split <;> rfl
@[simp] theorem attend_eths (s t : State) : (attend s t).eths = t.eths := by unfold attend; split <;> rfl
@[simp] theorem attend_rdma (s t : State) : (attend s t).rdma = t.rdma := by unfold attend; split <;> rfl
@[simp] theorem attend_rings (s t : State) : (attend s t).rings = t.rings := by unfold attend; split <;> rfl
@[simp] theorem attend_integ (s t : State) : (attend s t).integ = t.integ := by unfold attend; split <;> rfl
@[simp] theorem attend_clk (s t : State) : (attend s t).clk = t.clk := by unfold attend; split <;> rfl
@[simp] theorem attend_cqHead (s t : State) : (attend s t).cqHead = t.cqHead := by unfold attend; split <;> rfl
@[simp] theorem attend_fresh (s t : State) : (attend s t).fresh = t.fresh := by unfold attend; split <;> rfl
@[simp] theorem attend_pending (s t : State) : (attend s t).pending = t.pending := by unfold attend; split <;> rfl
@[simp] theorem attend_reg (s t : State) (a : Nat) : (attend s t).reg a = t.reg a := by simp [State.reg]

/-! ### Causes, completions and the vote (R52–R57, R67, R385, R425–R427, R466) -/

theorem stepCause_frame (p bit : Nat) (s : State) : StepFrame s (stepCause p bit s) := by
  unfold stepCause; split <;> constructor <;> rfl

/-- A partition outside a step gains no cause (R64). -/
theorem stepCause_idle {p : Nat} {s : State} (bit : Nat) (h : inStep s p = false) : stepCause p bit s = s := by
  simp [stepCause, h]

theorem stepCauseOf_frame (who : Option Nat) (bit : Nat) (s : State) : StepFrame s (stepCauseOf who bit s) := by
  cases who with
  | none => exact .refl s
  | some p => exact stepCause_frame p bit s

theorem nanArose_frame (who : Option Nat) (s : State) : StepFrame s (nanArose who s) := by
  cases who with
  | none => exact .refl s
  | some p => exact ((stepCause_frame p scNan s).trans (.setCtx _ p _)).ite (.refl s)

theorem formCompl_frame (r : Nat) (st : Code) (op : Nat) (k : Bool) (q c n d : Nat) (s : State) :
    StepFrame s (formCompl r st op k q c n d s) := by constructor <;> rfl

theorem completeRing_frame (r : Nat) (st : Code) (d : Nat) (s : State) : StepFrame s (completeRing r st d s) := by
  unfold completeRing
  split
  · exact .refl s
  · exact (StepFrame.setRing _ _ _).ite (by constructor <;> rfl)

/-- A ring that runs no descriptor completes none. -/
theorem completeRing_none {r : Nat} {s : State} (st : Code) (d : Nat) (h : (s.ring r).cur = none) :
    completeRing r st d s = s := by simp [completeRing, h]

theorem completeRun_frame (p : Nat) (st : Code) (d : Nat) (s : State) : StepFrame s (completeRun p st d s) := by
  unfold completeRun
  split
  · exact .refl s
  · exact ((StepFrame.setCtx s p _).trans (completeRing_frame _ st d _)).ite (.setCtx s p _)

theorem stepCompletion_frame (p : Nat) (st : Code) (s : State) : StepFrame s (stepCompletion p st s) := by
  unfold stepCompletion
  dsimp only
  split
  · exact (RegFrame.setStepRf s p _ _ _ _).toStepFrame
  · exact ((RegFrame.setStepRf s p _ _ _ _).toStepFrame.trans (formCompl_frame _ _ _ _ _ _ _ _ _)).ite
      (RegFrame.setStepRf s p _ _ _ _).toStepFrame

theorem voteArrive_frame (p : Nat) (clean nan : Bool) (s : State) : StepFrame s (voteArrive p clean nan s) := by
  have h := (((RegFrame.setStepRf s p oStepStatus 6 1 clean.toNat).trans
    (RegFrame.setStepRf _ p oStepStatus 7 1 nan.toNat)).toStepFrame.trans (.setCtx _ p { s.ctx p with held := some (clean, nan) }))
  unfold voteArrive
  dsimp only
  split
  · exact h.ite (h.trans (stepCause_frame _ _ _))
  · exact h

theorem setLink_frame (s : State) (n : Nat) (x : Link) : StepFrame s (s.setLink n x) := by constructor <;> rfl

theorem sendFlit_frame (n vc : Nat) (m : LinkMsg) (s : State) : StepFrame s (sendFlit n vc m s) := by
  unfold sendFlit emitFlit
  dsimp only
  exact ((setLink_frame s n _).trans ((RegFrame.count _ _ _).toStepFrame.ite (.refl _))).trans (.emit _ _)

/-- What a port sends changes nothing but its flits and its counters. -/
theorem sendQueue_frame (n : Nat) : ∀ (fuel : Nat) (s : State), StepFrame s (sendQueue n fuel s)
  | 0, s => .refl s
  | fuel + 1, s => by
    unfold sendQueue
    dsimp only
    split
    · exact .refl s
    · split
      · exact ((setLink_frame s n _).trans (sendFlit_frame n _ _ _)).trans (sendQueue_frame n fuel _)
      · exact .refl s

theorem sendMsg_frame (n vc : Nat) (m : LinkMsg) (s : State) : StepFrame s (sendMsg n vc m s) :=
  (setLink_frame s n _).trans (sendQueue_frame n _ _)

theorem sendDowns_frame (p step attempt : Nat) (clean nan : Bool) (s : State) :
    StepFrame s (sendDowns p step attempt clean nan s) :=
  foldl_keeps StepFrame.refl StepFrame.trans _ (fun s _ => (sendMsg_frame _ _ _ s).ite (.refl s)) _ s

theorem voteTry_frame (p : Nat) (s : State) : StepFrame s (voteTry p s) := by
  unfold voteTry
  dsimp only
  split
  · refine (StepFrame.setCtx s p { s.ctx p with upSent := true, sentVote := some (stepNumber s p, stepRetries s p) }).trans ?_
    generalize s.setCtx p _ = t
    split
    · split
      · exact (sendDowns_frame _ _ _ _ _ t).trans (voteArrive_frame _ _ _ _)
      · exact sendDowns_frame _ _ _ _ _ t
    · exact (sendMsg_frame _ _ _ _).ite (.refl t)
  · exact .refl s

theorem setStepState_frame (p v : Nat) (s : State) : StepFrame s (setStepState p v s) :=
  (RegFrame.setStepRf s p _ _ _ _).toStepFrame

theorem haltStep_frame (p : Nat) (s : State) : StepFrame s (haltStep p s) := by
  unfold haltStep
  split
  · have h := (stepCause_frame p scHalt s).trans (.setCtx _ p { (stepCause p scHalt s).ctx p with own := some (false, true) })
    have g := h.trans (setStepState_frame p sHalted _)
    exact (StepFrame.ite (g.trans (voteTry_frame p _)) g).trans (stepCompletion_frame _ _ _)
  · exact setStepState_frame _ _ _

/-- A halt changes nothing but its partition, the context, the rings, registers, and the flits and frames sent. -/
theorem halt_frame (p : Nat) (s : State) : StepFrame s (halt p s) := by
  unfold halt
  split
  · exact .refl s
  · exact (((haltStep_frame p s).trans (StepFrame.ite (completeRun_frame _ _ _ _) (.refl _))).trans (.setPart _ p _)).trans
      (RegFrame.orReg _ _ _).toStepFrame

/-- A halted partition, and one under test, do not halt. -/
theorem halt_again {p : Nat} {s : State} (h : (s.part p).halted = true ∨ testing s p = true) : halt p s = s := by
  unfold halt; rcases h with h | h <;> simp [h]

theorem haltOf_frame (who : Option Nat) (s : State) : StepFrame s (haltOf who s) := by
  cases who with
  | none => exact .refl s
  | some p => exact halt_frame p s

/-! ### Fault reports (R487–R492) -/

theorem lastReport_frame (v : Nat) : ∀ (n : Nat) (s : State), RegFrame s (lastReport v n s)
  | 0, s => .refl s
  | n + 1, s => (RegFrame.setReg s _ _).trans (lastReport_frame v n _)

theorem nameFault_frame (u : Unit') (s : State) : RegFrame s (nameFault u s) := by
  cases u <;> first | exact RegFrame.orReg _ _ _ | exact .refl s

theorem granuleFound_frame (who : Option Nat) (g : Nat) (s : State) : ReportFrame s (granuleFound who g s).2 := by
  unfold granuleFound
  dsimp only
  split
  · exact .refl s
  · split
    · constructor <;> rfl
    · split <;> constructor <;> rfl

theorem countGrans_frame (c a n : Nat) (s : State) : RegFrame s (countGrans c a n s) :=
  foldl_keeps RegFrame.refl RegFrame.trans _ (fun s _ => RegFrame.count s _ _) _ s

theorem countMerge_frame (g : Nat) (s : State) : RegFrame s (countMerge g s) :=
  (RegFrame.count s _ _).trans (.count _ _ _)

theorem logMerge_frame (s : State) (g : Nat) : ReportFrame s (logMerge s g) := by
  have h := (countMerge_frame g s).toReportFrame.trans (granuleFound_frame none g _)
  unfold logMerge
  dsimp only
  split
  · exact h.trans (by constructor <;> rfl)
  · exact h

theorem logWrite_frame (a : Nat) (bs : List Byte) (s : State) : ReportFrame s (logWrite a bs s) := by
  have h : ∀ t : State, ReportFrame t (t.putBytes a bs) := fun t => by constructor <;> rfl
  exact ((foldl_keeps ReportFrame.refl ReportFrame.trans logMerge logMerge_frame _ s).trans (h _)).trans
    (countGrans_frame _ _ _ _).toReportFrame

theorem logEntry_frame (bs : List Byte) (s : State) : ReportFrame s (logEntry bs s) := by
  unfold logEntry
  dsimp only
  refine ReportFrame.trans ?_ (RegFrame.setRf _ _ _ _ _).toReportFrame
  split
  · exact logWrite_frame _ _ s
  · unfold noteGated
    split
    · constructor <;> rfl
    · exact .refl s

theorem logEntries_frame : ∀ (bss : List (List Byte)) (s : State), ReportFrame s (logEntries bss s).2
  | [], s => .refl s
  | bs :: rest, s => (logEntry_frame bs s).trans (logEntries_frame rest _)

theorem reportOne_frame (r : Rep) (conts : List (List Byte)) (s : State) : ReportFrame s (reportOne r conts s).2 := by
  have h : ∀ v : Nat, ReportFrame s (lastReport v 8 { nameFault r.unit s with
      integ := { (nameFault r.unit s).integ with seq := (nameFault r.unit s).integ.seq + 1 },
      fresh := (nameFault r.unit s).fresh + 1 }) := fun v => by
    refine ((nameFault_frame r.unit s).toReportFrame.trans ?_).trans (lastReport_frame v 8 _).toReportFrame
    constructor <;> rfl
  unfold reportOne
  dsimp only
  split
  · exact (h _).trans (logEntries_frame _ _)
  · split
    · exact (h _).trans (logEntries_frame _ _)
    · exact (h _).trans ((RegFrame.count _ _ _).trans (RegFrame.orReg _ _ _)).toReportFrame

theorem reportAll_frame : ∀ (fuel : Nat) (rs : List Rep) (s : State), ReportFrame s (reportAll fuel rs s)
  | 0, _, s => .refl s
  | _ + 1, [], s => .refl s
  | fuel + 1, r :: _, s => (reportOne_frame r [] s).trans (reportAll_frame fuel _ _)

/-- A report changes registers, the log and the integrity unit; nothing of the fabric, of a step or of a ring. -/
theorem report_frame (r : Rep) (conts : List (List Byte)) (s : State) : ReportFrame s (report r conts s) := by
  unfold report
  split
  · exact .refl s
  · exact (reportOne_frame r conts s).trans (reportAll_frame _ _ _)

/-- The integrity logic without its clock writes no report (R514). -/
theorem report_off {s : State} (r : Rep) (conts : List (List Byte)) (h : integOn s = false) : report r conts s = s := by
  simp [report, h]

theorem setIntegCause_frame (bit : Nat) (s : State) : RegFrame s (setIntegCause bit s) :=
  (RegFrame.orReg s _ _).ite (.refl s)

theorem integrityFault_frame (r : Rep) (conts : List (List Byte)) (s : State) : FaultFrame s (integrityFault r conts s).2 := by
  unfold integrityFault
  split
  · exact .refl s
  split
  · exact (report_frame _ _ _).toFaultFrame
  · dsimp only
    split
    · exact (report_frame _ _ _).toFaultFrame
    · split
      · exact ((report_frame _ _ _).trans ((RegFrame.setReg _ _ _).trans (setIntegCause_frame _ _)).toReportFrame).toFaultFrame
      · exact (report_frame _ _ _).toFaultFrame.trans
          ((StepFrame.setPart _ _ _).trans (RegFrame.setReg _ _ _).toStepFrame).toFaultFrame

theorem integrityHalt_frame (r : Rep) (conts : List (List Byte)) (s : State) : FaultFrame s (integrityHalt r conts s) :=
  ((integrityFault_frame r conts s).trans (haltOf_frame _ _).toFaultFrame).ite (integrityFault_frame r conts s)

/-! ### HBM without errors (R302–R305) -/

theorem countBytes_frame (c a n : Nat) (s : State) : RegFrame s (countBytes c a n s) := by
  unfold countBytes
  dsimp only
  split
  · exact ((foldl_keeps RegFrame.refl RegFrame.trans _ (fun s k => RegFrame.count s _ _) _ s).trans
      (countGrans_frame _ _ _ _)).trans (countGrans_frame _ _ _ _)
  · exact countGrans_frame _ _ _ _

theorem count_reg_other {s : State} {a x n : Nat} (h : x ≠ a) : (s.count a n).reg x = s.reg x := by
  simp [State.count, State.reg, State.setReg, sget_sset_other _ _ h]

theorem foldl_count_reg {α : Type} {x : Nat} (at_ by_ : α → Nat) : ∀ (l : List α) (s : State), (∀ i, x ≠ at_ i) →
    (l.foldl (fun s i => s.count (at_ i) (by_ i)) s).reg x = s.reg x
  | [], _, _ => rfl
  | i :: l, s, h => by
    rw [List.foldl_cons, foldl_count_reg at_ by_ l _ h, count_reg_other (h i)]

/-- Counting data bytes changes no register but the counters of the stacks (R351). -/
theorem countBytes_reg {c a n x : Nat} {s : State} (h : ∀ k, x ≠ rPlCount k c) : (countBytes c a n s).reg x = s.reg x := by
  have g : ∀ a n (s : State), (countGrans c a n s).reg x = s.reg x := fun a n s =>
    foldl_count_reg (fun g => rPlCount (stackOf g) c) (fun g => overlap a n g) (granules a n) s (fun i => h _)
  unfold countBytes
  dsimp only
  split
  · rw [g, g]
    exact foldl_count_reg (fun k => rPlCount k c) (fun _ => _) _ s (fun i => h _)
  · exact g _ _ _

/-- A read of memory without errors gives the bytes and only counts them. -/
theorem hbmRead_clean {s : State} (who : Option Nat) (a n : Nat) (h : s.hbmErr = []) :
    hbmRead who a n s = (s.getBytes a n, false, countBytes 0 a n s) := by
  simp [hbmRead, badGranules, h, granulesRead]

/-- Memory without errors is seen as it is stored. -/
theorem State.seen_clean {s : State} (a n : Nat) (h : s.hbmErr = []) : s.seen a n = s.getBytes a n := by
  simp [State.seen, h]

theorem hbmReadPlain_clean {s : State} (who : Option Nat) (a n : Nat) (h : s.hbmErr = []) :
    hbmReadPlain who a n s = (s.getBytes a n, countBytes 0 a n s) := by
  simp [hbmReadPlain, hbmRead_clean who a n h]

theorem granuleRead_clean {s : State} (who : Option Nat) (g : Nat) (h : s.hbmErr = []) :
    granuleRead who g s = (false, false, s) := by
  simp [granuleRead, granuleFound, h, sget]

theorem granuleMerge_clean {s : State} (who : Option Nat) (g : Nat) (h : s.hbmErr = []) :
    granuleMerge who s g = countMerge g s := by
  have h' : (countMerge g s).hbmErr = [] := h
  simp [granuleMerge, granuleRead_clean who g h']

theorem writeErrors_clean {s : State} (who : Option Nat) (a n : Nat) (h : s.hbmErr = []) :
    RegFrame s (writeErrors who a n s) := by
  have k : ∀ (l : List Nat) (s : State), s.hbmErr = [] → RegFrame s (l.foldl (granuleMerge who) s) := by
    intro l
    induction l with
    | nil => exact fun s _ => .refl s
    | cons g l ih =>
      intro s h
      rw [List.foldl_cons, granuleMerge_clean who g h]
      exact (countMerge_frame g s).trans (ih _ h)
  have f := k (partGranules a n) s h
  refine f.trans ?_
  constructor <;> first | rfl | skip
  show List.filter _ _ = _
  rw [f.hbmErr, h]
  rfl

/-- A write into memory without errors stores its bytes; beside them only counters change. -/
theorem hbmWrite_clean {s : State} (who : Option Nat) (a : Nat) (bs : List Byte) (h : s.hbmErr = []) :
    RegFrame (s.putBytes a bs) (hbmWrite who a bs s) := by
  have f := writeErrors_clean who a bs.length h
  have g : RegFrame (s.putBytes a bs) ((writeErrors who a bs.length s).putBytes a bs) := by
    constructor <;> first
      | exact congrArg (fun m => m.writeBytes a bs) f.mem
      | exact f.hbmErr | exact f.drErr | exact f.cells | exact f.fields | exact f.dowel | exact f.cabs | exact f.ctxs | exact f.parts
      | exact f.edges | exact f.gathers | exact f.plinths | exact f.links | exact f.eths | exact f.rdma | exact f.rings | exact f.integ
      | exact f.clk | exact f.sec | exact f.cqHead | exact f.sent | exact f.fresh | exact f.pending
  exact g.trans (countBytes_frame _ _ _ _)

/-! ### Drawer rows without errors (R100) -/

theorem drawerRead_clean {s : State} (g n : Nat) (h : s.drErr = []) : drawerRead g n s = (rowRaw s g n, s) := by
  simp [drawerRead, h]

theorem drawerReads_clean {s : State} (h : s.drErr = []) :
    ∀ g n k, drawerReads g n k s = ((List.range k).map (fun i => rowRaw s g (n + i)), s)
  | _, _, 0 => rfl
  | g, n, k + 1 => by
    rw [drawerReads, drawerRead_clean g n h]
    simp only [drawerReads_clean h g (n + 1) k, List.range_succ_eq_map, List.map_cons, List.map_map, Nat.add_zero]
    simp [Function.comp_def, Nat.add_assoc, Nat.add_comm 1]

theorem drawerWrite_clean {s : State} (g n : Nat) (v : Row) (h : s.drErr = []) :
    drawerWrite g n v s = s.putBytes (rowAddr g n) (leBytes 32 v.toNat) := by
  simp [drawerWrite, h]

end Sys2Proof.Machine
end

