-- ==== Sys2Proof/Laws/Commands.lean ====
section
/-! SUPPORT. The shared shapes of commands: when one acts, and that it leaves the state as it is otherwise. -/

namespace Sys2Proof.Machine

/-! ### Commands of a ring (R421, R422, R561) -/

/-- A command acts on the descriptor of its own opcode that an enabled ring has fetched, which is under way or may start. -/
theorem command_run {r op : Nat} {f : Cmd → State → State} {s : State} {d : Cmd} (hc : (s.ring r).cur = some d)
    (hr : ringOn s r = true) (ho : dOp d = op) (he : (s.ring r).ending = none)
    (hs : (s.ring r).started = true ∨ depMet s d = true ∧ dVersionOk s (dVersion d) = true) : command r op f s = f d s := by
  rcases hs with h | ⟨h, h'⟩
  · simp [command, hc, hr, ho, he, h]
  · simp [command, hc, hr, ho, he, h, h']

theorem command_off {r op : Nat} {f : Cmd → State → State} {s : State} (h : (s.ring r).cur = none ∨ ringOn s r = false) :
    command r op f s = s := by
  unfold command
  rcases h with h | h
  · simp [h]
  · split <;> simp [h]

theorem command_other {r op : Nat} {f : Cmd → State → State} {s : State} {d : Cmd} (hc : (s.ring r).cur = some d)
    (ho : dOp d ≠ op) : command r op f s = s := by simp [command, hc, ho]

@[simp] theorem unlessGated_runs {r unit : Nat} {f : State → State} {s : State} (h : unitGated s unit = false) :
    unlessGated r unit f s = f s := by simp [unlessGated, h]

@[simp] theorem unlessGated_gated {r unit : Nat} {f : State → State} {s : State} (h : unitGated s unit = true) :
    unlessGated r unit f s = completeRing r eGated 0 (setHostCause hcGated s) := by simp [unlessGated, h, reject]

/-- A command that nothing stands against takes its effect. -/
theorem checked_pass {r : Nat} {cs : List (Bool × Code × Nat)} {f : State → State} {s : State} (h : ∀ c ∈ cs, c.1 = false)
    (hh : headerBad s r = []) : checked r cs f s = f s := by
  have hn : (cs.map (fun c => (c.1, c.2.1))).filter (fun c => c.1) = [] := by
    rw [List.filter_eq_nil_iff]
    intro x hx
    obtain ⟨c, hc, rfl⟩ := List.mem_map.mp hx
    simp [h c hc]
  have hf : firstBad cs = none := by
    unfold firstBad firstCode
    rw [hn]
    rfl
  simp [checked, hf, hh]

/-! ### Sequencers (R214, R227) -/

/-- A sequencer command acts on the word its sequencer stands at; anywhere else nothing happens. -/
theorem seqExec_off {c op : Nat} {waits : List Nat} {f : Nat → Word → State → State} {s : State}
    (h : seqPart s c = none ∨ seqAt s c op waits = false) : seqExec c op waits f s = s := by
  unfold seqExec
  rcases h with h | h
  · simp [h]
  · split <;> simp [h]

theorem seqExec_run {c op p : Nat} {waits : List Nat} {f : Nat → Word → State → State} {s : State}
    (hp : seqPart s c = some p) (h : seqAt s c op waits = true) :
    seqExec c op waits f s = fetchThen p c (f p) s := by simp [seqExec, hp, h]

/-- A word that the access tables let the sequencer fetch, with room for its miss, is executed; so is one in the cache. -/
theorem fetchThen_run {p c : Nat} {f : Word → State → State} {s : State} (h : fetchHit s c = true ∨
    (hbmDenied s (mPart s p) kJig (seqAddr (s.cab c)) 8 = none ∧ lineReady s c (seqAddr (s.cab c)) = true)) :
    fetchThen p c f s = f (seqFetch p c s).1 (seqFetch p c s).2 := by
  rcases h with h | ⟨h, h'⟩
  · simp [fetchThen, h]
  · simp [fetchThen, h, h']

/-! ### Benches (R90) -/

/-- A bench whose clock stands, or that belongs to no partition, or where the tag has no iteration, fires nothing. -/
theorem fire_off {op : Nat} {g : CellId} {t : BitVec 16} {s : State}
    (h : cellRuns s g.toNat = false ∨ partOfCell s g.toNat = none ∨
      (s.bench g.toNat).iters.find? (fun i => i.tag == t) = none) : fire op g t s = s := by
  unfold fire
  rcases h with h | h | h
  · simp [h]
  · simp [h]
  · dsimp only
    split
    · split
      · rename_i hi; rw [h] at hi; cases hi
      · rfl
    · rfl

theorem fire_run {op p : Nat} {g : CellId} {t : BitVec 16} {s : State} {it : Iter} (hr : cellRuns s g.toNat = true)
    (hp : partOfCell s g.toNat = some p) (hi : (s.bench g.toNat).iters.find? (fun i => i.tag == t) = some it)
    (hs : issueStops s g.toNat = false) :
    fire op g t s = if fireReady (s.bench g.toNat) it op t then fireGo g.toNat p (s.bench g.toNat) it s else s := by
  simp [fire, hr, hp, hi, hs]

/-! ### Register accesses (R9, R551, R561) -/

theorem csrWrite_refused {m a : Nat} {v : Word} {s : State} {c : Code} (h : csrWriteCode m a v s = some c) :
    csrWrite m a v s = (c, csrReject c m true a s) := by simp [csrWrite, h]

theorem csrWrite_stored {m a : Nat} {v : Word} {s : State} (h : csrWriteCode m a v s = none) :
    csrWrite m a v s = (cOk, csrEffect a (s.reg (homeAddr s a)) v
      (s.setReg (homeAddr s a) (regStored a (s.reg (homeAddr s a)) v))) := by simp [csrWrite, h]

theorem csrRead_refused {m a : Nat} {s : State} {c : Code} (h : csrDenied m a false s = some c) :
    csrRead m a s = (c, 0, csrReject c m false a s) := by simp [csrRead, h]

theorem csrRead_value {m a : Nat} {s : State} (h : csrDenied m a false s = none) : csrRead m a s = (cOk, csrValue a s, s) := by
  simp [csrRead, h]

end Sys2Proof.Machine
end

