-- ==== Sys2Proof/Laws/Mem.lean ====
section
/-! SUPPORT. Memory: every operation keeps the canonical form; a byte reads as it was last written, and a write leaves
every other byte alone. -/

namespace Sys2Proof.Machine

/-! ### The canonical form -/

theorem cellsWf_mono {u : List Undef} {lo lo' : Nat} (h : lo' ≤ lo) :
    ∀ {cs : List Host.Cell}, cellsWf u lo cs = true → cellsWf u lo' cs = true
  | [], _ => rfl
  | (k, b) :: cs, hw => by
    simp only [cellsWf, Bool.and_eq_true, decide_eq_true_eq] at hw ⊢
    exact ⟨⟨Nat.le_trans h hw.1.1, hw.1.2⟩, hw.2⟩

theorem cellsPut_wf {u : List Undef} {a : Nat} {b : Byte} :
    ∀ {cs : List Host.Cell} {lo : Nat}, lo ≤ a → cellsWf u lo cs = true →
      cellsWf u lo (cellsPut (undefAt u a).isSome cs a b) = true
  | [], lo, hl, _ => by
    simp only [cellsPut]
    split
    · rfl
    · rename_i h
      simp only [cellsWf, Bool.and_eq_true, decide_eq_true_eq, Bool.or_eq_true, bne_iff_ne]
      refine ⟨⟨hl, ?_⟩, trivial⟩
      by_cases hb : b = 0
      · right
        cases hu : undefAt u a <;> simp_all
      · exact .inl hb
  | (k, c) :: cs, lo, hl, hw => by
    have hw' := hw
    simp only [cellsWf, Bool.and_eq_true, decide_eq_true_eq, Bool.or_eq_true, bne_iff_ne] at hw'
    obtain ⟨⟨h1, h2⟩, h3⟩ := hw'
    have key : ¬ (b = 0 ∧ (!(undefAt u a).isSome) = true) → b ≠ 0 ∨ (undefAt u a).isSome = true := by
      intro h
      by_cases hb : b = 0
      · right
        cases hu : undefAt u a <;> simp_all
      · exact .inl hb
    simp only [cellsPut]
    split
    · rename_i hak
      split
      · exact hw
      · rename_i h
        simp only [cellsWf, Bool.and_eq_true, decide_eq_true_eq, Bool.or_eq_true, bne_iff_ne]
        exact ⟨⟨hl, key (by simpa using h)⟩, ⟨⟨by omega, h2⟩, h3⟩⟩
    · split
      · rename_i hak hk
        subst hk
        split
        · exact cellsWf_mono (by omega) h3
        · rename_i h
          simp only [cellsWf, Bool.and_eq_true, decide_eq_true_eq, Bool.or_eq_true, bne_iff_ne]
          exact ⟨⟨hl, key (by simpa using h)⟩, h3⟩
      · rename_i hak hk
        simp only [cellsWf, Bool.and_eq_true, decide_eq_true_eq, Bool.or_eq_true, bne_iff_ne]
        exact ⟨⟨h1, h2⟩, cellsPut_wf (by omega) h3⟩

/-- Entries that a test keeps stay in order, when their addresses keep the state of being undefined. -/
theorem cellsWf_filter {u u' : List Undef} {keep : Host.Cell → Bool}
    (h : ∀ k b, keep (k, b) = true → (undefAt u' k).isSome = (undefAt u k).isSome) :
    ∀ {cs : List Host.Cell} {lo : Nat}, cellsWf u lo cs = true → cellsWf u' lo (cs.filter keep) = true
  | [], _, _ => rfl
  | (k, b) :: cs, lo, hw => by
    simp only [cellsWf, Bool.and_eq_true, decide_eq_true_eq] at hw
    have tail := cellsWf_filter (lo := k + 1) h hw.2
    by_cases hk : keep (k, b) = true
    · simp only [List.filter_cons, hk, if_true, cellsWf, Bool.and_eq_true, decide_eq_true_eq]
      exact ⟨⟨hw.1.1, by rw [h k b hk]; exact hw.1.2⟩, tail⟩
    · simp only [List.filter_cons, hk]
      exact cellsWf_mono (by omega) tail

theorem undefAt_append (u v : List Undef) (a : Nat) :
    undefAt (u ++ v) a = (undefAt u a).or (undefAt v a) := by
  induction u with
  | nil => simp [undefAt]
  | cons x u ih =>
    simp only [List.cons_append, undefAt]
    split
    · simp
    · exact ih

theorem undefAt_one (l r n a : Nat) : undefAt [({ lo := l, hi := r, gen := n } : Undef)] a
    = if l ≤ a ∧ a < r then some n else none := rfl

theorem undefAt_optional (c : Prop) [Decidable c] (x : Undef) (a : Nat) :
    undefAt (if c then [x] else []) a = if c ∧ x.lo ≤ a ∧ a < x.hi then some x.gen else none := by
  by_cases h : c
  · rw [if_pos h]
    show (if _ then _ else _) = _
    by_cases k : x.lo ≤ a ∧ a < x.hi
    · rw [if_pos k, if_pos ⟨h, k⟩]
    · rw [if_neg k, if_neg (fun e => k e.2)]
      rfl
  · rw [if_neg h, if_neg (fun k => h k.1)]
    rfl

theorem undefAt_cut {lo hi : Nat} (u : List Undef) {a : Nat} (h : a < lo ∨ hi ≤ a) :
    undefAt (undefCut lo hi u) a = undefAt u a := by
  induction u with
  | nil => rfl
  | cons x u ih =>
    rcases x with ⟨l, r, n⟩
    have e : undefAt (undefCut lo hi (⟨l, r, n⟩ :: u)) a
        = ((if l < min r lo ∧ l ≤ a ∧ a < min r lo then some n else none).or
            (if max l hi < r ∧ max l hi ≤ a ∧ a < r then some n else none)).or (undefAt u a) := by
      rw [← ih]
      show undefAt ((_ ++ _) ++ _) a = _
      rw [undefAt_append, undefAt_append, undefAt_optional, undefAt_optional]
    have e' : undefAt (⟨l, r, n⟩ :: u) a = if l ≤ a ∧ a < r then some n else undefAt u a := rfl
    rw [e, e']
    by_cases hx : l ≤ a ∧ a < r
    · rw [if_pos hx]
      by_cases h1 : l < min r lo ∧ l ≤ a ∧ a < min r lo
      · rw [if_pos h1]; rfl
      · have h2 : max l hi < r ∧ max l hi ≤ a ∧ a < r := by omega
        rw [if_neg h1, if_pos h2]; rfl
    · have h1 : ¬ (l < min r lo ∧ l ≤ a ∧ a < min r lo) := by omega
      have h2 : ¬ (max l hi < r ∧ max l hi ≤ a ∧ a < r) := by omega
      rw [if_neg hx, if_neg h1, if_neg h2]; rfl

theorem Mem.write_wf {m : Mem} (a : Nat) (b : Byte) (h : m.wf = true) : (m.write a b).wf = true :=
  cellsPut_wf (Nat.zero_le _) h

theorem Mem.writeBytes_wf {m : Mem} (a : Nat) (bs : List Byte) (h : m.wf = true) : (m.writeBytes a bs).wf = true := by
  induction bs generalizing m a with
  | nil => exact h
  | cons b bs ih => exact ih _ (Mem.write_wf a b h)

theorem Mem.zeroRange_wf {m : Mem} (lo hi : Nat) (h : m.wf = true) : (m.zeroRange lo hi).wf = true := by
  refine cellsWf_filter (fun k b hk => ?_) h
  simp only [Mem.zeroRange]
  rw [undefAt_cut]
  simpa using hk

theorem Mem.forgetFrom_wf {m : Mem} (n fresh : Nat) (h : m.wf = true) : (m.forgetFrom n fresh).wf = true := by
  refine cellsWf_filter (fun k b hk => ?_) h
  have hk' : k < n * 2 ^ 30 ∨ hbmEnd ≤ k := by simpa using hk
  simp only [Mem.forgetFrom]
  rw [undefAt_append, undefAt_cut _ hk']
  rw [undefAt_one, if_neg (by omega)]
  cases undefAt m.undef k <;> rfl

theorem Mem.copy_wf {m from_ : Mem} (src dst n : Nat) (h : m.wf = true) : (m.copy from_ src dst n).wf = true := by
  unfold Mem.copy
  split
  · exact Mem.writeBytes_wf _ _ h
  · have : ∀ (l : List Host.Cell) (m : Mem), m.wf = true →
        (l.foldl (fun m c => m.write (dst + (c.1 - src)) c.2) m).wf = true := by
      intro l
      induction l with
      | nil => exact fun _ h => h
      | cons c l ih => exact fun m h => ih _ (Mem.write_wf _ _ h)
    exact this _ _ (Mem.zeroRange_wf _ _ h)

theorem State.putBytes_wf {s : State} (a : Nat) (bs : List Byte) (h : s.mem.wf = true) :
    (s.putBytes a bs).mem.wf = true := Mem.writeBytes_wf a bs h

theorem reset_wf : State.reset.mem.wf = true := rfl

/-! ### Reading after writing -/

theorem cellsGet_none_of_wf {u : List Undef} {a : Nat} :
    ∀ {cs : List Host.Cell} {lo : Nat}, a < lo → cellsWf u lo cs = true → cellsGet cs a = none
  | [], _, _, _ => rfl
  | (k, b) :: cs, lo, hl, hw => by
    simp only [cellsWf, Bool.and_eq_true, decide_eq_true_eq] at hw
    have : a < k := by omega
    simp [cellsGet, this]

theorem cellsGet_put_same {u : List Undef} {keep : Bool} {a : Nat} {b : Byte} :
    ∀ {cs : List Host.Cell} {lo : Nat}, cellsWf u lo cs = true →
      cellsGet (cellsPut keep cs a b) a = if b = 0 && !keep then none else some b
  | [], _, _ => by
    simp only [cellsPut]
    split <;> simp [cellsGet]
  | (k, c) :: cs, lo, hw => by
    have hw' := hw
    simp only [cellsWf, Bool.and_eq_true, decide_eq_true_eq] at hw'
    simp only [cellsPut]
    split
    · rename_i h
      split
      · simp [cellsGet, h]
      · simp [cellsGet]
    · split
      · rename_i h1 h2
        subst h2
        split
        · exact cellsGet_none_of_wf (Nat.lt_succ_self _) hw'.2
        · simp [cellsGet]
      · rename_i h1 h2
        simp only [cellsGet, h1, h2, if_false]
        exact cellsGet_put_same hw'.2

theorem cellsGet_put_other {keep : Bool} {a x : Nat} {b : Byte} (hx : x ≠ a) :
    ∀ {cs : List Host.Cell} {u : List Undef} {lo : Nat}, cellsWf u lo cs = true →
      cellsGet (cellsPut keep cs a b) x = cellsGet cs x
  | [], _, _, _ => by
    simp only [cellsPut]
    split
    · rfl
    · simp only [cellsGet, hx, if_false]
      split <;> rfl
  | (k, c) :: cs, u, lo, hw => by
    have hw' := hw
    simp only [cellsWf, Bool.and_eq_true, decide_eq_true_eq] at hw'
    simp only [cellsPut]
    split
    · rename_i h
      split
      · rfl
      · simp only [cellsGet, hx, if_false]
        by_cases h1 : x < a
        · have : x < k := by omega
          simp [h1, this]
        · simp [h1]
    · split
      · rename_i h1 h2
        subst h2
        split
        · simp only [cellsGet, hx, if_false]
          split
          · rename_i h3
            exact cellsGet_none_of_wf (by omega) hw'.2
          · rfl
        · simp only [cellsGet, hx, if_false]
      · simp only [cellsGet]
        split
        · rfl
        · split
          · rfl
          · exact cellsGet_put_other hx hw'.2

/-- A byte reads as it was written. -/
theorem Mem.read_write_same {m : Mem} (a : Nat) (b : Byte) (h : m.wf = true) : (m.write a b).read a = b := by
  unfold Mem.read Mem.write
  simp only
  rw [cellsGet_put_same h]
  by_cases hb : b = 0
  · cases hu : undefAt m.undef a <;> simp [hb]
  · rw [if_neg (fun hc => hb (by simpa using (Bool.and_eq_true_iff.mp hc).1))]

/-- A write leaves every other byte alone. -/
theorem Mem.read_write_other {m : Mem} {a x : Nat} (b : Byte) (hx : x ≠ a) (h : m.wf = true) :
    (m.write a b).read x = m.read x := by
  unfold Mem.read Mem.write
  simp only
  rw [cellsGet_put_other hx h]

theorem Mem.read_writeBytes_other {m : Mem} {a x : Nat} (bs : List Byte) (hx : x < a ∨ a + bs.length ≤ x)
    (h : m.wf = true) : (m.writeBytes a bs).read x = m.read x := by
  induction bs generalizing m a with
  | nil => rfl
  | cons b bs ih =>
    simp only [List.length_cons] at hx
    simp only [Mem.writeBytes]
    rw [ih (by omega) (Mem.write_wf a b h), Mem.read_write_other b (by omega) h]

/-- The bytes of a range read as they were written. -/
theorem Mem.read_writeBytes {m : Mem} {a : Nat} (bs : List Byte) (h : m.wf = true) {i : Nat} (hi : i < bs.length) :
    (m.writeBytes a bs).read (a + i) = bs[i] := by
  induction bs generalizing m a i with
  | nil => simp at hi
  | cons b bs ih =>
    simp only [Mem.writeBytes]
    cases i with
    | zero =>
      rw [Mem.read_writeBytes_other bs (by omega) (Mem.write_wf a b h)]
      exact Mem.read_write_same a b h
    | succ i =>
      have := ih (m := m.write a b) (a := a + 1) (Mem.write_wf a b h) (i := i) (by simpa using hi)
      rw [show a + (i + 1) = a + 1 + i by omega, this]
      rfl

theorem Mem.readBytes_writeBytes {m : Mem} (a : Nat) (bs : List Byte) (h : m.wf = true) :
    (m.writeBytes a bs).readBytes a bs.length = bs := by
  apply List.ext_getElem
  · simp [Mem.readBytes]
  · intro i h1 h2
    simp only [Mem.readBytes, List.getElem_map, List.getElem_range]
    exact Mem.read_writeBytes bs h h2

end Sys2Proof.Machine
end

