-- ==== Sys2Proof/Laws/Wf.lean ====
section
/-! SUPPORT. The shared operations keep the canonical form of memory. -/

namespace Sys2Proof.Machine

/-- Memory of the second state has the canonical form if that of the first has. -/
structure KeepsForm (s u : State) : Prop where
  wf : s.mem.wf = true → u.mem.wf = true

theorem KeepsForm.refl (s : State) : KeepsForm s s := ⟨id⟩
theorem KeepsForm.trans {s t u : State} (h : KeepsForm s t) (g : KeepsForm t u) : KeepsForm s u := ⟨fun w => g.wf (h.wf w)⟩
theorem KeepsForm.of_mem {s u : State} (h : u.mem = s.mem) : KeepsForm s u := ⟨fun w => by rw [h]; exact w⟩
theorem KeepsForm.into {s t u : State} (h : KeepsForm s t) (e : u.mem = t.mem) : KeepsForm s u := h.trans (.of_mem e)
theorem KeepsForm.ite {s t u : State} {c : Prop} [Decidable c] (h : KeepsForm s t) (g : KeepsForm s u) :
    KeepsForm s (if c then t else u) := by split <;> assumption
theorem RegFrame.keepsForm {s u : State} (h : RegFrame s u) : KeepsForm s u := .of_mem h.mem
theorem StepFrame.keepsForm {s u : State} (h : StepFrame s u) : KeepsForm s u := .of_mem h.mem

theorem putBytes_form (s : State) (a : Nat) (bs : List Byte) : KeepsForm s (s.putBytes a bs) := ⟨State.putBytes_wf a bs⟩
theorem attend_form (s t : State) : KeepsForm t (attend s t) := .of_mem (attend_mem s t)

theorem granuleFound_form (who : Option Nat) (g : Nat) (s : State) : KeepsForm s (granuleFound who g s).2 := by
  unfold granuleFound
  dsimp only
  split
  · exact .refl s
  · split
    · exact .of_mem rfl
    · split <;> exact .of_mem rfl

theorem logMerge_form (s : State) (g : Nat) : KeepsForm s (logMerge s g) := by
  have h := (countMerge_frame g s).keepsForm.trans (granuleFound_form none g _)
  unfold logMerge
  dsimp only
  split
  · exact h.into rfl
  · exact h

theorem logWrite_form (a : Nat) (bs : List Byte) (s : State) : KeepsForm s (logWrite a bs s) :=
  ((foldl_keeps KeepsForm.refl KeepsForm.trans logMerge logMerge_form _ s).trans (putBytes_form _ a bs)).trans
    (countGrans_frame _ _ _ _).keepsForm

theorem logEntry_form (bs : List Byte) (s : State) : KeepsForm s (logEntry bs s) := by
  unfold logEntry
  dsimp only
  refine KeepsForm.into ?_ (RegFrame.setRf _ rLogHead 0 32 _).mem
  split
  · exact logWrite_form _ _ s
  · unfold noteGated
    split
    · exact .of_mem rfl
    · exact .refl s

theorem logEntries_form : ∀ (bss : List (List Byte)) (s : State), KeepsForm s (logEntries bss s).2
  | [], s => .refl s
  | bs :: rest, s => (logEntry_form bs s).trans (logEntries_form rest _)

theorem reportOne_form (r : Rep) (conts : List (List Byte)) (s : State) : KeepsForm s (reportOne r conts s).2 := by
  have h : ∀ v : Nat, KeepsForm s (lastReport v 8 { nameFault r.unit s with
      integ := { (nameFault r.unit s).integ with seq := (nameFault r.unit s).integ.seq + 1 },
      fresh := (nameFault r.unit s).fresh + 1 }) := fun v => by
    refine .of_mem ?_
    rw [(lastReport_frame v 8 _).mem]
    exact (nameFault_frame r.unit s).mem
  unfold reportOne
  dsimp only
  split
  · exact (h _).trans (logEntries_form _ _)
  · split
    · exact (h _).trans (logEntries_form _ _)
    · exact (h _).trans ((RegFrame.count _ _ _).trans (RegFrame.orReg _ _ _)).keepsForm

theorem reportAll_form : ∀ (fuel : Nat) (rs : List Rep) (s : State), KeepsForm s (reportAll fuel rs s)
  | 0, _, s => .refl s
  | _ + 1, [], s => .refl s
  | fuel + 1, r :: _, s => (reportOne_form r [] s).trans (reportAll_form fuel _ _)

theorem report_form (r : Rep) (conts : List (List Byte)) (s : State) : KeepsForm s (report r conts s) := by
  unfold report
  split
  · exact .refl s
  · exact (reportOne_form r conts s).trans (reportAll_form _ _ _)

theorem integrityFault_form (r : Rep) (conts : List (List Byte)) (s : State) : KeepsForm s (integrityFault r conts s).2 := by
  unfold integrityFault
  split
  · exact .refl s
  split
  · exact report_form _ _ _
  · dsimp only
    split
    · exact report_form _ _ _
    · split
      · exact (report_form _ _ _).trans ((RegFrame.setReg _ _ _).trans (setIntegCause_frame _ _)).keepsForm
      · exact (report_form _ _ _).trans ((StepFrame.setPart _ _ _).trans (RegFrame.setReg _ _ _).toStepFrame).keepsForm

theorem integrityHalt_form (r : Rep) (conts : List (List Byte)) (s : State) : KeepsForm s (integrityHalt r conts s) :=
  ((integrityFault_form r conts s).trans (haltOf_frame _ _).keepsForm).ite (integrityFault_form r conts s)

theorem shortage_form (scope : Nat) (u : Unit') (phys : Nat) (s : State) : KeepsForm s (shortage scope u phys s) :=
  (report_form _ _ _).trans ((RegFrame.setRf _ _ _ _ _).trans (setIntegCause_frame _ _)).keepsForm

theorem retireCab_form (c : Nat) (s : State) : KeepsForm s (retireCab c s) := by
  unfold retireCab
  split
  · exact .refl s
  · split
    · exact .of_mem rfl
    · exact (shortage_form 1 (.cab c) (physCab s c) s).into rfl

theorem retireCell_form (g : Nat) (s : State) : KeepsForm s (retireCell g s) := by
  unfold retireCell
  split
  · exact .refl s
  · split
    · exact .of_mem rfl
    · split
      · exact retireCab_form _ s
      · exact (shortage_form 0 (.cell g) (physCell s g) s).into rfl

theorem countFault_form (g : Nat) (s : State) : KeepsForm s (countFault g s) := by
  unfold countFault
  refine (KeepsForm.refl s).ite ?_
  extract_lets k n x t after
  have h : KeepsForm s t := .of_mem rfl
  exact (h.trans (retireCell_form g t)).ite h

theorem granuleRead_form (who : Option Nat) (g : Nat) (s : State) : KeepsForm s (granuleRead who g s).2.2 := by
  unfold granuleRead
  dsimp only
  have h := granuleFound_form who g s
  split
  · exact h
  · exact ((h.trans (report_form _ _ _)).trans (stepCauseOf_frame _ _ _).keepsForm).ite (h.trans (report_form _ _ _))

theorem granulesRead_form (who : Option Nat) : ∀ (gs : List Nat) (s : State), KeepsForm s (granulesRead who gs s).2.2
  | [], s => .refl s
  | g :: gs, s => (granuleRead_form who g s).trans (granulesRead_form who gs _)

theorem hbmRead_form (who : Option Nat) (a n : Nat) (s : State) : KeepsForm s (hbmRead who a n s).2.2 :=
  (granulesRead_form who _ s).trans (countBytes_frame _ _ _ _).keepsForm

theorem hbmReadPlain_form (who : Option Nat) (a n : Nat) (s : State) : KeepsForm s (hbmReadPlain who a n s).2 := by
  have h := hbmRead_form who a n s
  show KeepsForm s (if (hbmRead who a n s).2.1 = true then ochreLost who (hbmRead who a n s).2.2 else (hbmRead who a n s).2.2)
  exact (h.trans (stepCauseOf_frame who scOchre _).keepsForm).ite h

theorem granuleMerge_form (who : Option Nat) (s : State) (g : Nat) : KeepsForm s (granuleMerge who s g) := by
  unfold granuleMerge
  extract_lets r t
  have h : KeepsForm s r.2.2 := (countMerge_frame g s).keepsForm.trans (granuleRead_form who g _)
  have k : KeepsForm s t := (h.trans (stepCauseOf_frame who scOchre _).keepsForm).ite h
  split
  · exact k.into rfl
  · exact k

theorem writeErrors_form (who : Option Nat) (a n : Nat) (s : State) : KeepsForm s (writeErrors who a n s) :=
  (foldl_keeps KeepsForm.refl KeepsForm.trans _ (granuleMerge_form who) _ s).trans (.of_mem rfl)

theorem hbmWrite_form (who : Option Nat) (a : Nat) (bs : List Byte) (s : State) : KeepsForm s (hbmWrite who a bs s) :=
  ((writeErrors_form who a bs.length s).trans (putBytes_form _ a bs)).trans (countBytes_frame _ _ _ _).keepsForm

theorem hbmZero_form (who : Option Nat) (a n : Nat) (s : State) : KeepsForm s (hbmZero who a n s) := by
  unfold hbmZero
  extract_lets t
  have h : KeepsForm s t := writeErrors_form who a n s
  have k : KeepsForm t { t with mem := t.mem.zeroRange a (a + n) } := ⟨fun w => Mem.zeroRange_wf _ _ w⟩
  exact (h.trans k).into (countBytes_frame _ _ _ _).mem

theorem remapRequest_form {g row : Nat} {s t : State} (h : remapRequest g row s = some t) : KeepsForm s t := by
  unfold remapRequest at h
  dsimp only at h
  split at h
  · cases h; exact .refl s
  · split at h
    · cases h
    · split at h
      · cases h
      · cases h; exact .of_mem rfl

theorem remapAuto_form (g row : Nat) (s : State) : KeepsForm s (remapAuto g row s) := by
  unfold remapAuto
  split
  · rename_i h; exact remapRequest_form h
  · exact (RegFrame.orReg s _ _).keepsForm.trans (retireCell_form _ _)

theorem drawerCe_form (g n : Nat) (s : State) : KeepsForm s (drawerCe g n s) := by
  unfold drawerCe
  extract_lets d cnt t limit
  have h : KeepsForm s t := .of_mem rfl
  exact (h.trans (remapAuto_form g n t)).ite h

theorem drawerUe_form (g n : Nat) (s : State) : KeepsForm s (drawerUe g n s) := by
  have h := ((stepCauseOf_frame (partOfCell s g) scEcc s).keepsForm.trans
    (integrityHalt_form { kind := 4, unit := .cell g, part := partOfCell s g, stage := 7, clock := 0, detail := n } [] _)).trans
      (countFault_form g _)
  unfold drawerUe
  exact (h.trans (remapAuto_form _ _ _)).ite h

theorem drawerRead_form (g n : Nat) (s : State) : KeepsForm s (drawerRead g n s).2 := by
  unfold drawerRead
  split
  · exact .refl s
  · have h := (KeepsForm.refl s).ite (c := (rowErrs s g n 1).isEmpty = true) (drawerCe_form g n s)
    exact h.ite (h.trans (drawerUe_form g n _))

theorem drawerReads_form (g : Nat) : ∀ (n k : Nat) (s : State), KeepsForm s (drawerReads g n k s).2
  | _, 0, s => .refl s
  | n, k + 1, s => (drawerRead_form g n s).trans (drawerReads_form g (n + 1) k _)

theorem drawerWrite_form (g n : Nat) (v : Row) (s : State) : KeepsForm s (drawerWrite g n v s) := by
  unfold drawerWrite
  extract_lets t
  have h : KeepsForm s t := (KeepsForm.refl s).ite (.of_mem rfl)
  exact h.trans (putBytes_form t _ _)

theorem drawerWrites_form (g : Nat) : ∀ (n : Nat) (vs : List Row) (s : State), KeepsForm s (drawerWrites g n vs s)
  | _, [], s => .refl s
  | n, v :: vs, s => (drawerWrite_form g n v s).trans (drawerWrites_form g (n + 1) vs _)

end Sys2Proof.Machine
end

