-- ==== Sys2Proof/Tests/Slice0.lean ====
section
/-! SUPPORT. Tests: the checks of operands refuse ill-formed commands; the worked examples of the spec; and, for the
statements that have hypotheses, concrete states and operands that meet them. -/

namespace Sys2Proof.Tests

set_option Elab.async false

open Sys2Proof Sys2Proof.Machine

/-! ### Ill-formed commands (WellFormed) -/

theorem test_wf_master : (Instr.registerWrite 0x61 0 0).wf = true ∧ (Instr.registerWrite 0x62 0 0).wf = false := by decide
theorem test_wf_narrow_master : (Instr.narrowRead 0x7F 0).wf = false ∧ (Instr.stepResolveCommit 0x62 0 0).wf = false := by decide
theorem test_wf_port : (Instr.linkChange 4 true).wf = true ∧ (Instr.linkChange 5 true).wf = false := by decide
theorem test_wf_rows : (Instr.remoteRead 0 1 504 8).wf = true ∧ (Instr.remoteRead 0 1 505 8).wf = false ∧
    (Instr.remoteRead 0 1 0 0).wf = false ∧ (Instr.remoteRead 0 1 0 9).wf = false := by decide
theorem test_wf_targets : (Instr.creditRequest 0 [] 0 1).wf = false ∧ (Instr.writeData 0 []).wf = false := by decide
theorem test_wf_partial : (LinkMsg.redPartial 0 0 3 3 0 (List.replicate 32 0)).wf = false ∧
    (LinkMsg.redPartial 0 0 2 3 0 (List.replicate 31 0)).wf = false ∧ (LinkMsg.redPartial 0 0 2 3 0 (List.replicate 32 0)).wf = true ∧
    (LinkMsg.redPartial 0 0 2 3 1 (List.replicate 32 0)).wf = false ∧ (LinkMsg.redPartial 0 0 2 3 1 (List.replicate 16 0)).wf = true := by
  decide
theorem test_wf_blocks : (LinkMsg.explicitBlock 0 0 0 0 []).wf = false ∧ (LinkMsg.redCompressed 0 0 1 1 [0]).wf = false ∧
    (LinkMsg.redCompressed 0 0 0 1 []).wf = false ∧ (LinkMsg.redCompressed 0 0 0 1 (List.replicate 8 0)).wf = true := by decide
theorem test_wf_copy : (LinkMsg.copyPart 0 64 0 (List.replicate 64 0)).wf = true ∧
    (LinkMsg.copyPart 0 64 1 (List.replicate 64 0)).wf = false := by decide
theorem test_wf_certificate : (Instr.getCertificate 0 0 65536 0 []).wf = false ∧ (Instr.getCertificate 0 0 0 65535 []).wf = true := by
  decide
theorem test_wf_unit : (Instr.pllLock 58).wf = true ∧ (Instr.pllLock 59).wf = false := by decide
theorem test_wf_readings : (Instr.sensorConversion [] [] 0 0 0 0).wf = false := by decide
theorem test_wf_boot : (Instr.bootPhase
    { dirOk := (true, true), cfgOk := true, sigA := ⟨[], true, true⟩, sigB := ⟨[], true, true⟩, hbmFail := 0,
      failing := [(0, 272, 0)] }).wf = false := by decide

/-! ### Small states -/

/-- What a command leaves. -/
def after (i : Instr) (s : State) : State :=
  match exec i s with
  | .next u => u
  | _ => s

/-- Registers put into a state. -/
def withRegs (rs : List (Nat × Word)) (s : State) : State := rs.foldl (fun s r => s.setReg r.1 r.2) s

/-- The first page to the last, granted for reads, writes and images. -/
def allPages : Word := BitVec.ofNat 64 ((2 ^ 27 - 1) * 2 ^ 27 + 7 * 2 ^ 54)

/-- Every clock runs, boot is over, partition 0 holds field 0 and its context of slot 0 runs; regions 0 to 31 of HBM are
umber, and every page and the drawers are granted to the partition. -/
def base : State :=
  withRegs [(rClkEnable0, 0x03FFFFFFFFFFFFFF), (rClkEnable1, 1), (rBootStatus, 7), (rAccHbm 0x40 0, allPages),
      (rAccCsr 0x40, 0x30001), (rClassMap 0, 0x5555555555555555), (rPartCfg 0, 0x80)]
    { parts := [(0, { running := true })], ctxs := [(0, { alive := true, prog := true })], sec := { boot := 7 } }

/-- Bytes put into the memory of a state. -/
def withBytes (a : Nat) (bs : List Byte) (s : State) : State := s.putBytes a bs

theorem base_mem : MemOk base := by unfold MemOk; decide

/-! ### The bench -/

def iter0 : Iter := { tag := 0, next := 0, used := ⟨0, 0, 0, 0, 0⟩, order := 0 }

/-- The bench of cell 0 is about to fire `w` for tag 0. -/
def benchAt (w : Word) (r : Regs) (ts : List StoreTok) : State :=
  base.setBench 0 { prog := [w], regs := r, iters := [iter0], store := ts }

/-- A word of an opcode, with its fields given by position, width and value. -/
def bw (op : Nat) (fs : List (Nat × Nat × Nat)) : Word := BitVec.ofNat 64 (pack ((58, 6, op) :: fs))

def row (fs : List (Nat × Nat × Nat)) : Row := BitVec.ofNat 256 (pack fs)

def dataTok (v : Row) (valid : Bool) : Tok := { payload := v, tag := 0, valid := valid, epoch := false, kind := .data }

/-- The weight codebook of the worked example of 06: C4, code 15 the escape. -/
def book : Row := row ((([0, 0x3E80, 0x3F00, 0x3F40, 0x3F80, 0x3FC0, 0x4000, 0x4040,
    0xBE80, 0xBF00, 0xBF40, 0xBF80, 0xBFC0, 0xC000, 0xC040, 0x7FC0]).zipIdx).map (fun x => (16 * x.2, 16, x.1)))

/-- The block of that example: 40.0, 10.5, −0.3, 1.0, 0.5, −1.5, −25.0, 13.5 at their positions, BF16 in V4 and V5. -/
def qntState : State :=
  benchAt (bw opQNT [(34, 1, 1), (29, 5, 6), (24, 5, 4), (19, 5, 1), (14, 5, 2), (9, 5, 3), (4, 5, 0), (0, 4, 0)])
    { v := [(1, book), (2, 2), (4, row [(48, 16, 0x4220), (80, 16, 0x4128), (128, 16, 0xBE9A), (144, 16, 0x3F80),
        (160, 16, 0x3F00), (176, 16, 0xBFC0)]), (5, row [(16, 16, 0xC1C8), (208, 16, 0x4158)])] } []

/-- Worked example of R237: the codes, the exponent, the records and the counts. -/
theorem test_qnt_codes :
    let r := ((after (.qnt 0 0) { qntState with cells := qntState.cells }).bench 0).regs
    [3, 5, 8, 9, 10, 11, 17, 29].map (fun k => fld (r.vr 6) (4 * k) 4) = [15, 7, 0, 1, 0, 8, 15, 7] ∧ rowByte (r.vr 2) 0 = 2 ∧
    fld (r.vr 3) 0 32 = 0x80034220 ∧ fld (r.vr 3) 32 32 = 0x8011C1C8 := by decide +kernel

/-- The product table of the worked example of 06: entry = product × 2,048. -/
def exampleTable : Sparse PtEntry :=
  [(0, ptWrite 0), (38, ptWrite 2048), (66, ptWrite 1024), (76, ptWrite (BitVec.ofInt 16 (-3072))), (84, ptWrite 3072),
   (107, ptWrite (BitVec.ofInt 16 (-4096))), (112, ptWrite 0), (217, ptWrite 2048), (241, ptWrite (BitVec.ofInt 16 (-2048)))]

def qmulState : State :=
  benchAt (bw opQMUL [(35, 1, 1), (29, 5, 1), (22, 5, 2)])
    { v := [(1, row [(0, 4, 4), (4, 4, 2), (8, 4, 9), (12, 4, 0), (16, 4, 6), (20, 4, 12), (24, 4, 1), (28, 4, 11)]),
        (2, row [(0, 4, 5), (4, 4, 4), (8, 4, 13), (12, 4, 7), (16, 4, 2), (20, 4, 4), (24, 4, 15), (28, 4, 6)])],
      tables := exampleTable } []

/-- Worked example of R141: accumulator 0 holds −1,024. -/
theorem test_qmul_unit : (((after (.qmul 0 0) qmulState).bench 0).regs.ac 0).toInt = -1024 := by decide +kernel

def accxState : State :=
  benchAt (bw opACCX [(31, 5, 5), (25, 5, 4), (19, 5, 3)])
    { v := [(3, row [(0, 8, 0xFF), (32, 8, 2)]), (4, row [(0, 32, 0x3F400000)])], acc := [(0, BitVec.ofInt 32 (-1024))],
      texp := [(0, 0xF5)] } []

/-- Worked example of R156: 0.75 + (−1,024 × 2^−10) = −0.25. -/
theorem test_accx_lane : lane32 (((after (.accx 0 0) accxState).bench 0).regs.vr 5) 0 = 0xBE800000 := by decide +kernel

/-- The coefficients of the worked example of 07. -/
def coefRow : Sparse (BitVec 32) :=
  [(0, 0x3F600000), (1, 0x3E000000), (2, 0x3F7C0000), (3, 0x3C800000), (6, 0x3F800000), (7, 0x35800000), (8, 0x3F800000),
   (9, 0x3A800000)]

def updState : State :=
  { benchAt (bw opUPD [(33, 5, 0), (28, 5, 4), (23, 5, 6), (18, 5, 8)])
      { v := [(0, row [(0, 32, 0x3F000000)]), (4, row [(0, 16, 0x3DC0)]), (6, row [(0, 8, 40)]), (7, row [(0, 8, 96)]),
          (8, row [(0, 8, 0xFA), (8, 8, 0xF9)])] } [] with cabs := [(0, { coef := coefRow })] }

/-- Worked example of R280: the new weight is BF16 0x3DBE. -/
theorem test_upd_weight : lane16 (((after (.upd 0 0) updState).bench 0).regs.vr 4) 0 = 0x3DBE := by decide +kernel

/-! ### Witnesses: bench firings -/

/-- The bench of cell 0 about to fire an opcode whose fields are all 0: no port, no register written but V0. -/
def bareAt (op : Nat) (fs : List (Nat × Nat × Nat)) : State := benchAt (bw op fs) {} []

/-- The opcode fires on tokens of ports W and N (mask bits 0 and 1), and emits on E and S. -/
def portsAt (op : Nat) (valid : Bool) : State :=
  benchAt (bw op [(51, 5, 3), (46, 5, 12)]) {}
    [{ port := .w, tok := dataTok 5 valid }, { port := .n, tok := { dataTok 9 true with kind := .control } }]

/-- Every opcode fires, from registers alone, and no firing of it is a bubble. -/
theorem wit_firings : ∀ op ∈ firings.map (·.1), CanFire op 0 0 (bareAt op []) 0 iter0 ∧
    bubbles (bareAt op []) 0 0 iter0 = false ∧ (stageOf (firingOf (bareAt op []) 0 0 iter0)).isSome = true := by
  unfold CanFire NextFiring; decide +kernel

/-- Every opcode fires on two tokens, and as a bubble firing when one is invalid. -/
theorem wit_firings_tokens : ∀ op ∈ firings.map (·.1), ∀ v : Bool, CanFire op 0 0 (portsAt op v) 0 iter0 ∧
    bubbles (portsAt op v) 0 0 iter0 = !v ∧ (stageOf (firingOf (portsAt op v) 0 0 iter0)).isSome = true := by
  unfold CanFire NextFiring; decide +kernel

/-- The clauses of LDPT: the exponent, and the entries of a row other than the one that is loaded. -/
theorem wit_ldpt : fld (firingOf (bareAt opLDPT [(36, 1, 1)]) 0 0 iter0).word 36 1 = 1 ∧
    CanFire opLDPT 0 0 (bareAt opLDPT [(36, 1, 1)]) 0 iter0 ∧ fld (firingOf (bareAt opLDPT []) 0 0 iter0).word 36 1 = 0 ∧
    16 / 16 ≠ fld (firingOf (bareAt opLDPT []) 0 0 iter0).word 32 4 := by unfold CanFire NextFiring; decide +kernel

/-- ACCZ with a mask of accumulator 15 alone. -/
theorem wit_accz : let x := firingOf (bareAt opACCZ [(0, 16, 0x8000)]) 0 0 iter0
    CanFire opACCZ 0 0 (bareAt opACCZ [(0, 16, 0x8000)]) 0 iter0 ∧ fld x.word 15 1 = 1 ∧ fld x.word 0 1 = 0 := by
  unfold CanFire NextFiring; decide +kernel

/-- ADD of BF16 lanes, narrowing and widening. -/
theorem wit_add_cv : ∀ cv ∈ [1, 2], let s := bareAt opADD [(37, 2, 1), (11, 2, cv)]
    CanFire opADD 0 0 s 0 iter0 ∧ bubbles s 0 0 iter0 = false ∧ fld (firingOf s 0 0 iter0).word 11 2 = cv ∧ vty (firingOf s 0 0 iter0) = 1 := by
  unfold CanFire NextFiring; decide +kernel

/-- What makes the exponential overflow and the special inputs of a negative number. -/
theorem wit_lane_functions : (1 : Nat) ≠ 0 ∧ 9 ≤ ((1 : Nat).log2 : Int) + 9 := by decide

/-- STEER with one control token and one data token. -/
theorem wit_steer : let x := firingOf (portsAt opSTEER true) 0 0 iter0
    CanFire opSTEER 0 0 (portsAt opSTEER true) 0 iter0 ∧ bubbles (portsAt opSTEER true) 0 0 iter0 = false ∧
    x.consumed.find? (fun k => k.kind == .control) = some { dataTok 9 true with kind := .control } ∧
    x.consumed.find? (fun k => k.kind != .control) = some (dataTok 5 true) ∧ (emitPorts x.word)[1]? = some .s := by
  unfold CanFire NextFiring; decide +kernel

/-- MERGE and TAGX into a register (WR 1) and to a port. -/
theorem wit_merge_tagx : ∀ op ∈ [opMERGE, opTAGX], ∀ wr ∈ [0, 1], let s := bareAt op [(38, 1, wr), (46, 5, 4)]
    CanFire op 0 0 s 0 iter0 ∧ bubbles s 0 0 iter0 = false ∧ fld (firingOf s 0 0 iter0).word 38 1 = wr := by
  unfold CanFire NextFiring; decide +kernel

/-- The firing of the worked example of QNT meets what its statement asks. -/
theorem wit_qnt : let w := (firingOf qntState 0 0 iter0).word
    CanFire opQNT 0 0 qntState 0 iter0 ∧ bubbles qntState 0 0 iter0 = false ∧ fld w 14 5 ≠ fld w 29 5 ∧
    fld w 14 5 ≠ fld w 9 5 ∧ fld w 29 5 ≠ fld w 9 5 ∧ (fld w 38 1 == 1) = false ∧ fld w 36 2 % 2 = 0 := by
  unfold CanFire NextFiring; decide +kernel

/-- DQT with FP32 results and with BF16 results. -/
theorem wit_dqt : ∀ ot ∈ [0, 1], let s := bareAt opDQT [(34, 1, ot)]
    CanFire opDQT 0 0 s 0 iter0 ∧ bubbles s 0 0 iter0 = false ∧ fld (firingOf s 0 0 iter0).word 34 1 = ot := by
  unfold CanFire NextFiring; decide +kernel

/-- The firing of the worked example of UPD, and one of UPDS. -/
theorem wit_upd : let w := (firingOf updState 0 0 iter0).word
    let s := bareAt opUPDS [(13, 5, 9), (28, 5, 4), (23, 5, 6), (18, 5, 8)]
    (CanFire opUPD 0 0 updState 0 iter0 ∧ bubbles updState 0 0 iter0 = false ∧ fld w 28 5 % 2 = 0 ∧ fld w 23 5 % 2 = 0 ∧
      fld w 28 5 ≠ fld w 23 5 ∧ fld w 18 5 ≠ fld w 28 5 ∧ fld w 18 5 ≠ fld w 28 5 + 1) ∧
    CanFire opUPDS 0 0 s 0 iter0 ∧ bubbles s 0 0 iter0 = false ∧ (let w := (firingOf s 0 0 iter0).word
      fld w 13 5 ≠ fld w 28 5 ∧ fld w 13 5 ≠ fld w 28 5 + 1 ∧ fld w 13 5 ≠ fld w 23 5 ∧ fld w 13 5 ≠ fld w 23 5 + 1 ∧
      fld w 13 5 ≠ fld w 18 5) := by
  unfold CanFire NextFiring; decide +kernel

/-- A firing leaves a next state (the frame of the firings). -/
theorem wit_firing_frame : ∃ u, exec (.qmul 0 0) qmulState = .next u := ⟨_, rfl⟩

/-- ACCX, the vector instructions and UPDS in every type and half are firings that need nothing else. -/
theorem wit_types : ∀ op ∈ [opFMA, opADD, opMUL, opMAX, opCMP, opSEL], ∀ ty ∈ [0, 1, 2, 3],
    CanFire op 0 0 (bareAt op [(37, 2, ty)]) 0 iter0 ∧ vty (firingOf (bareAt op [(37, 2, ty)]) 0 0 iter0) = ty := by
  unfold CanFire NextFiring; decide +kernel

/-- Every firing of partition 0 whose number is even is sampled (CHECK 4: every second); the capture slots as given. -/
def sampledAt (op : Nat) (c0 c1 : Option Capture) : State :=
  let s := (bareAt op []).setPart 0 { (bareAt op []).part 0 with check := 4 }
  s.setBench 0 { s.bench 0 with cap0 := c0, cap1 := c1 }

/-- The capture that a sampled firing takes. -/
def someCapture : Option Capture := ((after (.fma 0 0) (sampledAt opFMA none none)).bench 0).cap0

/-- Sampled firings with free slots, with one, with none; a firing that is not sampled. -/
theorem wit_sampling : ∀ op ∈ firings.map (·.1), someCapture.isSome = true ∧
    (∀ s ∈ [sampledAt op none none, sampledAt op someCapture none, sampledAt op someCapture someCapture],
      NextFiring op 0 0 s 0 iter0 ∧ (stageOf (firingOf s 0 0 iter0)).isSome = true ∧ steerClash (firingOf s 0 0 iter0) = false ∧
      roomOut (firingOf s 0 0 iter0) (s.bench 0) (bubbles s 0 0 iter0) = true ∧ samples s 0 0 iter0 = true) ∧
    samples (bareAt op []) 0 0 iter0 = false := by
  unfold NextFiring; decide +kernel

/-- A QMUL reads an entry whose parity is bad, and one whose residue is: with integrity window closed and no retirement due. -/
def faultyAt (e : PtEntry) : State :=
  benchAt (bw opQMUL [(35, 1, 1), (29, 5, 1), (22, 5, 2)]) { v := [(1, row [(0, 4, 1)]), (2, row [(0, 4, 1)])], tables := [(17, e)] } []

theorem wit_firing_faults :
    (∀ x ∈ [(({ ptWrite 0 with par := true } : PtEntry), 2), ({ ptWrite 0 with res := 1, par := true }, 1)],
      let s := faultyAt x.1
      CanFire opQMUL 0 0 s 0 iter0 ∧ bubbles s 0 0 iter0 = false ∧
      ((stageOf (firingOf s 0 0 iter0)).map (fun o => o.faults.map (·.1))) = some [x.2] ∧
      Reports s 0 ∧ (s.part 0).window = false ∧ sget 0 s.integ.faults (physKey s 0) + 1 < s.rf rRetireCtrl 0 4) := by
  unfold CanFire NextFiring Reports; decide +kernel

/-- A STEER whose two tokens are of one kind. -/
theorem wit_steer_clash :
    let s := benchAt (bw opSTEER [(51, 5, 3), (46, 5, 12)]) {} [{ port := .w, tok := dataTok 5 true }, { port := .n, tok := dataTok 9 true }]
    NextFiring opSTEER 0 0 s 0 iter0 ∧ steerClash (firingOf s 0 0 iter0) = true ∧ Reports s 0 := by
  unfold NextFiring Reports; decide +kernel

/-! ### Witnesses: tokens, switches, the change of a cell -/

def withBench (b : Bench) : State := base.setBench 0 b

/-- A program whose only word names port W. -/
def namesW : Bench := { prog := [bw opFMA [(51, 5, 1)]] }

def wTok : Tok := dataTok 1 true
def finTok (e : Bool) : Tok := { payload := 0, tag := 0, valid := true, epoch := e, kind := .fin }

/-- TOKEN_ARRIVE: a new iteration; one in flight; no room for a new one; a port whose tokens are all there; a full store, without
and with an iteration of the tag. -/
theorem wit_token_arrive :
    let b0 : Bench := { namesW with inQ := ⟨[wTok], [], [], [], []⟩ }
    let b1 : Bench := { b0 with iters := [iter0] }
    let b2 : Bench := { b0 with iters := List.replicate 64 { iter0 with tag := 1 } }
    let b3 : Bench := { b1 with iters := [{ iter0 with used := ⟨1, 0, 0, 0, 0⟩ }] }
    let full := List.replicate 64 { port := .n, tok := wTok : StoreTok }
    (∀ b ∈ [b0, b1, b2, b3, { b0 with store := full }, { b1 with store := full }], cellRuns (withBench b) 0 = true ∧
      (withBench b).bench 0 = b ∧ fiveGet b.inQ .w = wTok :: [] ∧ wTok.kind = .data ∧
      wTok.epoch = cellEpoch (withBench b) 0 ∧ namedPort b .w = true) ∧
    (b0.store.length < 64 ∧ b1.store.length < 64 ∧ 64 ≤ full.length) ∧
    (b0.iters.find? (fun i => i.tag == wTok.tag) = none ∧ b0.iters.length < 64) ∧
    (b1.iters.find? (fun i => i.tag == wTok.tag) = some iter0 ∧ received b1 iter0 .w < portCount b1 .w) ∧
    (b2.iters.find? (fun i => i.tag == wTok.tag) = none ∧ 64 ≤ b2.iters.length) ∧
    (∃ it, b3.iters.find? (fun i => i.tag == wTok.tag) = some it ∧ portCount b3 .w ≤ received b3 it .w) :=
  ⟨by decide +kernel, by decide +kernel, by decide +kernel, by decide +kernel, by decide +kernel, ⟨_, rfl, by decide +kernel⟩⟩

/-- The three fabric faults of tokens. -/
theorem wit_fabric_faults :
    let wrong : Tok := { wTok with epoch := true }
    let b0 : Bench := { namesW with inQ := ⟨[wrong], [], [], [], []⟩ }
    let b1 : Bench := { namesW with inQ := ⟨[], [wTok], [], [], []⟩ }
    let b2 : Bench := { namesW with inQ := ⟨[finTok false], [], [], [], []⟩, passedP := ⟨true, false, false, false, false⟩ }
    (∀ b ∈ [b0, b1, b2], cellRuns (withBench b) 0 = true ∧ partOfCell (withBench b) 0 = some 0 ∧
      testing (withBench b) 0 = false ∧ ((withBench b).part 0).slot < 8 ∧ (withBench b).bench 0 = b) ∧
    (fireable wrong = true ∧ wrong.epoch ≠ cellEpoch (withBench b0) 0) ∧
    (fireable wTok = true ∧ wTok.epoch = cellEpoch (withBench b1) 0 ∧ namedPort b1 .n = false) ∧
    ((finTok false).kind = .fin ∧ namedPort b2 .w = true ∧ fiveGet b2.passedP .w = true) := by decide +kernel

/-- GO has been sent for the present jig, and the spare slot of cabinet 0 is ready. -/
def readyNext (s : State) : State :=
  (withRegs [(rStep 0 0 oJigStatus, 2 ^ 33)] s).setCab 0 { slot1 := { st := 2, next := true } }

/-- END_TOKEN_ARRIVE on a port that is not named and on one that is, BENCH_END_TOKEN, DRAWER_END_TOKEN. -/
theorem wit_end_tokens :
    let b0 : Bench := { inQ := ⟨[finTok false], [], [], [], []⟩ }
    let b1 : Bench := { namesW with inQ := ⟨[finTok false], [], [], [], []⟩ }
    let b2 : Bench := { prog := [bw opFMA [(51, 5, 1), (46, 5, 2)]], passedP := ⟨true, false, false, false, false⟩ }
    (cellRuns (withBench b0) 0 = true ∧ namedPort b0 .w = false) ∧
    (namedPort b1 .w = true ∧ fiveGet b1.passedP .w = false) ∧
    (cellRuns (withBench b2) 0 = true ∧ (∀ p, namedPort b2 p = true → fiveGet b2.passedP p = true) ∧ endPorts b2 ≠ [] ∧
      (∀ p ∈ endPorts b2, (fiveGet b2.outQ p).length < 4)) ∧
    (let s := readyNext base
     partOfCell s 0 = some 0 ∧ cellRuns s 0 = true ∧ goBit s 0 = true ∧ (s.ctx 0).rerun ≠ 1 ∧ readsDone (s.dr 0) = true ∧
       (s.dr 0).endSent = false ∧ (s.bench 0).ahead = false ∧ (s.cab (0 / 256)).nextReady = true ∧
       (s.bench 0).inQ.d.length < 4) := by
  refine ⟨by decide +kernel, by decide +kernel, ⟨by decide +kernel, ?_, by decide +kernel, by decide +kernel⟩, by decide +kernel⟩
  intro p; cases p <;> decide +kernel

/-- Cell 1 sends east to west to cell 0: ROUTE of cell 0 hands the token to its bench, whose queue may be full, and to its
channel west; a token may wait before it. -/
def channelState (full : Bool) (waits : List Tok) (k : Tok) : State :=
  (base.setCell 1 { sw := { hop := ⟨[k], [], [], []⟩ } }).setCell 0
    { bench := { inQ := ⟨[], [], if full then [wTok, wTok, wTok, wTok] else [], [], []⟩ },
      sw := { route := 0x4000, wait := ⟨[], [], waits, []⟩ } }

theorem wit_channels : ∀ full : Bool, ∀ waits ∈ [[], [wTok, wTok, wTok]], ∀ k ∈ [wTok, finTok true],
    let s := channelState full waits k
    cellRuns s 0 = true ∧ fourGet (s.sw 0).wait .e = waits ∧ waits.length < 4 ∧ chanTo s 0 .e = some (.inl 1) ∧
    chanHead s 1 (opposite .e) = some k ∧ chanQueue s 1 (opposite .e) = k :: [] ∧
    (k.kind = .fin ∨ k.kind = .config ∨ k.epoch = cellEpoch s 0) ∧
    routeBench (s.sw 0).route .e = true ∧ forkRoom s 0 .e = !full := by decide +kernel

theorem wit_fork_pass :
    let s := base.setCell 0 { sw := { wait := ⟨[], [], [wTok, wTok], []⟩, route := 0x4000 } }
    cellRuns s 0 = true ∧ fourGet (s.sw 0).wait .e = [wTok, wTok] ∧ forkRoom s 0 .e = true := by decide +kernel

/-- CONFIG_ROW before the first row and before the last, and while the bench has not passed its end tokens; INSTALL behind it;
DRAWER_PART. -/
theorem wit_config_rows :
    let at_ := fun (b : Bench) => (readyNext base).setCell 0 { bench := b, dr := { endSent := true } }
    let all := fun (s : State) => partOfCell s 0 = some 0 ∧ rowsDue s 0 0 = true ∧
      (s.bench 0).cfg + configsIn (s.bench 0) < benchRows (nextCfg s 0) ∧ (s.bench 0).inQ.d.length < 4
    (∀ k ∈ [0, 1], all (at_ { cfg := k }) ∧ ((at_ { cfg := k }).bench 0).inQ.d = [] ∧ rowsReady 0 { cfg := k } = true) ∧
    (∀ b ∈ [namesW, { cfg := 1, iters := [iter0] }], all (at_ b) ∧ rowsReady 0 b = false) := by decide +kernel

theorem wit_install :
    let s := (readyNext base).setCell 0 { bench := { cfg := 2 }, dr := { endSent := true } }
    cellRuns s 0 = true ∧ (s.bench 0).ahead = false ∧ (s.cab (0 / 256)).nextReady = true ∧
    (s.bench 0).cfg = benchRows (nextCfg s 0) ∧ (s.dr 0).taken = false ∧ writesDone (s.dr 0) = true ∧
    benchEnded (s.bench 0) = true ∧ partOfCell s 0 = some 0 ∧ cabHeld s 0 (0 / 256) = false ∧
    (s.dr 0).mode = (nextCfg s 0).mode ∧ (s.dr 0).mbase = (nextCfg s 0).mbase ∧ (s.dr 0).msize = (nextCfg s 0).msize ∧
    (s.dr 0).slot = (nextCfg s 0).slot := by decide +kernel

/-- A token of the wrong epoch on a channel, whose report can be written. -/
theorem wit_channel_fault :
    let k : Tok := { wTok with epoch := true }
    let s := channelState false [] k
    cellRuns s 0 = true ∧ partOfCell s 0 = some 0 ∧ Reports s 0 ∧ chanTo s 0 .e = some (.inl 1) ∧ chanHead s 1 .w = some k ∧
    fireable k = true ∧ k.epoch ≠ cellEpoch s 0 := by unfold Reports; decide +kernel

/-- The gate of port 0 is north of cell 2048: a token waits there, and its cell may be changing or its port stopped. -/
def gateState (b : Bench) (frozen : Bool) : State :=
  (base.setCell 2048 { bench := b, sw := { route := 0x2000 } }).setLink 0 { gateOut := [(0, [wTok])], frozen := frozen }

theorem wit_gate_channel :
    (∀ frozen : Bool, let s := gateState {} frozen
      cellRuns s 2048 = true ∧ chanTo s 2048 .n = some (.inr (0, 0)) ∧ sget [] (s.link 0).gateOut 0 = wTok :: [] ∧
      changing (s.bench 2048) = false ∧ (s.link 0).frozen = frozen ∧ forkRoom s 2048 .n = true ∧
      routeBench (s.sw 2048).route .n = true) ∧
    changing ((gateState { cfg := 1 } false).bench 2048) = true := by decide +kernel

/-- Cell 15 sends east over the boundary of its cabinet to cell 256, whose places are taken; the stages of the hop have room. -/
theorem wit_boundary_hop :
    let s := (base.setCell 256 { sw := { wait := ⟨[wTok, wTok, wTok, wTok], [], [], []⟩ } }).setCell 15
      { bench := { outQ := ⟨[], [], [wTok], [], []⟩ }, sw := { route := 0x40 } }
    cellRuns s 256 = true ∧ chanTo s 256 .w = some (.inl 15) ∧ hopStages s 15 .e = 3 ∧ placesHeld s 15 .e = 4 ∧
    (fourGet (s.sw 15).hop .e).length < hopStages s 15 .e ∧ routeOut (s.sw 15).route .e = 1 ∧ fieldRuns s (15 / 65536) = true := by
  decide +kernel

/-! ### Witnesses: the sequencers -/

/-- A control word of an opcode, with XA, XB and IMM. -/
def cw (op xa xb imm : Nat) : Word := BitVec.ofNat 64 (pack [(56, 8, op), (52, 4, xa), (48, 4, xb), (0, 48, imm)])

/-- Cabinet 0 stands at word 1 of a segment of four at 0x1000, which is this word; its registers are given. -/
def seqAtWord (w : Word) (xs : Sparse Word) (s : State) : State :=
  (s.putBytes 0x1008 (leBytes 8 w.toNat)).setCab 0 { seq := { x := xs, pos := 1, wait := 0, seg := 0x1000, len := 4 } }

def imm48 (v : Int) : Nat := (BitVec.ofInt 48 v).toNat
def imm32 (v : Int) : Nat := (BitVec.ofInt 32 v).toNat

theorem wit_control_words : ∀ op ∈ [cNOP, cLDI, cADDX], SeqReady op 0 (seqAtWord (cw op 13 14 0) [] base) 0 ∧
    (seqAtWord (cw op 13 14 0) [] base).hbmErr = [] := by unfold SeqReady Fetchable; decide +kernel

theorem wit_control_frame : ∃ u, exec (.wait 0) (seqAtWord (cw cWAIT 0 0 0) [] base) = .next u := ⟨_, rfl⟩

/-- Branches to the first and to the last word, not taken, and counting x13 down. -/
theorem wit_branches :
    let at_ := fun (cond : Nat) (d : Int) (v : Word) => seqAtWord (cw cBR 13 0 (cond * 2 ^ 45 + imm32 d)) [(13, v)] base
    (∀ d ∈ [(-1 : Int), 2], SeqReady cBR 0 (at_ 0 d 0) 0 ∧
      0 ≤ (((at_ 0 d 0).cab 0).seq.pos : Int) + toSigned (fld (wordOf (at_ 0 d 0) 0 0) 0 32) 32 ∧
      (((at_ 0 d 0).cab 0).seq.pos : Int) + toSigned (fld (wordOf (at_ 0 d 0) 0 0) 0 32) 32 < ((at_ 0 d 0).cab 0).seq.len) ∧
    (SeqReady cBR 0 (at_ 5 0 1) 0 ∧ fld (wordOf (at_ 5 0 1) 0 0) 45 3 = 5 ∧ cwXa (wordOf (at_ 5 0 1) 0 0) < 14 ∧
      xReg (at_ 5 0 1) 0 0 13 - 1 = 0) ∧
    (∀ cond ∈ [1, 2, 3, 4], fld (wordOf (at_ cond 0 0) 0 0) 45 3 = cond ∧ SeqReady cBR 0 (at_ cond 0 0) 0) := by
  unfold SeqReady Fetchable; decide +kernel

/-- The last word of page 0 is granted, a misaligned word faults, and so does a page that is not granted. -/
theorem wit_loads_stores : ∀ op ∈ [cLDX, cSTX],
    let at_ := fun (d : Int) => seqAtWord (cw op 2 1 (imm48 d)) [(1, 0x2000)] base
    let none_ := withRegs [(rAccHbm 0x40 0, BitVec.ofNat 64 (2 ^ 27 + 7 * 2 ^ 54))] (at_ 0)
    let addr := fun (s : State) => (xReg s 0 0 (cwXb (wordOf s 0 0)) +
      BitVec.ofInt 64 (toSigned (fld (wordOf s 0 0) 0 48) 48)).toNat
    (MemOk (at_ (-8)) ∧ (at_ (-8)).hbmErr = [] ∧ SeqReady op 0 (at_ (-8)) 0 ∧ addr (at_ (-8)) % 8 = 0 ∧
      (∀ k ∈ [kRead, kWrite], hbmDenied (at_ (-8)) (mPart (at_ (-8)) 0) k (addr (at_ (-8))) 8 = none)) ∧
    SlotsFree (seqFetch 0 0 (at_ (-8))).2 0 (addr (at_ (-8))) ∧ testHolds (at_ (-8)) 0 (addr (at_ (-8))) 8 = false ∧
    (testing (at_ 4) 0 = false ∧ SeqReady op 0 (at_ 4) 0 ∧ addr (at_ 4) % 8 ≠ 0) ∧
    (testing none_ 0 = false ∧ SeqReady op 0 none_ 0 ∧
      ∀ k ∈ [kRead, kWrite], hbmDenied none_ (mPart none_ 0) k (addr none_) 8 ≠ none) := by
  unfold MemOk SeqReady Fetchable SlotsFree; decide +kernel

/-- LDX with its line in the data cache; and with none there, its own word cached, and the slots of its bank taken. -/
theorem wit_load_hit_and_wait :
    let s := (seqFetch 0 0 (seqAtWord (cw cLDX 2 1 (imm48 (-8))) [(1, 0x2000)] base)).2
    let hit := s.setCab 0 { s.cab 0 with dcache := [(0x1FC0 / 64 % dcSets, [{ addr := 0x1FC0, data := zeros 64 }])] }
    let full := s.setPlinth (stackOf 0x1FC0) { s.plinth (stackOf 0x1FC0) with slots := List.replicate 8 (0, 0x1FC0) }
    (∀ u ∈ [hit, full], MemOk u ∧ u.hbmErr = [] ∧ SeqReady cLDX 0 u 0 ∧ fetchHit u 0 = true ∧
      (xReg u 0 0 (cwXb (wordOf u 0 0)) + BitVec.ofInt 64 (toSigned (fld (wordOf u 0 0) 0 48) 48)).toNat = 0x1FF8 ∧
      hbmDenied u (mPart u 0) kRead 0x1FF8 8 = none) ∧
    (cacheLine (hit.cab 0).dcache dcSets 0x1FF8).isSome = true ∧
    cacheLine (full.cab 0).dcache dcSets 0x1FF8 = none ∧ lineReady full 0 0x1FF8 = false := by
  unfold MemOk SeqReady Fetchable; decide +kernel

/-- A store of a field test into the tensor table or the leaves. -/
theorem wit_store_held :
    let s := withRegs [(rStep 0 0 oLeafBase, 0x2000), (rStep 0 0 oLeafSize, 0x1000)] (seqAtWord (cw cSTX 2 1 0) [(1, 0x2000)] base)
    let t := s.setPart 0 { s.part 0 with test := 2 }
    MemOk t ∧ t.hbmErr = [] ∧ SeqReady cSTX 0 t 0 ∧
    (xReg t 0 0 (cwXb (wordOf t 0 0)) + BitVec.ofInt 64 (toSigned (fld (wordOf t 0 0) 0 48) 48)).toNat = 0x2000 ∧
    hbmDenied t (mPart t 0) kWrite 0x2000 8 = none ∧ testHolds t 0 0x2000 8 = true := by
  unfold MemOk SeqReady Fetchable; decide +kernel

/-- Branches of every condition one word before the segment and one word behind it. -/
theorem wit_taken_faults : ∀ x ∈ [((0 : Nat), (0 : Word)), (1, 0), (2, 1), (3, -1), (4, 0), (5, 2)], ∀ d ∈ [(-2 : Int), 3],
    let s := seqAtWord (cw cBR 13 0 (x.1 * 2 ^ 45 + imm32 d)) [(13, x.2)] base
    let v := if x.1 = 5 then xReg s 0 0 (cwXa (wordOf s 0 0)) - 1 else xReg s 0 0 (cwXa (wordOf s 0 0))
    SeqReady cBR 0 s 0 ∧ testing s 0 = false ∧ fld (wordOf s 0 0) 45 3 = x.1 ∧ cwXa (wordOf s 0 0) = 13 ∧
    (x.1 == 0 || (x.1 == 1 && v == 0) || (x.1 == 2 && v != 0) || (x.1 == 3 && v.toInt < 0) || (x.1 == 4 && 0 ≤ v.toInt)
      || (x.1 == 5 && v != 0)) = true ∧ toSigned (fld (wordOf s 0 0) 0 32) 32 = d := by
  unfold SeqReady Fetchable; decide +kernel

/-- Branches one word before the segment and one word behind it. -/
theorem wit_branch_faults : ∀ d ∈ [(-2 : Int), 3], let s := seqAtWord (cw cBR 0 0 (imm32 d)) [] base
    SeqReady cBR 0 s 0 ∧ testing s 0 = false ∧ fld (wordOf s 0 0) 45 3 = 0 ∧
    ((s.cab 0).seq.pos + toSigned (fld (wordOf s 0 0) 0 32) 32 < (0 : Int) ∨
      ((s.cab 0).seq.len : Int) ≤ (s.cab 0).seq.pos + toSigned (fld (wordOf s 0 0) 0 32) 32) := by
  unfold SeqReady Fetchable; decide +kernel

/-- An event and a semaphore of the running context. -/
def withEvSem (e v : BitVec 32) (s : State) : State := s.setCtx 0 { s.ctx 0 with ev := [(255, e)], sem := [(63, v)] }

theorem wit_events :
    let at_ := fun (op n : Nat) (e : BitVec 32) => withEvSem e 0 (seqAtWord (cw op 1 0 (n * 256 + 255)) [(1, 7)] base)
    (SeqReady cWAIT 0 (at_ cWAIT 0 7) 0 ∧ fld (xReg (at_ cWAIT 0 7) 0 0 (cwXa (wordOf (at_ cWAIT 0 7) 0 0))) 0 32 ≤
      (sget 0 ((at_ cWAIT 0 7).ctx 0).ev (fld (wordOf (at_ cWAIT 0 7) 0 0) 0 8)).toNat) ∧
    (SeqReady cWAIT 0 (at_ cWAIT 0 6) 0 ∧ (sget 0 ((at_ cWAIT 0 6).ctx 0).ev (fld (wordOf (at_ cWAIT 0 6) 0 0) 0 8)).toNat <
      fld (xReg (at_ cWAIT 0 6) 0 0 (cwXa (wordOf (at_ cWAIT 0 6) 0 0))) 0 32) ∧
    SeqReady cSIGNAL 0 (at_ cSIGNAL 2 0xFFFFFFFF) 0 := by unfold SeqReady Fetchable; decide +kernel

/-- SEM.P and SEM.V of one unit: of 1 and of 0, and up to the largest value and past it. -/
theorem wit_semaphores :
    let at_ := fun (op : Nat) (v : BitVec 32) => withEvSem 0 v (seqAtWord (cw op 0 0 (256 + 63)) [] base)
    let n := fun (s : State) => fld (wordOf s 0 0) 8 32
    let i := fun (s : State) => fld (wordOf s 0 0) 0 6
    (∀ s ∈ [at_ cSEMP 1, at_ cSEMP 0], SeqReady cSEMP 0 s 0 ∧ (s.ctx 0).semQ.all (fun x => x.sem != i s) = true) ∧
    n (at_ cSEMP 1) ≤ semValue (at_ cSEMP 1) 0 (i (at_ cSEMP 1)) ∧ semValue (at_ cSEMP 0) 0 (i (at_ cSEMP 0)) < n (at_ cSEMP 0) ∧
    (∀ s ∈ [at_ cSEMV 0xFFFFFFFE, at_ cSEMV 0xFFFFFFFF], SeqReady cSEMV 0 s 0 ∧
      (s.ctx 0).semQ.all (fun x => x.sem != i s) = true ∧ testing s 0 = false) ∧
    semValue (at_ cSEMV 0xFFFFFFFE) 0 63 + n (at_ cSEMV 0xFFFFFFFE) ≤ 0xFFFFFFFF ∧
    0xFFFFFFFF < semValue (at_ cSEMV 0xFFFFFFFF) 0 63 + n (at_ cSEMV 0xFFFFFFFF) := by unfold SeqReady Fetchable; decide +kernel

/-- SEM.V to a semaphore that one, or two, wait for: the first is covered, and the second not; or the first is not. -/
theorem wit_semaphore_waiters :
    let at_ := fun (counts : List Nat) =>
      let s := (withEvSem 0 0 (seqAtWord (cw cSEMV 0 0 (256 + 63)) [] base)).setCab 1 { seq := { wait := 3, len := 1 } }
      let s := s.setCab 2 { seq := { wait := 3, len := 1 } }
      s.setCtx 0 { s.ctx 0 with semQ := counts.zipIdx.map (fun x => { cab := x.2 + 1, sem := 63, count := x.1 }) }
    (∀ counts ∈ [[1], [1, 1], [2]], let s := at_ counts
      SeqReady cSEMV 0 s 0 ∧ semValue s 0 63 + fld (wordOf s 0 0) 8 32 = 1 ∧
      (s.ctx 0).semQ.find? (fun x => x.sem == 63) = some { cab := 1, sem := 63, count := counts.headD 0 } ∧
      (s.cab 1).seq.wait = 3) ∧
    (let s := at_ [1, 1]
     ((s.ctx 0).semQ.erase { cab := 1, sem := 63, count := 1 }).find? (fun x => x.sem == 63) = some { cab := 2, sem := 63, count := 1 } ∧
     (s.cab 2).seq.wait = 3) := by unfold SeqReady Fetchable; decide +kernel

theorem wit_stop : let s := seqAtWord (cw cSTOP 0 0 0) [] base
    SeqReady cSTOP 0 s 0 ∧ (s.cab 0).seq.issue = none ∧
    (takers s 0 (behind s 0 (s.cab 0))).all (fun k => k.1 == 0 || k.2.seq.issue.isNone) = true := by
  unfold SeqReady Fetchable; decide +kernel

/-- The header of a list of one descriptor. -/
def listHead1 : List Byte := leBytes 8 (pack [(0, 32, 1)])

/-- STRM.START of a list of one descriptor, on engine 255 after GO, and before GO. -/
def streamState (go : Bool) (lists : List EList) : State :=
  (withRegs [(rStep 0 0 oJigStatus, if go then 2 ^ 33 else 0)]
    ((seqAtWord (cw cSTRM 1 0 0x71F) [(1, 0x2000)] base).putBytes 0x2000 listHead1)).setEdge 255 { lists := lists }

theorem wit_stream :
    let l : EList := { id := 0, addr := 0, part := 0, slot := 0, next := 0, last := 1, done := 0, count := 1, sig := none }
    (∀ ls ∈ [[], List.replicate 15 l], let s := streamState true ls
      SeqReady cSTRM 0 s 0 ∧ goSent s 0 (s.cab 0) = true ∧ (s.edge 255).lists.length < 16 ∧ s.hbmErr = [] ∧
      fld (wordOf s 0 0) 8 3 * 32 + fld (wordOf s 0 0) 0 5 = 255 ∧ hbmDenied s (mPart s 0) kRead 0x2000 64 = none ∧
      listHeader 0x2000 (bytesIn s 0x2000 64) = some (1, none)) ∧
    (SeqReady cSTRM 0 (streamState true (List.replicate 16 l)) 0 ∧
      goSent (streamState true (List.replicate 16 l)) 0 ((streamState true (List.replicate 16 l)).cab 0) = true) ∧
    (SeqReady cSTRM 0 (streamState false []) 0 ∧ goSent (streamState false []) 0 ((streamState false []).cab 0) = false) := by
  unfold SeqReady Fetchable; decide +kernel

/-- A partition-wide instruction, its step in a state. -/
def wideAt (op imm : Nat) (st : Nat) : State :=
  withRegs [(rStep 0 0 oStepStatus, BitVec.ofNat 64 st)] (seqAtWord (cw op (if op = cBEGIN then 0 else 1) 0 imm) [(1, 0x4000)] base)

theorem wit_bar_and_fills :
    Joins cBAR 0 (wideAt cBAR 255 0) 0 ∧
    (∀ op ∈ [cJIGNEXT, cJIGLOAD], let s := wideAt op 0 0
      Joins op 0 s 0 ∧ fld (issueIn s 0 0).word 0 1 = 0 ∧
      (partCabs (arrived s 0 0) 0).all (fun d => ((arrived s 0 0).cab d).spare.free) = true) := by
  unfold Joins SeqReady Fetchable; decide +kernel

/-- JIG.LOAD with IMM[0] 1: no image named, one that fills, one that is ready for a switch. -/
theorem wit_jig_load_ready : ∀ x ∈ [(0, true, false), (1, false, true), (2, false, false)],
    let s := (wideAt cJIGLOAD 1 0)
    let s := s.setCab 0 { s.cab 0 with slot1 := { st := x.1, next := true } }
    let made := (takers (arrived s 0 0) 0 (sideIn s 0 0)).map (fun e => e.2.readied)
    Joins cJIGLOAD 0 s 0 ∧ fld (issueIn s 0 0).word 0 1 = 1 ∧ testing s 0 = false ∧ made.any Slot.free = x.2.1 ∧
    made.any (fun y => y.st == 1) = x.2.2 ∧ (x.1 = 2 → made.any (fun y => y.next) = true) := by
  unfold Joins SeqReady Fetchable; decide +kernel

/-- A step in DISCARDING with a retry to follow. -/
def retrying : State := (wideAt cBEGIN 1 4).setCtx 0 { (wideAt cBEGIN 1 4).ctx 0 with retry := true }

/-- STEP.BEGIN in IDLE and for a retry. -/
theorem wit_step_begin :
    (∀ s ∈ [wideAt cBEGIN 1 0, retrying], Joins cBEGIN 0 s 0 ∧ ringFull s 0 = false ∧ testing s 0 = false) ∧
    stepState (wideAt cBEGIN 1 0) 0 = sIdle ∧ (stepState retrying 0 = sDiscarding ∧ (retrying.ctx 0).retry = true) := by
  unfold Joins SeqReady Fetchable; decide +kernel

/-- STEP.VOTE, forced and not, and STEP.DISCARD in RUNNING; STEP.VOTE given again. -/
theorem wit_step_votes :
    (∀ forced ∈ [0, 1], ∀ op ∈ [cVOTE, cDISCARD], let s := wideAt op (if op = cVOTE then forced else 0) 1
      Joins op 0 s 0 ∧ stepState s 0 = sRunning ∧ s.hbmErr = [] ∧ testing s 0 = false) ∧
    (let s := (withRegs [(rStep 0 0 oVoteCtrl, 0)] (arrived (wideAt cVOTE 0 1) 0 0))
     Waits cVOTE 0 s 0 ∧ stepState s 0 = sRunning ∧ allAt s 0 [cVOTE, cDISCARD] = true ∧ voteReady s 0 = true ∧
      stackHeld s 0 = false ∧ s.hbmErr = [] ∧ (s.ctx 0).held = none ∧ voteRoot s 0 = false) := by
  unfold Joins Waits SeqReady Fetchable; decide +kernel

/-- A state in VOTING at an instruction, with a vote result held. -/
def decided (op : Nat) (r : Bool × Bool) : State :=
  (wideAt op 0 2).setCtx 0 { (wideAt op 0 2).ctx 0 with held := some r }

/-- A vote result is held: clean, clean with a not-a-number, unclean with one, unclean with retries left and without; for
STEP.COMMIT as it arrives. -/
theorem wit_commit_arrives :
    ∀ e ∈ [((true, false), (0 : Nat)), ((true, true), 0), ((false, true), 0), ((false, false), 0), ((false, false), 2)],
      let s := withRegs [(rStep 0 0 oStepCtrl, BitVec.ofNat 64 e.2)] (decided cCOMMIT e.1)
      Joins cCOMMIT 0 s 0 ∧ allAt (arrived s 0 0) 0 [cCOMMIT, cDISCARD] = true ∧ stepState s 0 = sVoting ∧
      (s.ctx 0).voteReq = false ∧ testing s 0 = false ∧ (s.ctx 0).held = some e.1 ∧ stepRetries s 0 = 0 ∧
      s.stepRf 0 oStepCtrl 0 2 = e.2 := by
  unfold Joins SeqReady Fetchable; decide +kernel

/-- The same for STEP.COMMIT and STEP.DISCARD again. -/
theorem wit_commit_again : ∀ op ∈ [cCOMMIT, cDISCARD],
    ∀ e ∈ [((true, false), (0 : Nat)), ((true, true), 0), ((false, true), 0), ((false, false), 0), ((false, false), 2)],
      let u := arrived (withRegs [(rStep 0 0 oStepCtrl, BitVec.ofNat 64 e.2)] (decided op e.1)) 0 0
      Waits op 0 u 0 ∧ allAt u 0 [cCOMMIT, cDISCARD] = true ∧ stepState u 0 = sVoting ∧
      (u.ctx 0).voteReq = false ∧ testing u 0 = false ∧ (u.ctx 0).held = some e.1 ∧ stepRetries u 0 = 0 ∧
      u.stepRf 0 oStepCtrl 0 2 = e.2 := by
  unfold Waits Fetchable; decide +kernel

/-! ### Witnesses: loads, GO, votes -/

def fillState (img : List Byte) : State :=
  (base.putBytes 0x8000 img).setCtx 0 { base.ctx 0 with fill := some (fNext, 0x8000) }

/-- An image of zeros is refused: its magic number is wrong. -/
theorem wit_slot_fill_refused : let s := fillState []
    partOn s 0 = true ∧ stands s 0 = false ∧ (s.part 0).slot < 8 ∧ (s.ctx 0).fill = some (fNext, 0x8000) ∧
    ∃ bad, (readImage 0 0x8000 (s.ctx 0).fillIn s).1 = some bad := by
  refine ⟨by decide +kernel, by decide +kernel, by decide +kernel, by decide +kernel, ?_⟩
  exact Option.isSome_iff_exists.mp (by decide +kernel)

/-- Every cabinet has switched to the image at 0x8000. -/
def switched : State :=
  { base with cabs := (List.range 256).map (fun c => (c, { slot0 := { st := 2, addr := 0x8000, next := true } })) }

theorem wit_go : partOn switched 0 = true ∧ stands switched 0 = false ∧ (switched.part 0).slot < 8 ∧
    (switched.ctx 0).load = none ∧ switching switched 0 = true ∧ allSwitched switched 0 = true ∧
    (cellsOf switched 0).all (cellQuiet switched) = true ∧ listsRun switched 0 = false ∧
    holdsBegin switched (curImage switched 0) = false ∧ scanWaits switched 0 = false ∧ (switched.ctx 0).skipped = 0 ∧
    monitorOn switched 0 = false ∧ switched.hbmErr = [] := by decide +kernel

theorem wit_cabinets :
    (let s := base.setCab 0 { slot0 := { st := 2, img := zeros 12 ++ [1, 0] }, seq := { due := true } }
     partOfCab s 0 = some 0 ∧ (s.cab 0).seq.due = true ∧ (s.cab 0).seq.wait = 5 ∧ stands s 0 = false ∧
      (s.cab 0).now.st = 2 ∧ 0 < (s.cab 0).now.ctrlWords) ∧
    (let s := { readyNext base with integ := { base.integ with pendCell := [0] } }
     let t := applyPending 0 ((s.cells.filter (fun e => e.1 / 256 == 0)).foldl (fun v e => flushCell e.1 v) s)
     partOfCab s 0 = some 0 ∧ (s.ctx 0).load = none ∧ (s.cab 0).nextReady = true ∧ goBit s 0 = true ∧ stands s 0 = false ∧
      fieldRuns s (0 / 256) = true ∧ retirePend s 0 = true ∧ (s.ctx 0).marked = none ∧ (s.ctx 0).rerun ≠ 1 ∧
      (s.cells.filter (fun e => e.1 / 256 == 0)).all (readyToLoad s) = true ∧ deadWork t 0 (t.cab 0).spare = false) ∧
    (let s0 := (withRegs [(rStep 0 0 oJigStatus, 2 ^ 33)] base).setCab 0 { slot1 := { st := 2, next := true, img := [0] } }
     let s := { s0 with integ := { s0.integ with pendCell := [0], dead := [1] } }
     let t := applyPending 0 ((s.cells.filter (fun e => e.1 / 256 == 0)).foldl (fun v e => flushCell e.1 v) s)
     partOfCab s 0 = some 0 ∧ (s.ctx 0).load = none ∧ (s.cab 0).nextReady = true ∧ goBit s 0 = true ∧ stands s 0 = false ∧
      fieldRuns s (0 / 256) = true ∧ retirePend s 0 = true ∧ (s.ctx 0).marked = none ∧ (s.ctx 0).rerun ≠ 1 ∧ (s.part 0).slot < 8 ∧
      (s.cells.filter (fun e => e.1 / 256 == 0)).all (readyToLoad s) = true ∧ deadWork t 0 (t.cab 0).spare = true) ∧
    stallDue (withBench { inQ := ⟨[wTok], [], [], [], []⟩ }) 0 = true := by decide +kernel

theorem wit_coef : let s := wideAt cCOEF (256 * 1 + 254) 0
    MemOk s ∧ s.hbmErr = [] ∧ Joins cCOEF 0 s 0 ∧ stepState s 0 = sIdle ∧ (issueIn s 0 0).xa.toNat % 8 = 0 ∧
    hbmDenied s (mPart s 0) kRead (issueIn s 0 0).xa.toNat (64 * (fld (issueIn s 0 0).word 8 8 + 1)) = none := by
  unfold MemOk Joins SeqReady Fetchable; decide +kernel

/-- SCAN.OUT at a boundary and in full. -/
theorem wit_scan_out : ∀ full ∈ [0, 1], let s := wideAt cSCANOUT full 0
    let f : Bool := fld (issueIn s 0 0).word 0 1 = 1
    MemOk s ∧ s.hbmErr = [] ∧ Joins cSCANOUT 0 s 0 ∧ (if f then dowelIdle s 0 && flitsAcked s 0 else partQuiet s 0) = true ∧
    hbmDenied s (mPart s 0) kWrite (issueIn s 0 0).xa.toNat (scanBytes s 0 f) = none := by
  unfold MemOk Joins SeqReady Fetchable; decide +kernel

/-- A save image's header at 0x4000: form 0, one field, of the jig numbered 7 at 0x8000. -/
def scanInState : State :=
  ((wideAt cSCANIN 0 0).putBytes 0x4000 (leBytes 4 0x56535A4C ++ leBytes 2 1 ++ [0, 1] ++ leBytes 4 7 ++ leBytes 4 0 ++
    leBytes 8 0x8000 ++ zeros 39 ++ [0xA1])).putBytes 0x8008 (leBytes 4 7)

theorem wit_scan_in : let s := scanInState
    let a := (issueIn s 0 0).xa.toNat
    MemOk s ∧ s.hbmErr = [] ∧ Joins cSCANIN 0 s 0 ∧ hbmDenied s (mPart s 0) kRead a 64 = none ∧
    ofBytes (s.getBytes (a + 16) 8) = 0x8000 ∧ scanBad s.mem a (partF s 0) (ofBytes (s.getBytes (0x8000 + 8) 4)) = none ∧
    hbmDenied s (mPart s 0) kRead a (imageRead (partF s 0) s.mem a) = none := by
  unfold MemOk Joins SeqReady Fetchable; decide +kernel

/-- A layer table of one entry, on port 0, of 64 elements. -/
def redState : State :=
  let s := ((wideAt cRED 0 1).putBytes 0x8014 (leBytes 4 64)).putBytes 0x8040
    (leBytes 2 3 ++ [1, 0, 0, 0] ++ leBytes 2 1 ++ leBytes 4 64)
  s.setCab 0 { s.cab 0 with slot0 := { st := 2, addr := 0x8000 } }

theorem wit_red : let s := redState
    let img := if sideIn s 0 0 then (s.ctx 0).jig else curImage s 0
    let le := layerAt s img (fld (issueIn s 0 0).word 0 8)
    Joins cRED 0 s 0 ∧ (s.part 0).halted = false ∧ s.hbmErr = [] ∧ portsOf (lePorts le) = [0] ∧
    ∀ n ∈ portsOf (lePorts le), (s.link n).aborted = false ∧ hbmDenied s (mPart s 0) kRead
      (leAt le 16 8 + (partRun le n).1 * blockBytes (leDtype le = 1)) ((partRun le n).2 * blockBytes (leDtype le = 1)) = none := by
  unfold Joins SeqReady Fetchable; decide +kernel

def goRec0 : GoRec := { seqs := [], ev := [], sem := [], jig := 0, reads := [], frames := [] }

/-- At STEP.VOTE, and at a JIG.LOAD whose image waits. -/
theorem wit_re_run : ∀ load ∈ [none, some fLoad],
    let s := (withRegs [(rStep 0 0 oJigStatus, 2 ^ 33), (rStep 0 0 oRegenBase, 0x4000)] base).setCtx 0
      { base.ctx 0 with marked := some 1, goRec := some goRec0, load := load }
    partOn s 0 = true ∧ stands s 0 = false ∧ partQuiet s 0 = true ∧ goBit s 0 = true ∧ (s.ctx 0).fill = none ∧
    (s.ctx 0).load = load ∧ switching s 0 = false ∧ (s.ctx 0).rerun ≠ 1 ∧ (s.ctx 0).marked = some 1 ∧
    (s.ctx 0).goRec = some goRec0 ∧ atVote s 0 = true ∧ s.hbmErr = [] ∧
    hbmDenied s (mPart s 0) kRead ((s.stepReg 0 oRegenBase).toNat + 16 * (1 - 1)) 16 = none := by decide +kernel

/-- A flush of the last tensor of the table, of the first behind it, and of one whose entry may not be written. -/
theorem wit_range_flush :
    let s := fun (n : Nat) (acc : Word) => (withRegs [(rStep 0 0 oTensorCtrl, 4096), (rAccHbm 0x40 0, acc)] base).setPart 0
      { base.part 0 with flushes := [{ tensor := n, sat := 1, ovf := 0, x := -128 }] }
    let good := s 4095 allPages
    let denied := s 4095 (BitVec.ofNat 64 ((2 ^ 27 - 1) * 2 ^ 27 + 1 * 2 ^ 54))
    ((good.part 0).slot < 8 ∧ 4095 < tensorCount good 0 ∧ tableDenied good 0 (tensorAddr good 0 4095) = none ∧ MemOk good ∧
      good.hbmErr = []) ∧
    (4095 < tensorCount denied 0 ∧ tableDenied denied 0 (tensorAddr denied 0 4095) ≠ none) ∧
    tensorCount (s 4096 allPages) 0 ≤ 4096 ∧ ((s 4096 allPages).part 0).flushes.length = 1 := by unfold MemOk; decide +kernel

/-- The sequencer of cabinet 0 waits at STEP.VOTE; votes go up port 0, which is up and of the partition's context. -/
def votingState (st voteCtrl : Nat) (c : Ctx) : State :=
  let s := withRegs [(rStep 0 0 oStepStatus, BitVec.ofNat 64 st), (rStep 0 0 oVoteCtrl, BitVec.ofNat 64 voteCtrl),
    (rPortStatus 0, 2 + 3 * 32)] base
  (s.setCab 0 { seq := { wait := 1, len := 4, issue := some { word := cw cVOTE 0 0 0, xa := 0, xb := 0 } } }).setCtx 0
    { c with alive := true, ports := 1 }

/-- The header of a flit in order: the first after training, and one that carries a number. -/
def hdr0 : FlitHdr := { crcOk := true, seq := 1, ack := 0, cvc := 0, ccount := 0, fec := (0, 0) }

theorem wit_send_flags : let s := votingState 1 0 {}
    partOn s 0 = true ∧ holdsFabric s 0 (s.part 0).slot = true ∧ (s.part 0).slot < 8 ∧ stepState s 0 = sRunning ∧
    allAt s 0 [cVOTE, cDISCARD] = true ∧ voteReady s 0 = true ∧ stackHeld s 0 = false ∧ s.hbmErr = [] ∧
    voteRoot s 0 = false ∧ voteDowns s 0 = [] ∧ (s.ctx 0).held = none ∧ (s.ctx 0).ups = [] ∧ (s.ctx 0).upSent = false ∧
    portLevel s (voteUpPort s 0) 3 = true ∧ (s.link (voteUpPort s 0)).queue = [] ∧
    0 < vcGet (s.link (voteUpPort s 0)).credit 2 ∧ (s.link (voteUpPort s 0)).unacked.length < 512 := by decide +kernel

/-- At the root, without down ports and with one whose vote-up is in. -/
theorem wit_send_flags_root : ∀ r ∈ [votingState 1 0x10 {}, votingState 1 0x10010 { ups := [(0, true, false)] }], let s := r
    partOn s 0 = true ∧ holdsFabric s 0 (s.part 0).slot = true ∧ (s.part 0).slot < 8 ∧ stepState s 0 = sRunning ∧
    allAt s 0 [cVOTE] = true ∧ voteReady s 0 = true ∧ stackHeld s 0 = false ∧ s.hbmErr = [] ∧ voteRoot s 0 = true ∧
    (voteDowns s 0).all (fun n => (s.ctx 0).ups.any (fun u => u.1 == n)) = true ∧ (s.ctx 0).held = none ∧
    (s.ctx 0).upSent = false ∧ (s.ctx 0).voteReq = false := by decide +kernel

/-- A vote-up from a down port, in RUNNING and while a retry is to follow; the last one, in VOTING, on the way up and at the root;
one whose attempt's vote is sent; a vote-down from the up port; and votes of another step. -/
theorem wit_votes :
    let up := votingState 1 0x10000 {}
    let again := votingState 4 0x10000 { retry := true }
    let last := withRegs [(rPortStatus 1, 2 + 3 * 32)] (votingState 2 0x10001 { own := some (true, false) })
    let root := votingState 2 0x10010 { own := some (true, false) }
    let gone := votingState 2 0x10000 { own := some (true, false), upSent := true, sentVote := some (0, 0) }
    let down := votingState 2 0 {}
    (∀ s ∈ [up, again, last, root, gone, down], portState s 0 = 2 ∧ linkOn s 0 = true ∧ hdr0.crcOk = true ∧
      hdr0.seq = (s.link 0).rxSeq + 1 ∧
      partOfPort s 0 = some 0 ∧ (s.part 0).running = true ∧ (s.part 0).slot < 8 ∧ (s.ctx 0).saved = none ∧ s.hbmErr = [] ∧
      (List.range 8).find? (fun sl => (s.ctxAt 0 sl).alive && fld (s.ctxAt 0 sl).ports 0 1 == 1) = some (s.part 0).slot ∧
      (0#32).toNat = stepNumber s 0 ∧ (0#2).toNat = stepRetries s 0 ∧ (1#32).toNat ≠ stepNumber s 0) ∧
    (∀ s ∈ [up, again, last, root], 0 ∈ voteDowns s 0 ∧ (s.ctx 0).upSent = false ∧ (s.ctx 0).sentVote = none ∧
      (s.ctx 0).ups.all (fun u => u.1 != 0) = true) ∧
    (stepState up 0 = sRunning ∧ stepState again 0 = sDiscarding ∧ (again.ctx 0).retry = true) ∧ 0 ∉ voteDowns down 0 ∧
    (∀ s ∈ [last, root], stepState s 0 = sVoting ∧ (s.ctx 0).own.isSome = true ∧ voteDowns s 0 = [0] ∧ (s.ctx 0).voteReq = false ∧
      allAt s 0 [cCOMMIT, cDISCARD] = false) ∧
    (voteRoot last 0 = false ∧ portLevel last (voteUpPort last 0) 3 = true ∧ voteRoot root 0 = true ∧ portLevel root 0 3 = true) ∧
    (0 ∈ voteDowns gone 0 ∧ (gone.ctx 0).sentVote = some (0, 0)) ∧
    (voteRoot down 0 = false ∧ voteUpPort down 0 = 0 ∧ stepState down 0 = sVoting ∧ (down.ctx 0).held = none ∧
      (down.ctx 0).voteReq = false ∧ allAt down 0 [cCOMMIT, cDISCARD] = false) := by decide +kernel

/-- A step in VOTING waits for its resolution. -/
theorem wit_step_resolve : let s := withRegs [(rStep 0 0 oStepStatus, 2), (rAccCsr 0x61, -1)] base
    (s.part 0).slot < 8 ∧ isRunning s 0 (s.part 0).slot = true ∧ restoring s 0 = false ∧ testing s 0 = false ∧
    (∀ k ∈ [1, 2], csrWriteCode 0x61 (rStepPage 0 oStepResolve) (BitVec.ofNat 64 (0 * 2 ^ 32 + k)) s = none) := by decide +kernel

/-! ### Witnesses: drawers and the dowel network -/

/-- The drawer of cell 0 in a jig that runs, with its bench. -/
def drawerAt (d : Drawer) (b : Bench) : State :=
  (withRegs [(rStep 0 0 oJigStatus, 2 ^ 33)] base).setCell 0 { dr := d, bench := b }

/-- A drawer word: format, generator, and fields. -/
def dw (fmt gen : Nat) (fs : List (Nat × Nat × Nat)) : Word := BitVec.ofNat 64 (pack ((62, 2, fmt) :: (61, 1, gen) :: fs))
def outD (t : Tok) : Bench := { outQ := ⟨[], [], [], [], [t]⟩ }

theorem wit_affine :
    let plain := dw 0 0 []
    let tile := dw 0 0 [(60, 1, 1), (58, 2, 3), (12, 12, 7)]
    let write := dw 0 1 []
    let fill := dw 3 1 [(52, 9, 511)]
    let full := (List.range 8).map (fun i => BitVec.ofNat 256 i)
    let s0 := drawerAt { prog := [plain] } {}
    let s1 := drawerAt { prog := [tile] } {}
    let s1b := drawerAt { prog := [tile], tile := full.take 7, rdA := 7 } {}
    let s2 := drawerAt { prog := [tile, plain], tile := full, rdW := 1 } {}
    let s3 := drawerAt { prog := [tile, plain], tileOut := full.drop 1, outFrom := (0, 1), rdW := 1 } {}
    let s4 := fun v => drawerAt { prog := [write] } (outD (dataTok 7 v))
    let s5 := drawerAt { prog := [fill] } {}
    (∀ s ∈ [s0, s1, s1b, s2, s3, s4 true, s4 false, s5], GensRun s 0 0) ∧
    (readWord (s0.dr 0) = some plain ∧ fld plain 62 2 = 0 ∧ fld plain 60 1 = 0 ∧ (s0.dr 0).tileIdle = true ∧ (s0.bench 0).inQ.d.length < 4) ∧
    (∀ s ∈ [s1, s1b], readWord (s.dr 0) = some tile ∧ fld tile 62 2 = 0 ∧ fld tile 60 1 = 1 ∧ (s.dr 0).tileOut = [] ∧
      (s.dr 0).tile.length < 256 / (4 * 2 ^ fld tile 58 2) ∧ (s.bench 0).inQ.d.length < 4) ∧
    (s1.dr 0).tile = [] ∧ ((s1b.dr 0).tileFrom.1 = (s1b.dr 0).rdW) ∧
    (tileWord (s2.dr 0) (s2.dr 0).tileFrom = tile ∧ (s2.dr 0).tileOut = [] ∧
      (s2.dr 0).tile.length = 256 / (4 * 2 ^ fld tile 58 2) ∧ (s2.bench 0).inQ.d.length < 4) ∧
    ((s3.dr 0).tileOut = 1 :: full.drop 2 ∧ (s3.bench 0).inQ.d.length < 4) ∧
    (∀ v, writeWord ((s4 v).dr 0) = some write ∧ fld write 62 2 = 0 ∧ dHead ((s4 v).bench 0) = some (dataTok 7 v) ∧
      ((dataTok 7 v).tag - BitVec.ofNat 16 (fld write 24 16)).toNat * (fld write 40 6 + 1)
        + sget 0 ((s4 v).dr 0).tagCnt (dataTok 7 v).tag.toNat < affineCount write (patOf ((s4 v).dr 0) write) ∧
      tagRoom ((s4 v).dr 0) (dataTok 7 v) = true) ∧
    (writeWord (s5.dr 0) = some fill ∧ fld fill 62 2 = 3) := by unfold GensRun MemOk; decide +kernel

/-- A FIFO of two positions at row 16: PUSH reserves and writes; POP of a row and of an empty FIFO, with and without WAIT;
the pointer words. -/
def fifo (prog : List Word) (tail : Nat) : Drawer :=
  { prog := prog, mode := 1, mbase := 16, msize := 2, tail := tail, tail2 := tail, res := tail }

theorem wit_queue_words :
    let push := dw 1 1 []
    let op := fun (k : Nat) (w : Nat) (sel : Nat) => dw 1 0 [(58, 3, k), (57, 1, w), (22, 1, sel)]
    let s0 := drawerAt (fifo [push] 0) {}
    let s1 := drawerAt { fifo [push] 0 with started := true, res := 1 } (outD (dataTok 7 true))
    let s2 := fun w tail => drawerAt (fifo [op 1 w 0] tail) {}
    let s3 := fun k sel valid => drawerAt { fifo [op k 0 sel] 1 with mvalid := valid } {}
    (∀ s ∈ [s0, s1, s2 0 1, s2 0 0, s2 1 0, s3 2 0 false, s3 3 0 false, s3 3 0 true, s3 4 0 false, s3 4 1 false, s3 4 1 true],
      GensRun s 0 0 ∧ (s.dr 0).mode ≠ 0 ∧ (s.dr 0).head = (s.dr 0).head2 ∧ (s.dr 0).tail = (s.dr 0).tail2) ∧
    (queueWord (writeWord (s0.dr 0)) 0 = some push ∧ (s0.dr 0).started = false ∧ dHead (s0.bench 0) = none) ∧
    (queueWord (writeWord (s1.dr 0)) 0 = some push ∧ (s1.dr 0).started = true ∧ (s1.dr 0).stale = false ∧
      dHead (s1.bench 0) = some (dataTok 7 true) ∧ 0 < fld push 45 12 + 1 ∧ tagRoom (s1.dr 0) (dataTok 7 true) = true ∧
      (s1.dr 0).dist (s1.dr 0).free 0 < (s1.dr 0).regionN ∧ (s1.dr 0).dist (s1.dr 0).head 0 < (s1.dr 0).regionN) ∧
    (queueWord (readWord ((s2 0 1).dr 0)) 1 = some (op 1 0 0) ∧ ((s2 0 1).dr 0).tileIdle = true ∧ ((s2 0 1).bench 0).inQ.d.length < 4 ∧
      ((s2 0 1).dr 0).rdA % ((s2 0 1).dr 0).perPos = 0 ∧ ((s2 0 1).dr 0).qCount ≠ 0) ∧
    (∀ w ∈ [0, 1], queueWord (readWord ((s2 w 0).dr 0)) 1 = some (op 1 w 0) ∧ ((s2 w 0).dr 0).tileIdle = true ∧ ((s2 w 0).dr 0).qCount = 0 ∧
      fld (op 1 w 0) 57 1 = w) ∧
    (∀ k ∈ [2, 3, 4], queueWord (readWord ((s3 k 1 true).dr 0)) k = some (op k 0 1) ∧ fld (op k 0 1) 22 1 = 1 ∧
      fld (op k 0 0) 22 1 = 0) := by unfold GensRun MemOk; decide +kernel

/-- POP inside a slot of two rows: the second row of a slot that its first row found present, and of a dry turn. -/
theorem wit_pop_slots :
    let pop := dw 1 0 [(58, 3, 1), (45, 12, 1)]
    let ring : Drawer := { prog := [pop], mode := 2, mbase := 16, msize := 4, slot := 2, rdA := 1 }
    ∀ dry : Bool, let s := drawerAt { ring with dry := dry, tail := 1, tail2 := 1 } {}
      GensRun s 0 0 ∧ queueWord (readWord (s.dr 0)) 1 = some pop ∧ (s.dr 0).tileIdle = true ∧ (s.dr 0).qCount ≠ 0 ∧ (s.dr 0).rdA % (s.dr 0).perPos ≠ 0 ∧ (s.dr 0).dry = dry := by
  unfold GensRun MemOk; decide +kernel

/-- A checkpoint entry of one row, on top of the stack. -/
def entry1 (place : Place) : StkEnt :=
  { frame := 0, ord := 0, tag := 0, el := 0, lossy := false, rows := 1, vmask := 1, len := 1, place := place }

theorem wit_checkpoint :
    let rows := fun (n : Nat) (s : State) => withRegs [(rStep 0 0 oStepCtrl, BitVec.ofNat 64 (n * 4))] s
    let push := fun (n : Nat) => dw 2 1 [(53, 6, n - 1)]
    let pop := dw 2 0 []
    let t := dataTok 7 true
    let s0 := fun n => rows 4 (drawerAt { prog := [push n], framed := n == 2, stack := if n = 2 then [entry1 (.band [511])] else [], frames := n - 1 } (outD t))
    let s1 := drawerAt { prog := [pop], popRows := [some 7] } {}
    let s2 := fun place => rows 1 (drawerAt { prog := [pop], stack := [entry1 place] } {})
    (∀ s ∈ [s0 1, s0 2, s1, s2 (.band [511]), s2 .dropped, s2 (.slice 0 64)],
      GensRun s 0 0 ∧ s.hbmErr = [] ∧ (s.part 0).slot < 8) ∧
    (∀ n ∈ [1, 2], writeWord ((s0 n).dr 0) = some (push n) ∧ fld (push n) 62 2 = 2 ∧ dHead ((s0 n).bench 0) = some t ∧
      (t.tag - BitVec.ofNat 16 (fld (push n) 25 16)).toNat ≤ fld (push n) 41 12 ∧ fld (push n) 53 6 + 1 = n ∧
      fld (push n) 59 2 = 0 ∧ ((s0 n).dr 0).full = false ∧ ((s0 n).dr 0).opened.length < 64 ∧
      (((s0 n).dr 0).framed = true → ∀ x ∈ ((s0 n).dr 0).stack, ¬ (x.frame = ((s0 n).dr 0).frames ∧ x.ord = earlierEntries ((s0 n).dr 0) + 0)) ∧
      n ≤ stackRows (s0 n) 0 ∧ n ≤ (bandFree (s0 n) 0 0).length) ∧
    (readWord (s1.dr 0) = some pop ∧ fld pop 62 2 = 2 ∧ (s1.dr 0).popRows = some 7 :: [] ∧ (s1.bench 0).inQ.d.length < 4) ∧
    (readWord ((s2 (.band [511])).dr 0) = some pop ∧ ((s2 (.band [511])).dr 0).popRows = [] ∧
      nextPop ((s2 (.band [511])).dr 0) = some (entry1 (.band [511])) ∧ ((s2 (.band [511])).dr 0).popIdx < 1 ∧
      stackRows (s2 (.band [511])) 0 < 2 * (bandUsed ((s2 (.band [511])).dr 0)).length) := by
  unfold GensRun MemOk; decide +kernel

/-- A spilled entry that the pop holds for, in the middle of a lossy one, and one that goes into the band; reads that the
access tables grant and deny. -/
theorem wit_fetched : ∀ lossy : Bool, ∀ granted : Bool,
    let pop := dw 2 0 [(53, 6, 1)]
    let x := { entry1 (.fetching 0 64) with lossy := lossy, rows := 2, len := if lossy then 1 else 2 }
    let at_ := fun (p : List Word) => withRegs [(rStep 0 0 oStepCtrl, 8), (rStep 0 0 oStepStatus, 1),
        (rAccHbm 0x40 0, if granted then allPages else 0)]
      ((drawerAt { prog := p, popIdx := p.length, stack := [x] } {}).putBytes 4 (leBytes 2 32))
    let form := fun (s : State) => if granted then spillRows x (bytesIn s (spillSlice s 0 0).1 64) else zeroRows x
    (∀ q ∈ [[pop], []], GensRun (at_ q) 0 0 ∧ (at_ q).hbmErr = [] ∧ ((at_ q).part 0).slot < 8 ∧ inStep (at_ q) 0 = true ∧
      testing (at_ q) 0 = false ∧ fetchedEnt ((at_ q).dr 0) = some x ∧ x.place = .fetching 0 64 ∧
      (hbmDenied (at_ q) (mPart (at_ q) 0) kRead ((spillSlice (at_ q) 0 0).1 + 0) 64).isSome = !granted) ∧
    popOwn ((at_ [pop]).dr 0) x = some pop ∧ (popForm pop x (form (at_ [pop]))).length = stkRows pop ∧
    popOwn ((at_ []).dr 0) x = none ∧ x.len ≤ (bandFree (at_ []) 0 0).length ∧
    (form (at_ [])).length = x.len := by unfold GensRun MemOk; decide +kernel

/-- A lossy entry in the band, of 32 elements in each of its two code rows: before its tail row is read, and after, at its first
and at its last row. -/
theorem wit_pop_lossy :
    let pop := dw 2 0 [(53, 6, 7)]
    let x := { entry1 (.band [509, 510, 511]) with lossy := true, rows := 8, len := 3 }
    let s := fun tail (i : Nat) => withRegs [(rStep 0 0 oStepCtrl, 12)]
      (drawerAt { prog := [pop], stack := [x], popTail := tail, popIdx := i } {})
    (∀ r ∈ [s [] 0, s [0] 0, s [0] 7], GensRun r 0 0 ∧ r.hbmErr = [] ∧ readWord (r.dr 0) = some pop ∧ (r.dr 0).tileIdle = true ∧
      (r.dr 0).popRows = [] ∧ nextPop (r.dr 0) = some x ∧ (r.bench 0).inQ.d.length < 4 ∧
      stackRows r 0 < 2 * (bandUsed (r.dr 0)).length) ∧
    [509, 510, 511].length = x.len ∧ codeRows x + 0 < x.len ∧ x.len ≤ codeRows x + 1 ∧ 7 < stkRows pop ∧ stkRows pop ≤ 7 + 1 ∧
    7 / elBytes (stkEl pop) < 3 := by
  unfold GensRun MemOk; decide +kernel

/-- Dropped and spilled entries are popped once the band is filled by another entry. -/
theorem wit_pop_far : ∀ place ∈ [Place.dropped, .slice 0 64],
    let x := { entry1 place with frame := 1 }
    let s := withRegs [(rStep 0 0 oStepCtrl, 4)] (drawerAt { prog := [dw 2 0 []], stack := [entry1 (.band [511]), x] } {})
    GensRun s 0 0 ∧ readWord (s.dr 0) = some (dw 2 0 []) ∧ (s.dr 0).popRows = [] ∧ nextPop (s.dr 0) = some x ∧
    stackRows s 0 < 2 * (bandUsed (s.dr 0)).length := by unfold GensRun MemOk; decide +kernel

/-- Remote reads of the last rows below the band of a drawer of the partition, of its band, and of one outside the partition;
data; a credit for those rows, granted; the write. -/
def wantRows (g : List (Nat × Option Nat)) (arrived : Bool) : Credit :=
  { writer := 0, targets := [1], row := 504, n := 7, granted := g, arrived := arrived, since := 0 }

theorem wit_dowel :
    let c1 := wantRows [(1, none)] false
    let c2 := wantRows [(1, none)] true
    let s0 := withRegs [(rStep 0 0 oStepCtrl, 4)] base
    let s1 := drawerAt { reads := [3, 4] } {}
    let s2 := { base with dowel := [c1] }
    let s3 := { base with dowel := [c1, c2] }
    let c0 := { wantRows [] false with targets := [0] }
    let s4 := ({ base with dowel := [c0, c1] }).setPart 0 { base.part 0 with frozen := true }
    let c3 := { c2 with targets := [65536], granted := [(65536, none)] }
    let s5 := { base with dowel := [c1, c3], clk := { base.clk with unlocked := [1] } }
    (∀ s ∈ [s0, s1, s2, s3, s4, s5], cellRuns s 0 = true ∧ s.drErr = [] ∧ MemOk s ∧ partOfCell s 0 = some 0) ∧
    ((s0.dr 0).reads.length + 7 ≤ 8 ∧ (504#9).toNat + 8 ≤ 512 ∧ partOfCell s0 1 = some 0 ∧ fieldRuns s0 (1 / 65536) = true ∧
      dowelRows s0 0 504 7 = true ∧ dowelRows s0 0 504 8 = false ∧
      testing s0 0 = false ∧ (s0.part 0).slot < 8 ∧ partOfCell s0 65536 ≠ some 0) ∧
    ((s1.dr 0).reads = 3 :: [4] ∧ (s1.bench 0).inQ.d.length < 4) ∧
    (s0.dowel = [] ∧ isRect [1] = true ∧ isRect [1, 2, 17, 18] = true ∧ inRegion (s0.dr 1) 504 = false ∧ issueStops s0 1 = false) ∧
    (s2.dowel[0]? = some c1 ∧ (∀ h ∈ c1.targets, ∃ x ∈ c1.granted, x.1 = h) ∧ c1.granted.length = c1.targets.length ∧
      s4.dowel[1]? = some c1 ∧ s4.dowel[0]? = some c0 ∧ c0.granted.length < c0.targets.length ∧ issueStops s4 0 = true) ∧
    (creditOf s3 0 = some 1 ∧ s3.dowel[1]? = some c2 ∧ c2.row + c2.n ≤ 512 ∧ (∀ x ∈ c2.granted, x.2 = none) ∧
      c2.targets.all (fun h => fieldRuns s3 (h / 65536)) = true) ∧
    (creditOf s5 0 = some 1 ∧ s5.dowel[1]? = some c3 ∧ c3.targets.all (fun h => fieldRuns s5 (h / 65536)) = false) := by
  unfold MemOk; decide +kernel

/-! ### Witnesses: engines and the narrow path -/

/-- A descriptor of an operation at 0x2040, first of a list of one at 0x2000, in the queue of engine 255. -/
def desc (op : Nat) (fs : List (Nat × Nat × Nat)) : BitVec 512 := BitVec.ofNat 512 (pack ((0, 4, op) :: (369, 10, 1) :: fs))
def list1 : EList :=
  { id := 7, addr := 0x2000, part := 0, slot := 0, next := 0, last := 1, done := 0, count := 1, sig := none }
def act1 (e : Nat) : Active := { list := 0x2000, lid := 7, home := e, idx := 0, part := 0, slot := 0, istr := none }

def edgeState (d : BitVec 512) (y : Drawer) (rs : List (Nat × Word)) : State :=
  ((withRegs rs (base.setDr 0 y)).putBytes 0x2040 (leBytes 64 d.toNat)).setEdge 255 { lists := [list1] }

/-- A ring of two slots of one row at row 16. -/
def ring2 (tail : Nat) : Drawer := { mode := 2, mbase := 16, msize := 2, slot := 1, tail := tail, tail2 := tail, res := tail }

def hbm32 : List (Nat × Nat × Nat) := [(128, 64, 0x4000), (192, 32, 32), (224, 16, 1)]

def readPlain : BitVec 512 := desc 0 (hbm32 ++ [(360, 9, 509), (11, 1, 1)])
def readSlot : BitVec 512 := desc 0 (hbm32 ++ [(20, 2, 1), (384, 16, 1)])
def readStream : BitVec 512 := desc 0 [(14, 1, 1), (192, 32, 32), (224, 16, 1)]
def streamRegs : List (Nat × Word) := [(rIstrBase 0 0, 0x8000), (rIstrSize 0 0, 0x1000), (rIstrWrite 0 0, 32)]

/-- A READ of a row with its fence, of a slot of a ring, and of an input stream. -/
theorem wit_edge_read : EdgeReady 0 255 (edgeState readPlain {} []) (act1 255) readPlain ∧ fld readPlain 11 1 = 1 ∧
    (readRowsOf (edgeState readPlain {} []) 0 readPlain).length = eTotal readPlain := by unfold EdgeReady DescIs MemOk; decide +kernel
theorem wit_edge_read_slot : EdgeReady 0 255 (edgeState readSlot (ring2 0) []) (act1 255) readSlot ∧
    (readRowsOf (edgeState readSlot (ring2 0) []) 0 readSlot).length = eTotal readSlot := by
  unfold EdgeReady DescIs MemOk; decide +kernel
theorem wit_edge_read_stream : let s := edgeState readStream {} streamRegs
    EdgeReady 0 255 s (act1 255) readStream ∧ (readRowsOf s 0 readStream).length = eTotal readStream ∧
    istrPos s (rIstrRead 0 (eStream readStream)) + eBytes readStream ≤ istrPos s (rIstrWrite 0 (eStream readStream)) := by
  unfold EdgeReady DescIs MemOk; decide +kernel
theorem wit_starts (b : BitVec 8) (d : BitVec 512) (h : fld d 11 1 = 1) : Starts (.read b) b d (.fencedFetch b) := .inr ⟨rfl, h⟩

/-- A descriptor that the engine has read already. -/
theorem wit_desc_held : DescIs { desc := some readPlain } (act1 255) base readPlain := .inl rfl

theorem wit_drawers_take :
    DrawersTake (edgeState readPlain {} []) readPlain ∧ DrawersTake (edgeState readSlot (ring2 0) []) readSlot := by unfold DrawersTake; decide +kernel

/-- A WRITE of a row, and of a slot of a ring that holds it. -/
theorem wit_edge_write :
    let plain := desc 1 (hbm32 ++ [(360, 9, 509)])
    let slot := desc 1 (hbm32 ++ [(20, 2, 1)])
    (EdgeReady 1 255 (edgeState plain {} []) (act1 255) plain ∧ RingsHold (edgeState plain {} []) plain) ∧
    (EdgeReady 1 255 (edgeState slot (ring2 1) []) (act1 255) slot ∧ RingsHold (edgeState slot (ring2 1) []) slot ∧
      eDmode slot = 1) := by unfold EdgeReady DescIs RingsHold MemOk; decide +kernel

/-- A WRITE of a field test to the leaf at 0x4000, and one beside it. -/
theorem wit_edge_write_test :
    let plain := desc 1 (hbm32 ++ [(360, 9, 509)])
    let s := fun leaf => (edgeState plain {} [(rStep 0 0 oLeafBase, leaf), (rStep 0 0 oLeafSize, 0x1000)]).setPart 0
      { base.part 0 with test := 2 }
    (∀ r ∈ [s 0x4000, s 0x10000], EdgeReady 1 255 r (act1 255) plain ∧ RingsHold r plain ∧
      (outBytes (eConv plain) (rectRows r plain)).2 = [] ∧ testHolds r 0 (eAux plain) 0 = false) ∧ eRuns plain = 1 ∧
    testHolds (s 0x4000) 0 (runAddr (s 0x4000) 0 plain 0).toNat (eLen plain) = true ∧
    testHolds (s 0x10000) 0 (runAddr (s 0x10000) 0 plain 0).toNat (eLen plain) = false := by
  unfold EdgeReady DescIs RingsHold MemOk; decide +kernel

/-- SHIM_OUT of row 0, which holds one record, into a table with room for all entries, and into a full one. -/
theorem wit_shim : ∀ room ∈ [32, 0], ∀ op ∈ [2, 3],
    let d := desc op [(448, 64, 0x8000), (192, 32, 32), (224, 16, 1)]
    let s := ((edgeState d {} []).putBytes 0x8008 (leBytes 8 room)).putBytes bDRAWER [1, 0, 0, 0x80]
    EdgeReady op 255 s (act1 255) d ∧ ofBytes (bytesIn s (eAux d) 8) = 0 ∧ ofBytes (bytesIn s (eAux d + 8) 8) = room ∧
    shimEntries (eAddr d) (rectRows s d) ≠ [] ∧ (shimEntries (eAddr d) (rectRows s d)).length ≤ 32 ∧
    eDmode d = 0 ∧ inRegion (s.dr 0) (eRbase d) = false := by unfold EdgeReady DescIs MemOk; decide +kernel

theorem wit_journal :
    let d := desc 4 [(20, 2, 1), (192, 32, 32), (224, 16, 1)]
    let s := edgeState d (ring2 1) [(rStep 0 0 oJournalBase, 0x8000), (rStep 0 0 oJournalSize, 0x1000)]
    let bs := rowBytes (rectRows s d)
    EdgeReady 4 255 s (act1 255) d ∧ RingsHold s d ∧ eTotal d = eSlot s d ∧ testing s 0 = false ∧ (s.ctx 0).jFull = false ∧
    32 + leAt bs 8 4 ≤ bs.length ∧ 32 + leAt bs 8 4 ≤ journalLeft s 0 ∧ (s.part 0).slot < 8 := by
  unfold EdgeReady DescIs RingsHold MemOk; decide +kernel

/-- A gather of two indices, the last of the table and the first outside it. -/
def gatherDesc : BitVec 512 := BitVec.ofNat 512 (pack [(64, 64, 0x4000), (128, 32, 2), (160, 32, 5), (192, 64, 0x8000),
  (256, 32, 32), (304, 16, 1), (340, 9, 1)])

def gatherState : State :=
  (((base.setDr 0 (ring2 0)).putBytes 0x2040 (leBytes 64 gatherDesc.toNat)).putBytes 0x4000 (leBytes 4 4 ++ leBytes 4 5)).setGather
    127 { lists := [list1] }

theorem wit_gather :
    let s := gatherState
    let a := act1 127
    let d := gatherDesc
    let idx := fun i => ofBytes (bytesIn s (fld d 64 64 + 4 * i) 4)
    let todo := List.range' (s.gather 127).pos (fld d 128 32 - (s.gather 127).pos)
    DescIs (s.gather 127) a s d ∧ todo = [0, 1] ∧ (s.gather 127).stolen = none ∧ (s.gather 127).raw = [] ∧
    (s.gather 127).lists = [list1] ∧
    list1.next < list1.last ∧ list1.done + 1 = list1.count ∧ engineRuns s a = true ∧ unitGated s (16 + 127 / 16) = false ∧
    gatherBad s d = false ∧ drawerDenied s 0 true (gatherCells d) = none ∧ a.part < 16 ∧
    hbmDenied s (mPart s 0) kRead (fld d 64 64) (4 * fld d 128 32) = none ∧
    (∀ g ∈ gatherCells d, landingRoom s g (fld d 304 16 / fld d 340 9) = true ∧ (s.dr g).head = (s.dr g).head2 ∧ (s.dr g).tail = (s.dr g).tail2 ∧
      (s.dr g).mbase + (s.dr g).msize ≤ 512 ∧ ∀ i ∈ todo,
      (s.dr g).posFree ((s.dr g).adv (fld d 352 16) i) = true ∧ (s.dr g).posGone ((s.dr g).adv (fld d 352 16) i) = false) ∧
    fenced s a d 1 8 32 = false ∧ s.hbmErr = [] ∧ s.drErr = [] ∧ MemOk s ∧
    (∀ i ∈ todo, ¬ fld d 160 32 ≤ idx i → gatherRow s a d (idx i) % 32 = 0 ∧
      hbmDenied s (mPart s a.part) kRead (gatherRow s a d (idx i)) (32 * fld d 304 16) = none) ∧
    (todo.map (fun i => decide (fld d 160 32 ≤ idx i))) = [false, true] := by unfold MemOk DescIs; decide +kernel
theorem wit_gather_slots (x : Nat) : slotRoom (gatherState.plinth (stackOf x)).slots x = true := by
  have h : gatherState.plinth (stackOf x) = {} := rfl
  rw [h]; rfl
theorem wit_gather_asks (k : Nat) : ∀ r ∈ (gatherState.plinth k).slots ++ (gatherState.plinth k).queue, r.1 ≠ reqGather 127 := by
  have h : gatherState.plinth k = {} := rfl
  rw [h]; intro r hr; exact absurd hr (List.not_mem_nil)

/-- A completed descriptor that signals event 255, of a list with more to come and of one it ends, which signals event 3. -/
theorem wit_descriptor_complete : ∀ k ∈ [1, 2],
    let d := desc 0 [(12, 1, 1), (40, 8, 255)]
    let l := { list1 with count := k, sig := some 3 }
    let a := { act1 255 with istr := some (0, 64), desc := d }
    let s := base.setEdge 255 { lists := [l], issued := [a] }
    (s.edge 255).issued = a :: [] ∧ engineRuns s a = true ∧ a.part < 16 ∧ (s.edge a.home).lists = [l] ∧ l.id = a.lid ∧
    (l.done + 1 < l.count ∨ l.done + 1 = l.count) ∧ l.part = a.part ∧ l.slot = a.slot ∧ l.sig = some 3 ∧
    fld a.desc 12 1 = 1 ∧ fld a.desc 40 8 ≠ 3 ∧ istrMarked s a.part 0 = false ∧ testing s a.part = false := by
  decide +kernel

/-- Engine 31 of the first group steals from engine 0, which alone has descriptors left: two, or one that it has read. -/
def stealState (n : Nat) (held : Option (BitVec 512)) : State :=
  base.setEdge 0 { lists := [{ list1 with last := n, count := n }], desc := held }

def stealCases : List (Nat × Option (BitVec 512)) := [(1, none), (2, none), (1, some readPlain)]

theorem wit_steal : ∀ x ∈ stealCases,
    let s := stealState x.1 x.2
    let a := { act1 0 with idx := x.1 - 1 }
    let d : BitVec 512 := BitVec.ofNat 512 (ofBytes (bytesIn s (descAddr a) 64))
    present 31 (s.edge 31) = none ∧ unitGated s (24 + 31 / 32) = false ∧ 0 < unstarted (s.edge 0) ∧
    (lastDesc s 0 = some a ∧ engineRuns s a = true ∧ s.hbmErr = [] ∧
      (s.edge 0).lists = [] ++ [{ list1 with last := x.1, count := x.1 }]) ∧
    (hbmDenied s (mPart s a.part) kRead (descAddr a) 64 = none ∧ eNosteal d = false ∧ eIstr d = false ∧ eOp d ≠ 2) ∧
    (x.1 = 1 → present 0 (s.edge 0) = some a) := by decide +kernel
theorem wit_steal_most : ∀ x ∈ stealCases, ∀ w, w / 32 = 31 / 32 → w ≠ 31 →
    let s := stealState x.1 x.2
    unstarted (s.edge w) < unstarted (s.edge 0) ∨ (unstarted (s.edge w) = unstarted (s.edge 0) ∧ 0 ≤ w) := by
  have h : ∀ x ∈ stealCases, ∀ w < 32, w ≠ 31 →
    unstarted ((stealState x.1 x.2).edge w) < unstarted ((stealState x.1 x.2).edge 0) ∨ w = 0 := by decide +kernel
  intro x hx w hw hne
  rcases h x hx w (by omega) hne with h | rfl
  · exact .inl h
  · exact .inr ⟨rfl, Nat.le_refl 0⟩

/-- Narrow reads that hit, that meet a parity error, that miss with a slot free, and that wait; their data. -/
theorem wit_narrow :
    let a := 0x4020
    let hit := (withRegs [(rPlCtrl (stackOf a), 1)] base).setPlinth (stackOf a) { sets := [(ncSet a, [{ gran := a / 256, valid := 0xFF }])] }
    let par := (withRegs [(rPlCtrl (stackOf a), 1)] base).setPlinth (stackOf a)
      { sets := [(ncSet a, [{ gran := a / 256, valid := 0xFF, par := true }])] }
    let busy := base.setPlinth (stackOf a) { slots := List.replicate 64 (0x40, a) }
    let one := base.setPlinth (stackOf a) { slots := [(0x40, a)] }
    hbmDenied base 0x40 kRead a 32 = none ∧ hbmDenied hit 0x40 kRead a 32 = none ∧ ncHit hit a = true ∧ ncHit base a = false ∧
    (ncLines hit a).any (fun l => l.gran == a / 256 && l.par) = false ∧ hbmDenied par 0x40 kRead a 32 = none ∧
    ncHit par a = true ∧ (ncLines par a).any (fun l => l.gran == a / 256 && l.par) = true ∧
    slotRoom (base.plinth (stackOf a)).slots a = true ∧ hbmDenied busy 0x40 kRead a 32 = none ∧ ncHit busy a = false ∧
    slotRoom (busy.plinth (stackOf a)).slots a = false ∧
    (one.plinth (stackOf a)).slots.find? (fun y => y.2 == a) = some (0x40, a) ∧ one.hbmErr = [] := by decide +kernel

/-! ### Witnesses: register writes -/

/-- The firmware (0x61) and the management port (0x60) may write every register. -/
def open_ (s : State) : State := withRegs [(rAccCsr 0x61, -1), (rAccCsr 0x60, -1)] s
def ob : State := open_ base

/-- A write that a master without rights has rejected, and one that sets nothing off: the attention mask. -/
theorem wit_register_write :
    csrWriteCode 0x40 rEpochTag 5 (withRegs [(rAccCsr 0x40, 0)] base) = some eAccess ∧
    (∃ r, csrWriteCode 0x61 rAttnMask 0x3FF ob = none ∧ regRow rAttnMask = some r ∧
      ∀ t, csrEffect rAttnMask (ob.reg (homeAddr ob rAttnMask)) 0x3FF t = t) :=
  ⟨by decide +kernel, _, by decide +kernel, rfl, fun _ => rfl⟩

/-- A write to a page whose clock is gated is rejected with E_GATED. -/
theorem wit_register_write_gated :
    csrWriteCode 0x61 (rFclkSet 0) 0x7D0 (withRegs [(rClkEnable0, 0)] ob) = none ∧
    csrWriteCode 0x61 (rPortCtrl 0) 0 (withRegs [(rClkEnable0, 0)] ob) = some eGated := by decide +kernel

theorem wit_memory_registers :
    let ring := withRegs [(rIstrBase 15 15, 0x8000), (rIstrSize 15 15, 0x1000)] ob
    csrWriteCode 0x61 (rIstrWrite 15 15) 0x1000 ring = none ∧
    csrWriteCode 0x61 (rIstr 15 15 0x30) 0x40 (withRegs [(rIstrWrite 15 15, 0x40)] ring) = none ∧
    csrWriteCode 0x61 (rIstrSize 15 15) 0x1000 ob = none ∧ csrWriteCode 0x61 (rPlCtrl 7) (setFld 0 1 1 1) ob = none ∧
    csrWriteCode 0x61 rRemapReq 0 ob = none ∧
    (csrWriteCode 0x61 (rClassMap 15) 1 ob = none ∧ MemOk ob ∧
      fld (ob.reg (rClassMap 15)) (2 * 0) 2 ≠ fld (1 : Word) (2 * 0) 2) ∧
    (csrWriteCode 0x61 (rAccCsr 127) 1 ob = none ∧ isAccReg (rAccCsr 127) = true ∧ (regRow (rAccCsr 127)).isSome = true) := by
  unfold MemOk; decide +kernel

/-- Ring 255 of partition 0, on, with a queue of 64 entries and completions on queue pair 7 of port 0. -/
def ringRegs : List (Nat × Word) :=
  [(rRingCfg 255, 0xD), (rCqCfg 255, BitVec.ofNat 64 (pack [(0, 12, 7), (12, 4, 6)])), (rRingBase 255, 0x2000),
   (rAccHbm 0 0, allPages), (rAccCsr 0, -1), (rCqAddr 255, 0x8000)]

theorem wit_link_registers :
    let up := withRegs [(rPortCtrl 15, 0xB), (rPortStatus 15, 2), (rCopyLen 15, 64), (rAccHbm 0x61 0, allPages)] ob
    let ring := withRegs ringRegs ob
    (csrWriteCode 0x61 (rPortCtrl 15) (setFld 0x2B 5 1 1) up = none ∧ portEn up 15 = true ∧ fld (0x2B : Word) 0 1 = 1) ∧
    csrWriteCode 0x61 (rCopyCmd 15) (setFld 0 0 1 1) up = none ∧
    (csrWriteCode 0x61 (rPartCtrl 0) (setFld 0 3 1 1) (withRegs [(rStep 0 0 oStepStatus, 5)] ob) = none ∧ (ob.part 0).slot < 8) ∧
    csrWriteCode 0x61 (rPartCtrl 0) (setFld 0 4 1 1) ob = none ∧
    (∀ k ∈ [(0, 1), (2, 3), (3, 4), (4, 0)], csrWriteCode 0x61 (rQp 7 0) (BitVec.ofNat 64 (0x1000 + k.2))
      (withRegs [(rQp 7 0, BitVec.ofNat 64 (0x1000 + k.1))] ring) = none) ∧
    csrWriteCode 0x60 (rDoorbell 255) 64 ring = none ∧ csrWriteCode 0x60 (rCqHead 255) 0 ring = none ∧
    (csrWriteCode 0x61 (rRingCfg 255) 0xD ob = none ∧ ringOn ob 255 = false ∧ fld (0xD : Word) 0 1 = 1) ∧
    (csrWriteCode 0x61 (rRingCfg 255) 0xC ring = none ∧ ringOn ring 255 = true ∧ fld (0xC : Word) 0 1 = 0 ∧
      (ring.part (ring.rf (rRingCfg 255) 6 4)).test = 0) ∧
    csrWriteCode 0x61 rLogBase 0x1000 ob = none ∧ csrWriteCode 0x61 rLogSize 0x1000 ob = none := by decide +kernel

theorem wit_clock_registers :
    let flash : Flash := { dir0 := { stB := 1 }, dir1 := { stB := 1 } }
    let s := withRegs [(rAccHbm 0x61 0, allPages), (rFuseInfo, 0x80), (rUpdLen, 16)] { ob with sec := { ob.sec with flash := flash } }
    (∀ f ∈ [0, 15], ∀ v ∈ [1200, 2200], csrWriteCode 0x61 (rFclkSet f) (BitVec.ofNat 64 v) s = none) ∧
    partOfField s 15 = none ∧ partOfField s 0 ≠ none ∧
    csrWriteCode 0x61 rMeasCtrl (setFld 0x100000000 10 1 1) s = none ∧
    csrWriteCode 0x61 rClkEnable0 (s.reg rClkEnable0) s = none ∧ csrWriteCode 0x61 rClkEnable1 1 s = none ∧
    csrWriteCode 0x61 rResetCtrl (setFld 0 0 1 1) s = none ∧ csrWriteCode 0x61 rResetCtrl (setFld 0 0 2 2) s = none ∧
    shutDown s = false ∧ MemOk s ∧ s.hbmErr = [] ∧ recovery s = false ∧ 2 ≤ s.sec.boot ∧
    (∀ op ∈ [1, 2, 3, 4, 5], csrWriteCode 0x61 rUpdCmd (setFld 0 0 3 op) s = none) ∧
    (let x : Upd := { stream := true, data := [], len := 16 }
     let t := { s with sec := { s.sec with upd := some x } }
     t.sec.upd = some x ∧ csrWriteCode 0x61 rUpdData 7 t = none ∧ csrWriteCode 0x61 rResetCtrl (setFld 0 0 2 2) t = none ∧ shutDown t = false) := by unfold MemOk; decide +kernel

/-! ### Witnesses: links, gates, rings -/

/-- Port 0 in a state, enabled, with 128B, RS 200G at most. -/
def portAt (st : Nat) (l : Link) : State :=
  (withRegs [(rPortCtrl 0, 0x1D), (rPortStatus 0, BitVec.ofNat 64 st)] base).setLink 0 l

theorem wit_links :
    let t := portAt 1 {}
    let c := portAt 1 { trained := some 2 }
    let up := fun l => portAt 2 l
    let m := LinkMsg.copyReply 0
    (linkOn t 0 = true ∧ portEn t 0 = true ∧ portState t 0 = 1 ∧ (t.link 0).trained = none) ∧
    ((c.link 0).trained = some 2 ∧ linkOn c 0 = true ∧ portState c 0 = 1 ∧ ¬ 2 < (2 : Byte).toNat ∧ 2 < (3 : Byte).toNat) ∧
    (portState (up {}) 0 = 2 ∧ linkOn (up {}) 0 = true ∧ hdr0.crcOk = true ∧ hdr0.seq = ((up {}).link 0).rxSeq + 1 ∧
      (2#10) ≠ ((up {}).link 0).rxSeq + 1 ∧ ((up {}).link 0).lost = false ∧ ((up {}).link 0).queue = [] ∧
      ((up {}).link 0).copy = none ∧ ((up {}).link 0).entries = []) ∧
    (let s := up { queue := [(3, m)], credit := ⟨0, 0, 0, 0⟩ }
     portState s 0 = 2 ∧ linkOn s 0 = true ∧ (s.link 0).queue = [((3#2).toNat, m)] ∧ (s.link 0).copy = none ∧ 0 < (1#4).toNat ∧
      (s.link 0).unacked.length < 512 ∧ (s.link 0).entries = []) ∧
    (∀ k ∈ [7, 8], let s := up { unacked := [(5, 3, m, k)] }
      portState s 0 = 2 ∧ linkOn s 0 = true ∧ (s.link 0).unacked.filter (fun x => 512 ≤ ((4#10) - x.1).toNat) = [(5, 3, m, k)]) := by
  decide +kernel

/-- A partition in a ring of two on port 0, at a position, with an image of one layer of 64 elements at 0x8000. -/
def ringState (kind pos : Nat) (l : Link) (q : List Tok) : State :=
  let s := withRegs [(rRingReg 0, BitVec.ofNat 64 (2 * 16 + pos * 2048)), (rStep 0 0 oLeafSize, 0x1000),
    (rStep 0 0 oLeafBase, 0x10000), (rPortStatus 0, 0x42)] base
  let s := (s.putBytes 0x8010 (leBytes 2 1 ++ zeros 2 ++ leBytes 4 64)).putBytes 0x8040
    (leBytes 2 3 ++ [BitVec.ofNat 8 kind, 0, 0, 0] ++ leBytes 2 1 ++ leBytes 4 64 ++ zeros 12 ++ leBytes 8 0x20000)
  ((s.setLink 0 l).setCell (gateCell 0 0) { sw := { hop := ⟨[], q, [], []⟩ } }).setCtx 0 { base.ctx 0 with ports := 1, jig := 0x8000 }

def entryOf (s : State) (st : Nat) : Entry := { newEntry 0 0 0 0 (layerEntry s 0 0) with state := st }
def zeroBlock : List (BitVec 32) := List.replicate 32 0

theorem wit_gates :
    let g := fun t l => ringState 0 0 l [t]
    let t0 := dataTok 0 true
    let bub := dataTok 0 false
    let e := fun st => entryOf (g t0 {}) st
    (∀ s ∈ [g t0 {}, g bub {}, g (finTok false) {}], gateRuns s 0 = some 0) ∧
    gateHead (g bub {}) 0 0 = some bub ∧ gateHead (g (finTok false) {}) 0 0 = some (finTok false) ∧
    -- the first token of a block, and its second
    (gateHead (g t0 {}) 0 0 = some t0 ∧ fld t0.tag 8 8 = 0 ∧ gateEntry (g t0 {}) 0 0 0 = true ∧
      (∀ toks ∈ [[], [(7 : Row)]], let s := g t0 { entries := [{ e 1 with toks := toks }] }
        gateEntry s 0 0 0 = true ∧ findEntry (s.link 0) 0 = some { e 1 with toks := toks } ∧ (e 1).recv < (e 1).blocks ∧
        storeUsed (s.link 0) + blockBytes (e 1).dtype ≤ 4194304)) ∧
    -- a layer outside the table, one of KIND 1, a port that the context does not hold
    (∀ src ∈ [0, 256], let t := { t0 with tag := BitVec.ofNat 16 (src + 1) }
     gateHead (g t {}) 0 0 = some t ∧ fld t.tag 8 8 = src / 256 ∧ gateEntry (g t {}) 0 0 (fld t.tag 0 8) = false ∧
      ((g t {}).part 0).slot < 8) ∧
    (gateRuns (ringState 1 0 {} [t0]) 0 = some 0 ∧ gateHead (ringState 1 0 {} [t0]) 0 0 = some t0 ∧
      gateEntry (ringState 1 0 {} [t0]) 0 0 0 = false) ∧
    (let s := (g t0 {}).setCtx 0 { (g t0 {}).ctx 0 with ports := 2, jig := 0 }
     gateRuns s 0 = some 0 ∧ portRuns s 0 = none ∧ gateHead s 0 0 = some t0 ∧ gateEntry s 0 0 0 = false) := by decide +kernel

/-- The gradient-done token of layer 3, plain and compressed; a gather source, its exponent behind its bytes. -/
theorem wit_gates_done :
    let g := fun t l => ringState 0 0 l [t]
    let t0 := dataTok 0 true
    let e := fun st => entryOf (g t0 {}) st
    (∀ comp : Bool, let t : Tok := { t0 with kind := .control, payload := 3, tag := 9 }
     let x := { e 1 with recv := 2, comp := comp, locals := [(0, zeroBlock), (1, zeroBlock)] }
     let s := g t { entries := [x] }
     gateRuns s 0 = some 0 ∧ gateHead s 0 0 = some t ∧ (List.range (layerCount s 0)).find? (fun j =>
       leLayer (layerEntry s 0 j) == fld t.payload 0 32 && leKind (layerEntry s 0 j) == 0) = some 0 ∧
      findEntry (s.link 0) 0 = some x ∧ x.recv = x.blocks ∧ x.toks = [] ∧ x.state = 1 ∧ x.aborted = false ∧
      (s.link 0).aborted = false ∧ x.sent = 0 ∧ (s.link 0).queue = [] ∧ (∀ y ∈ (s.link 0).entries, y.started = false) ∧
      startedCount s 0 x = 1 ∧ canSend s 0 0 1 = true) ∧
    (let t : Tok := { t0 with tag := 256, payload := row [(224, 32, 16)] }
     let s := g t { entries := [e 2] }
     let base := leafBase s 0 (1 - activeLeaf s 0)
     gateRuns s 0 = some 0 ∧ gateEntry s 0 0 0 = true ∧ gateHead s 0 0 = some t ∧ fld t.tag 8 8 = 1 ∧ findEntry (s.link 0) (fld t.tag 0 8) = some (e 2) ∧ (e 2).state ≠ 1 ∧
      (e 2).aborted = false ∧ (e 2).taken < shardSize (e 2).blocks (ringSizeOf s 0) (ringPos s 0) ∧ canSend s 0 1 1 = true ∧
      fld t.payload 136 1 = 0 ∧ fld t.payload 160 64 + 16 ≤ (s.stepReg 0 oLeafSize).toNat ∧ (s.link 0).comb = [] ∧
      (0 : Int) ≤ (fld t.payload 160 64 : Int) + toSigned (fld t.payload 224 32) 32 ∧
      (fld t.payload 160 64 : Int) + toSigned (fld t.payload 224 32) 32 < (s.stepReg 0 oLeafSize).toNat ∧
      (fld t.payload 160 64 + 16 : Nat) ≤ (fld t.payload 160 64 : Int) + toSigned (fld t.payload 224 32) 32 ∧
      hbmDenied s (mPart s 0) kWrite (base + 0) 16 = none ∧ hbmDenied s (mPart s 0) kWrite (base + 16) 1 = none) := by decide +kernel

/-- Flits for position 0 of 2 from position 1: partials of a block of this device, of the other's, compressed, and of an
explicit reduction; one from the wrong position. -/
theorem wit_partials :
    let e := fun kind => { entryOf (ringState kind 0 {} []) 2 with locals := [(0, zeroBlock), (1, zeroBlock)] }
    let st := fun kind (x : Entry) msg => ringState kind 0 { entries := [x], rx := ⟨[msg], [], [], []⟩ } []
    (∀ kind ∈ [0, 1], ∀ q ∈ [0, 1], let s := st kind (e kind) (.redPartial 3 q 1 2 0 zeroBlock)
      MemOk s ∧ s.hbmErr = [] ∧ ringFrom s 0 = some 0 ∧ portRuns s 0 = some 0 ∧
      vcGet (s.link 0).rx 0 = .redPartial 3 q 1 (ringSizeOf s 0) 0 zeroBlock :: [] ∧
      (1 : Nat) = (ringPos s 0 + ringSizeOf s 0 - 1) % ringSizeOf s 0 ∧ entryByLayer (s.link 0) 3 = some (e kind) ∧
      (e kind).kind = kind ∧ meetRoom s 0 (e kind) q = true ∧ (q % ringSizeOf s 0 = ringPos s 0 ↔ q = 0)) ∧
    (let x := { e 0 with comp := true }
     let s := st 0 x (.redCompressed 3 0 1 2 [0])
     entryByLayer (s.link 0) 3 = some x ∧ ringFrom s 0 = some 0 ∧ portRuns s 0 = some 0 ∧ meetRoom s 0 x 0 = true ∧
      vcGet (s.link 0).rx 0 = .redCompressed 3 0 1 (ringSizeOf s 0) [0] :: []) ∧
    (let s := st 0 (e 0) (.redPartial 3 0 0 2 0 zeroBlock)
     (0 : Nat) ≠ (ringPos s 0 + ringSizeOf s 0 - 1) % ringSizeOf s 0 ∧ (s.link 0).frozen = false ∧ portRuns s 0 = some 0 ∧
      vcGet (s.link 0).rx 0 = .redPartial 3 0 0 (ringSizeOf s 0) 0 zeroBlock :: []) ∧
    (let s := st 1 (e 1) (.redPartial 3 0 1 2 0 zeroBlock)
     hbmDenied s (mPart s 0) kWrite (explicitAddr (e 1) 0 0) 64 = none) := by
  unfold MemOk; decide +kernel

theorem wit_gathered :
    let st := fun kind msg => ringState kind 0 { entries := [entryOf (ringState kind 0 {} []) 2], rx := ⟨[], [msg], [], []⟩ } []
    let e := entryOf (ringState 1 0 {} []) 2
    (∀ owner ∈ [0, 1], let s := st 0 (.gathered 3 owner 0)
      MemOk s ∧ s.hbmErr = [] ∧ ringFrom s 0 = some 0 ∧ portRuns s 0 = some 0 ∧ (entryByLayer (s.link 0) 3).isSome = true ∧
      canSend s 0 1 1 = true ∧
      vcGet (s.link 0).rx 1 = .gathered 3 owner 0 :: [] ∧ ((ringPos s 0 + 1) % ringSizeOf s 0 = owner ↔ owner = 1)) ∧
    (∀ owner ∈ [0, 1], let s := st 1 (.explicitBlock 3 1 owner 0 zeroBlock)
      MemOk s ∧ ringFrom s 0 = some 0 ∧ portRuns s 0 = some 0 ∧ entryByLayer (s.link 0) 3 = some e ∧ canSend s 0 1 1 = true ∧
      vcGet (s.link 0).rx 1 = .explicitBlock 3 1 owner 0 zeroBlock :: [] ∧
      hbmDenied s (mPart s 0) kWrite (explicitAddr e 1 0) 64 = none) := by
  unfold MemOk; decide +kernel

/-- The last part of an entry, and one whose part on port 5 is not complete. -/
def doneEntry (ports : BitVec 16) : Entry :=
  { entryOf (ringState 1 0 {} []) 3 with sent := 1, comb := 1, written := 2, ports := ports }
def doneState (ports : BitVec 16) : State := ringState 1 0 { entries := [doneEntry ports] } []

theorem wit_entry_complete :
    (MemOk (doneState 1) ∧ (doneState 1).hbmErr = [] ∧ findEntry ((doneState 1).link 0) (0 : Byte).toNat = some (doneEntry 1) ∧
      entryDone (doneState 1) 0 (doneEntry 1) = true ∧ (doneEntry 1).aborted = false) ∧
    (MemOk (doneState 33) ∧ (doneState 33).hbmErr = [] ∧ findEntry ((doneState 33).link 0) (0 : Byte).toNat = some (doneEntry 33) ∧
      entryDone (doneState 33) 0 (doneEntry 33) = true) := by unfold MemOk; decide +kernel
theorem wit_entry_parts : portsOf (doneEntry 1).ports.toNat = [0] ∧ 5 ∈ portsOf (doneEntry 33).ports.toNat ∧
    ((doneState 33).link 5).aborted = false ∧ (sibling (doneState 33) 5 (doneEntry 33)).all (fun x => x.state != 4) = true := by
  decide +kernel

/-- Both parts complete, the other one aborted. -/
theorem wit_entry_aborted :
    let s := (doneState 33).setLink 5 { entries := [{ doneEntry 33 with state := 4, aborted := true }] }
    findEntry (s.link 0) (0 : Byte).toNat = some (doneEntry 33) ∧ entryDone s 0 (doneEntry 33) = true ∧
    portsOf (doneEntry 33).ports.toNat = [0, 5] ∧ (sibling s 5 (doneEntry 33)).any (fun x => x.state == 4) = true ∧
    (sibling s 5 (doneEntry 33)).any (fun x => x.aborted) = true ∧ s.hbmErr = [] ∧ MemOk s := by unfold MemOk; decide +kernel

/-- An abort that another port started, and one that comes back to its originator. -/
theorem wit_abort : ∀ own : Bool, let s := ringState 0 0 { abortOwn := own } []
    portState s 0 = 2 ∧ linkOn s 0 = true ∧ hdr0.crcOk = true ∧ hdr0.seq = (s.link 0).rxSeq + 1 ∧ ringFrom s 0 = some 0 ∧
    (s.link 0).abortOwn = own ∧ (s.link 0).aborted = false ∧ (s.link 0).frozen = false ∧
    portLevel s 0 2 = true := by decide +kernel

/-- Copy data the peer may write, and data it may not; the reply E_ACCESS. -/
theorem wit_copy_data :
    let m := LinkMsg.copyPart 0x4000 64 0 (List.replicate 64 1)
    let s := fun rs msg => withRegs rs ((portAt 2 { rx := ⟨[], [], [], [msg]⟩ }))
    (portState (s [(rAccHbm 0x50 0, allPages)] m) 0 = 2 ∧ vcGet ((s [] m).link 0).rx 3 = m :: [] ∧
      hbmDenied (s [(rAccHbm 0x50 0, allPages)] m) (mPeer 0) kWrite (0x4000#39).toNat (64#32).toNat = none) ∧
    hbmDenied (s [] m) (mPeer 0) kWrite (0x4000#39).toNat (64#32).toNat ≠ none ∧
    vcGet ((s [] (.copyReply eAccess)).link 0).rx 3 = .copyReply eAccess :: [] := by decide +kernel

/-! ### Witnesses: Ethernet, the service die, clocks -/

/-- Ethernet port 0 is up; queue pair 7 of domain 0 is ready; the management port serves the peer 5. -/
def net : State := withRegs
  ([(rEthCtrl 0, BitVec.ofNat 64 (pack [(0, 1, 1), (16, 8, 1), (32, 14, 9216)])), (rEthStatus 0, 1), (rQp 7 0, 0x1003), (rQp 7 5, 1000),
    (rCcCtrl 0, BitVec.ofNat 64 (pack [(8, 4, 1), (12, 16, 5), (40, 20, 100)])), (rMgmtPeer 0, 0x100000005), (rEvtDest, 0x1000000000000),
    (rAttnMask, 0x3FF), (rEthCause, 1)] ++ ringRegs) ob

def frame0 (prio : BitVec 3) : Frame := { port := 0, bytes := 9216, vlan := some 0, prio := prio, roce := true, ce := false, cnpGap := false }

/-- Priority 0 of port 0 is paused. -/
def netPaused : State := net.setEth 0 { paused := [(0, 1)], out := [({ vid := none, prio := 0, dscp := 0 }, .rdmaAck 7)] }

/-- Recovery serves the management port. -/
def netRecovers : State := withRegs [(rSecCause, 2)] net

/-- A frame of 9,216 bytes fits, one of 9,217 does not, nor does one of another VLAN. -/
theorem wit_net_requests : ethUp net (0#3).toNat = true ∧ mgmtUp net = true ∧ net.rf (rIpv4 0) 0 32 = (0#32).toNat ∧
    net.rf (rIpv4 0) 0 32 ≠ (1#32).toNat ∧ ipv6Of net 0 = (0#128).toNat ∧ ipv6Of net 0 ≠ (1#128).toNat ∧
    net.rf rMgmtIpv4 0 32 = (0#32).toNat ∧ (frameFits net 0 9216 none = true ∧ frameFits net 0 9217 none = false ∧
      frameFits net 0 64 (some 5) = false ∧ frameFits net 0 64 (some 0) = true) ∧
    (shareFull net 0 1 9216 = false ∧ shareFull (net.setEth 0 { fill := [(1, 2097152)] }) 0 1 1 = true ∧
      ethUp (net.setEth 0 { fill := [(1, 2097152)] }) 0 = true) ∧
    (recovery net = false ∧ mgmtUp netRecovers = true ∧ recovery netRecovers = true ∧
      netRecovers.rf rMgmtIpv4 0 32 = (0#32).toNat) ∧
    (ethUp netPaused 0 = true ∧ ethPaused netPaused 0 0 = true ∧ ethPaused net 0 0 = false) := by decide +kernel

/-- A priority with flow control and one without, whose share of the buffer just holds the frames. -/
theorem wit_rdma_received : Received (frame0 0) 1 7 net ∧ Received (frame0 0) (packets net 7 1600) 7 net ∧ packets net 7 1600 = 2 ∧
    Received (frame0 1) 2 7 (net.setEth 0 { fill := [(1, 2097152 - 2 * 9216)] }) := by unfold Received; decide +kernel

/-- The drawers of cabinet 0 are open to domain 0. -/
def netOpen : State := withRegs [(rAccCsr 0, 0x30001)] net

theorem wit_rdma :
    let m := qpDomain net 7
    m = 0 ∧ net.rf (rDomainKey m) 0 32 = (0#32).toNat ∧ net.rf (rDomainKey m) 0 32 ≠ (1#32).toNat ∧ net.hbmErr = [] ∧
    net.drErr = [] ∧ MemOk net ∧
    (∀ k ∈ [kWrite, kRead], hbmDenied net m k 0x4000 64 = none ∧ 0x4000 < hbmEnd) ∧
    hbmDenied (withRegs [(rAccHbm 0 0, 0)] net) m kWrite 0x4000 64 = some eAccess ∧
    Received (frame0 0) 1 7 (withRegs [(rAccHbm 0 0, 0)] net) ∧
    (bSYS ≤ rEpochTag ∧ rEpochTag < csrEnd ∧ rEpochTag % 8 = 0 ∧
      (csrWrite m rEpochTag (BitVec.ofNat 64 (ofBytes (leBytes 8 9))) (frameIn (frame0 0) (packets net 7 8) 7 net).2).1 = cOk ∧
      (csrRead m rEpochTag (frameIn (frame0 0) 1 7 net).2).1 = cOk) := by unfold MemOk Received; decide +kernel

/-- The window takes the last row of drawer 0 and of the last drawer; with a token on the dowel to all landing buffers, a write
waits. -/
theorem wit_rdma_window :
    let m := qpDomain netOpen 7
    let full : State := { netOpen with dowel := [⟨9, [0], 0, 8, [(0, none)], true, 0⟩] }
    (∀ w : Bool, ∀ a ∈ [bDRAWER + 32 * 511], a < drawerEnd ∧ a % 32 = 0 ∧ windowDenied netOpen m a 32 w = none) ∧
    Received (frame0 0) 1 7 netOpen ∧ netOpen.dowel = [] ∧ issueStops netOpen 0 = false ∧ inRegion (netOpen.dr 0) 511 = false ∧ netOpen.drErr = [] ∧
    landingRoom full 0 1 = false ∧ (bDRAWER + 1) % 32 ≠ 0 := by unfold Received; decide +kernel

theorem wit_ports :
    let paused := net.setEth 0 { fill := [(0, 9216)], xoff := [0] }
    let r := { net with rings := [(255, { unacked := [7] })] }
    let ce := { frame0 0 with ce := true, cnpGap := true }
    let lost := { frame0 1 with roce := false }
    (ethUp paused 0 = true ∧ 0 ∈ (paused.eth 0).xoff ∧ sget 0 (paused.eth 0).fill 0 - 9216 < paused.rf (rPfcThr 0) 16 16 * 1024) ∧
    (pfcOn net 0 0 = true ∧ pfcOn net 0 1 = false) ∧
    (qpPort net 7 = 0 ∧ qpState net 7 = 3 ∧ unitGated net 48 = false ∧ Arrives (frame0 0) 7 net ∧ Arrives ce 7 net) ∧
    (ethUp net 0 = true ∧ frameOk net lost = false ∧ frameOk net (frame0 1) = true ∧
      shareFull (net.setEth 0 { fill := [(1, 2097152)] }) 0 1 9216 = true) ∧
    (Arrives ce 7 r ∧ ringUnacked r 7 = some 255 ∧ qpState r 7 = 3 ∧ ringOn r 255 = true ∧ r.rf (rCqCfg 255) 0 12 = 7 ∧ (1 : Byte) ≠ 0) ∧
    (net.rf (rEthCtrl 0) 0 1 = 1 ∧ net.rf (rEthStatus 0) 0 1 ≠ false.toNat) ∧
    portState (portAt 1 {}) 0 = 1 ∧ portState (portAt 2 {}) 0 = 2 := by unfold Arrives; decide +kernel

/-- A pause holds what the priority sends; its end lets it go. -/
theorem test_pause_end : (after (.pauseEnd 0 0) netPaused).sent.contains (.frame 0 { vid := none, prio := 0, dscp := 0 } (.rdmaAck 7)) = true ∧
    ethPaused (after (.pauseFrame 0 0 4) net) 0 0 = true := by decide +kernel

theorem wit_management : mgmtUp net = true ∧ (0 : BitVec 16) ≠ 0x4D47 ∧ mgmtPeer net 5 = true ∧ mgmtPeer net 6 = false ∧
    csrDenied mMgmt rDeviceId false net = none ∧ csrDenied mMgmt 4 false net = some eAlign ∧
    csrWriteCode mMgmt rAttnMask 1 net = none ∧ csrWriteCode mMgmt 4 1 net = some eAlign ∧
    (net.rf rEvtDest 48 1 = 1 ∧ attnMasked net ≠ 0) := by decide +kernel

/-- The responder runs with its connections open up to one, and all of them; a connection in each phase of the negotiation, with
and without a signed transcript; a measurement that stands and one that does not. -/
theorem wit_spdm :
    let s := fun n => { net with sec := { net.sec with conns := (List.range n).map (fun i => { id := i, phase := i, signed := some [7] }) } }
    spdmRuns (s 3) = true ∧ conn? (s 3) 3 = none ∧ (∀ j < 3, conn? (s 3) j ≠ none) ∧ (∀ j < 4, conn? (s 4) j ≠ none) ∧
    spdmRuns (s 4) = true ∧ (∀ j < 4, conn? (s 4) j = some { id := j, phase := j, signed := some [7] }) ∧ (1 : Byte).toNat < 2 ∧
    2 ≤ (2 : Byte).toNat ∧
    (let r := { s 0 with sec := { (s 0).sec with conns := [{ id := 0, phase := 3 }], measured := [1, 2] } }
     spdmRuns r = true ∧ conn? r 0 = some { id := 0, phase := 3 } ∧ measureUnknown r 2 = false ∧ measureUnknown r 3 = true) := by
  decide +kernel

/-- `MEAS_CTRL` for the longest window over field 15. -/
def measWord : Word := setFld (setFld 0 4 6 15) 32 24 0xFFFFFF

/-- A window of field 15 runs; a stack whose calibration is called for. -/
theorem wit_clock_events :
    let s := { net with clk := { net.clk with meas := some measWord, fieldHot := [(63, 2)], hbmHot := [(71, 2)] } }
    let cal := s.setPlinth 7 { calDue := [31], calTemp := [(31, 80)] }
    shutDown s = false ∧ unitGated s 54 = false ∧ unitGated s 0 = false ∧ partOfField s 0 = some 0 ∧ testing s 0 = false ∧
    (∀ r ∈ [s, withRegs [(rClkEnable0, 0)] s], r.clk.meas = some measWord) ∧
    (let v := measWord
     fld v 0 4 = 0 ∧ domainGated s (fld v 0 4) (fld v 4 6) = false ∧ domainGated (withRegs [(rClkEnable0, 0)] s) (fld v 0 4) (fld v 4 6) = true) ∧
    (∀ k < 8, unitGated s (16 + k) = false) ∧
    (31 ∈ (cal.plinth (7 : BitVec 3).toNat).calDue ∧ (31 : BitVec 5).toNat = 31 ∧ 0 ∉ (cal.plinth 7).calDue ∧
      20 ≤ (toSigned (100#16).toNat 16 - (80 : BitVec 16).toInt).natAbs) ∧
    4 * 115 ≤ toSigned (BitVec.ofNat 16 460).toNat 16 ∧ 2 ≤ sget 0 s.clk.fieldHot 63 ∧ 2 ≤ sget 0 s.clk.hbmHot 71 ∧
    (40000#16).toNat ≤ 40000 ∧ 40000 < (40001#16).toNat ∧
    (45999#16).toNat < 46000 ∧ 58000 < (58001#16).toNat ∧ (43999#16).toNat < 44000 ∧ 60000 < (60001#16).toNat ∧
    (44000 ≤ (44000#16).toNat ∧ (60000#16).toNat ≤ 60000) ∧ (List.replicate 72 (0#16)).length = 72 ∧
    (List.replicate 24 (0#16)).length = 24 := by decide +kernel

/-- What boot meets: nothing fails. -/
def seen0 (dir : Bool × Bool) : BootSeen :=
  { dirOk := dir, cfgOk := true, sigA := ⟨zeros 432, true, true⟩, sigB := ⟨[], true, true⟩, hbmFail := 0, failing := [] }

/-- A firmware image of one component, whose keys and signatures are zeros. -/
def fwImg : List Byte :=
  leBytes 4 0x57464C47 ++ leBytes 2 1 ++ leBytes 2 256 ++ leBytes 2 1 ++ [0xA1, 0] ++ leBytes 4 17744 ++ leBytes 4 1136 ++ [1] ++ zeros 17723

/-- A boot that has reached phase `n`, with that image in slot A. -/
def bootAt (n : Nat) : State :=
  let fuses : Fuses := { hash0 := sha384 (imgKeys fwImg) }
  { State.reset with sec := { State.reset.sec with boot := n, fuses := fuses, flash := putSlot false 1 { slotA := fwImg } } }

theorem putSlot_slotA (b : Bool) (v : Nat) (f : Flash) : (putSlot b v f).slotA = f.slotA := by
  unfold putSlot putDir; cases b <;> cases dirFirst f <;> rfl

theorem bootAt_img (n : Nat) : slotImg (bootAt n) false = fwImg := by
  simp only [slotImg, bootAt, putSlot_slotA, Bool.false_eq_true, if_false]

/-- The image passes every check of R538 with verdicts over its own keys, and fails with others. -/
theorem wit_firmware : slotVerify (bootAt 1) (slotImg (bootAt 1) false) ⟨imgKeys fwImg, true, true⟩ = true ∧
    slotVerify (bootAt 1) (slotImg (bootAt 1) false) ⟨imgKeys fwImg, false, true⟩ = false ∧
    slotVerify (bootAt 1) (slotImg (bootAt 1) true) ⟨[], true, true⟩ = false ∧ slotSt (bootAt 1) false = 1 := by
  have h1 : imgHeaderOk fwImg = true := by decide +kernel
  have h2 : imgLaid fwImg = true := by decide +kernel
  have h3 : imgKeyOk (bootAt 1) fwImg = true := by
    unfold imgKeyOk; rw [show imgPair fwImg = 0 from rfl, if_pos rfl]; exact beq_self_eq_true _
  have h4 : imgSvnOk (bootAt 1) fwImg = true := rfl
  refine ⟨?_, ?_, by decide +kernel, by decide +kernel⟩ <;>
    · rw [bootAt_img]
      unfold slotVerify
      rw [h1, h2, h3, h4, show (bootAt 1).sec.fuses.revoked.getLsbD (imgPair fwImg) = false from rfl]
      simp [verdictOk]

theorem wit_boot :
    (∀ n < 7, (bootAt n).sec.powered = true ∧ shutDown (bootAt n) = false ∧ (bootAt n).sec.stuck = false ∧ MemOk (bootAt n)) ∧
    (((seen0 (false, false)).dirOk.1 && dirOk (bootAt 0).sec.flash.dir0) || ((seen0 (false, false)).dirOk.2 && dirOk (bootAt 0).sec.flash.dir1)) = false ∧
    (((seen0 (true, false)).dirOk.1 && dirOk (bootAt 0).sec.flash.dir0) || ((seen0 (true, false)).dirOk.2 && dirOk (bootAt 0).sec.flash.dir1)) = true ∧
    (curDir (bootAt 1).sec.flash).next = false ∧ (bootAt 1).sec.flash.storeCrc = crc32c (storeBytes (bootAt 1).sec.flash) ∧
    (∃ x : Upd, x.len ≤ x.data.length ∧ { (bootAt 7) with sec := { (bootAt 7).sec with upd := some x } }.sec.upd = some x) ∧
    (let s := withRegs [(rRemapDir 0, BitVec.ofNat 64 (2 ^ 31 + 2 ^ 29))] (bootAt 7)
     ∃ w, (flashEntries s).find? (fun e => !s.sec.flash.remap.contains e) = some w) := by
  unfold MemOk
  refine ⟨by decide +kernel, by decide +kernel, by decide +kernel, by decide +kernel, by decide +kernel, ⟨⟨false, [], 0⟩, by decide, rfl⟩, ?_⟩
  exact Option.isSome_iff_exists.mp (by decide +kernel)

/-! ### Witnesses: rings, contexts, field tests -/

def cmd (op : Nat) (fs : List (Nat × Nat × Nat)) : Cmd := BitVec.ofNat 512 (pack ((0, 8, op) :: (8, 4, 1) :: fs))

/-- A descriptor at the head of ring 255, which serves partition 0. -/
def cmdAt (op : Nat) (fs : List (Nat × Nat × Nat)) (s : State) : State :=
  (withRegs ringRegs s).setRing 255 { cur := some (cmd op fs) }

/-- A slot of partition 0 holds a context. -/
def withCtx (sl : Nat) (x : Ctx) (s : State) : State := { s with ctxs := sset s.ctxs sl x }

theorem wit_ctxs : (withCtx 1 { alive := true, cid := 9 } base).ctxAt 0 1 = { alive := true, cid := 9 } := by decide +kernel

/-- Fetches of an unknown opcode, an unknown version, an illegal header, and a NOP. -/
theorem wit_fetch : ∀ i < 4,
    let d := [cmd 0xFF [], BitVec.ofNat 512 (pack [(0, 8, 1), (8, 4, 3)]), cmd 1 [(16, 16, 1)], cmd 1 []].getD i 0
    let s := (withRegs ((rRingTail 255, 1) :: ringRegs) base).putBytes 0x2000 (leBytes 64 d.toNat)
    let f : Cmd := BitVec.ofNat 512 (ofBytes (bytesIn s 0x2000 64))
    ringOn s 255 = true ∧ (s.ring 255).cur = none ∧ s.rf (rRingHead 255) 0 32 ≠ s.rf (rRingTail 255) 0 32 ∧
    (s.ring 255).held.length < 16 ∧ (s.reg (rRingBase 255)).toNat + 64 * (s.rf (rRingHead 255) 0 32 % ringSize s 255) = 0x2000 ∧
    0x2000 + 64 ≤ hbmEnd ∧ hbmGated s 0x2000 64 = false ∧ s.hbmErr = [] ∧ f = d ∧ depMet s f = true ∧
    (dOpOk (dOp d), dVersionOk s (dVersion d), dHeaderBad s d) =
      [(false, true, none), (true, false, none), (true, true, some 2), (true, true, none)].getD i (false, false, none) := by
  decide +kernel

/-- A fetched descriptor waits for number 5 of ring 3. -/
theorem wit_fetch_waits :
    let d : Cmd := BitVec.ofNat 512 (pack [(0, 8, 1), (8, 4, 2), (64, 32, 5), (96, 8, 3), (104, 1, 1)])
    let s := withRegs ((rRingCfg 3, 0xD) :: ringRegs) base
    (dDepEn d = true ∧ dDepRing d = 3 ∧ ringOn s 3 = true) ∧ depMet s d = false := by decide +kernel

def compl0 : Compl := { status := 0, opcode := 1, phase := true, kind := false, seq := 0, cookie := 0, step := 0, detail := 0, epoch := 0 }

theorem wit_completion_write : let s := net.setRing 255 { held := [compl0] }
    (s.ring 255).held = compl0 :: [] ∧ canWrite s 255 = true ∧ (s.ring 255).ending = none := by decide +kernel

/-- Commands that only need to be at the head of their ring: CMD_NOP, TEST_RUN and TEST_DROP of no package. -/
theorem wit_cmd : ∀ op ∈ [1, 0x19, 0x1A], CmdReady op 255 (cmdAt op [] base) (cmd op []) ∧
    pkgOf (cmdAt op [] base) (tdPkg (cmd op [])) = none ∧ unitGated (cmdAt op [] base) 57 = false := by
  unfold CmdReady; decide +kernel

/-- TEST_RUN of no package: a context runs and pre-emption is off, and no context runs. -/
theorem wit_test_run_busy :
    let s := withRegs [(rPartSched 0, 0)] (cmdAt 0x19 [] base)
    let t := cmdAt 0x19 [] (base.setPart 0 {})
    (CmdReady 0x19 255 s (cmd 0x19 []) ∧ s.rf (rPartSched 0) 40 1 = 0 ∧ (s.part 0).running = true ∧ (s.part 0).test = 0) ∧
    (CmdReady 0x19 255 t (cmd 0x19 []) ∧ (t.part 0).running = false ∧ pkgOf t (tdPkg (cmd 0x19 [])) = none ∧ unitGated t 57 = false) := by
  unfold CmdReady; decide +kernel

/-- CMD_NOP with a field of its header that is not zero. -/
theorem wit_nop_header :
    let d := cmd 1 [(16, 16, 1)]
    let s := (withRegs ringRegs base).setRing 255 { cur := some d }
    (s.ring 255).cur = some d ∧ (s.ring 255).started = false ∧ (s.ring 255).ending = none ∧ (s.ring 255).held.length < 16 ∧
    ringOn s 255 = true ∧ dOp d = 1 ∧ dVersionOk s (dVersion d) = true ∧ depMet s d = true ∧ dHeaderBad s d = some 2 := by
  decide +kernel

/-- RUN of a slot without a context, of one that is out, of the running one, of one that is busy, and of one that has been
parked since. -/
theorem wit_run :
    let fs := fun sl => [(13, 3, sl), (128, 64, 0x8000)]
    let s := cmdAt 2 (fs 7) base
    let out := cmdAt 2 (fs 1) (withCtx 1 { alive := true, cid := 9 } base)
    let run := cmdAt 2 (fs 0) (withCtx 0 { alive := true } base)
    let busy := cmdAt 2 (fs 0) base
    (CmdReady 2 255 s (cmd 2 (fs 7)) ∧ unitGated s 56 = false ∧ (s.ring 255).cid = none ∧ (s.ctxAt 0 7).alive = false) ∧
    (CmdReady 2 255 out (cmd 2 (fs 1)) ∧ (out.ctxAt 0 1).alive = true ∧ slotOfCid out 0 9 = some 1 ∧
      (out.ctxAt 0 1).run = none ∧ (out.ctxAt 0 1).prog = false ∧ isRunning out 0 1 = false) ∧
    (CmdReady 2 255 run (cmd 2 (fs 0)) ∧ slotOfCid run 0 0 = some 0 ∧ (run.ctxAt 0 0).run = none ∧
      (run.ctxAt 0 0).prog = false ∧ isRunning run 0 0 = true ∧ (run.part 0).halted = false ∧ testing run 0 = false ∧
      (run.ctxAt 0 0).fill = none ∧ (run.ctxAt 0 0).load = none ∧ stepState run 0 = sIdle) ∧
    (CmdReady 2 255 busy (cmd 2 (fs 0)) ∧ (busy.ctxAt 0 0).alive = true ∧ slotOfCid busy 0 0 = some 0 ∧
      (busy.ctxAt 0 0).prog = true) := by unfold CmdReady; decide +kernel

theorem wit_run_parked :
    let d := cmd 2 [(13, 3, 1), (128, 64, 0x8000)]
    let k : Parked := { ctx := { alive := true, cid := 9 }, regs := [], held := false }
    let s := { (withRegs ringRegs (base.setPart 0 { running := true, parked := [k] })) with
      rings := [(255, { cur := some d, cid := some 9 })] }
    CmdReady 2 255 s d ∧ (s.ring 255).cid = some 9 ∧ slotOfCid s 0 (9#32).toNat = none ∧
    (k ∈ (s.part 0).parked ∧ k.ctx.cid = 9 ∧ k.ctx.run = none ∧ k.ctx.prog = false) := by unfold CmdReady; decide +kernel

/-- SEM sets the largest value and goes down by 1 from 0; EVENT by 1 and by 0. -/
theorem wit_sem_event :
    let v := fun (s : State) (d : Cmd) => if fld d 136 1 = 0 then (fld d 160 32 : Int)
      else semOf (s.ctxAt 0 (dCtx d)) (fld d 128 6) + toSigned (fld d 160 32) 32
    let set := [(128, 6, 63), (160, 32, 0xFFFFFFFF)]
    let add := [(128, 6, 63), (136, 1, 1), (160, 32, 0xFFFFFFFF)]
    (CmdReady 3 255 (cmdAt 3 set base) (cmd 3 set) ∧ ((cmdAt 3 set base).ctxAt 0 0).alive = true ∧
      v (cmdAt 3 set base) (cmd 3 set) = 0xFFFFFFFF ∧ ((cmdAt 3 set base).ctxAt 0 0).semQ = []) ∧
    (CmdReady 3 255 (cmdAt 3 add base) (cmd 3 add) ∧ v (cmdAt 3 add base) (cmd 3 add) < 0) ∧
    (CmdReady 3 255 (cmdAt 3 [(13, 3, 7)] base) (cmd 3 [(13, 3, 7)]) ∧ ((cmdAt 3 [(13, 3, 7)] base).ctxAt 0 7).alive = false) ∧
    (∀ n ∈ [0, 1], let d := [(128, 8, 255), (160, 32, n)]
      CmdReady 4 255 (cmdAt 4 d base) (cmd 4 d) ∧ unitGated (cmdAt 4 d base) 56 = false ∧ fld (cmd 4 d) 160 32 = n) := by
  unfold CmdReady; decide +kernel

/-- FILL of a granule, of one that no page grants, and of one that is misaligned. -/
theorem wit_fill :
    let d := fun a => [(128, 64, a), (192, 64, 256), (256, 64, 7)]
    let s := cmdAt 5 (d 0x4000) base
    let none_ := withRegs [(rAccHbm 0 0, 0)] s
    let odd := cmdAt 5 (d 0x4008) base
    (CmdReady 5 255 s (cmd 5 (d 0x4000)) ∧ hbmDenied s (ringDomain s 255) kWrite 0x4000 256 = none ∧ s.hbmErr = [] ∧ MemOk s) ∧
    (CmdReady 5 255 none_ (cmd 5 (d 0x4000)) ∧ hbmDenied none_ (ringDomain none_ 255) kWrite 0x4000 256 = some eAccess) ∧
    (CmdReady 5 255 odd (cmd 5 (d 0x4008)) ∧ hbmDenied odd (ringDomain odd 255) kWrite 0x4008 256 = none ∧
      (0x4008 : Nat) % 256 ≠ 0) := by unfold CmdReady MemOk; decide +kernel

/-- DFILL of an idle partition, in a step, and without the right. -/
theorem wit_dfill :
    let s := fun rs prog => withRegs rs (cmdAt 6 [] (withCtx 0 { alive := true, prog := prog } base))
    (CmdReady 6 255 (s [] false) (cmd 6 []) ∧ ((s [] false).ctxAt 0 0).alive = true ∧
      fld ((s [] false).reg (rAccCsr 0)) 17 1 = 1 ∧ fld ((s [] false).reg (rAccCsr 0)) 0 1 = 1 ∧
      stepState (s [] false) 0 = sIdle ∧ programRuns (s [] false) 0 = false ∧ partOn (s [] false) 0 = true ∧ MemOk (s [] false) ∧ ((s [] false).ring 255).filled = 0) ∧
    unitGated (s [] false) 56 = false ∧ unitGated (s [] true) 56 = false ∧
    (CmdReady 6 255 (s [] true) (cmd 6 []) ∧ programRuns (s [] true) 0 = true) ∧
    (CmdReady 6 255 (s [(rAccCsr 0, 0)] true) (cmd 6 []) ∧ fld ((s [(rAccCsr 0, 0)] true).reg (rAccCsr 0)) 17 1 = 0) := by
  unfold CmdReady MemOk; decide +kernel

def parked9 (held : Bool) : Parked := { ctx := { alive := true, cid := 9, prog := true }, regs := [], held := held }
def withPart (x : Part) (s : State) : State := s.setPart 0 x

def ctxFs (sl cid : Nat) : List (Nat × Nat × Nat) := [(13, 3, sl), (128, 64, 0x4000), (192, 16, 0x8001), (224, 32, cid)]

theorem wit_create_destroy :
    let s10 := cmdAt 0x10 (ctxFs 1 9) base
    let s10b := cmdAt 0x10 (ctxFs 0 9) base
    let s11 := cmdAt 0x11 (ctxFs 1 0) (withCtx 1 { alive := true, cid := 9 } base)
    let s11w := (withRegs [(rRingCfg 3, 0xD)] s11).setRing 3 { cid := some 9 }
    (unitGated s10 56 = false ∧ unitGated s11 56 = false) ∧
    (CmdReady 0x10 255 s10 (cmd 0x10 (ctxFs 1 9)) ∧ (portsTaken s10 0 8).toNat &&& 0x8001 = 0 ∧ (s10.ctxAt 0 1).alive = false ∧
      0x8001 &&& partPorts s10 0 = 0x8001 ∧ cidUsed s10 0 9 = false ∧ fld (cmd 0x10 (ctxFs 1 9)) 128 64 % 4096 = 0) ∧
    (CmdReady 0x10 255 s10b (cmd 0x10 (ctxFs 0 9)) ∧ (s10b.ctxAt 0 0).alive = true) ∧
    (CmdReady 0x11 255 s11 (cmd 0x11 (ctxFs 1 0)) ∧ (s11.ctxAt 0 1).alive = true ∧ ctxIdle (s11.ctxAt 0 1) = true ∧
      ∀ q < 256, ringPart s11 q = 0 → (s11.ring q).cid ≠ some 9) ∧
    (CmdReady 0x11 255 s11w (cmd 0x11 (ctxFs 1 0)) ∧ ringPart s11w 3 = 0 ∧ (s11w.ring 3).cid = some (s11w.ctxAt 0 1).cid) := by
  unfold CmdReady; decide +kernel

/-- CTX_DESTROY of the running context, which has ended and whose image stands in the cabinets. -/
theorem wit_destroy_running :
    let s := (cmdAt 0x11 (ctxFs 0 0) (withCtx 0 { alive := true } base)).setCab 0 { slot0 := { st := 2, img := [0] } }
    CmdReady 0x11 255 s (cmd 0x11 (ctxFs 0 0)) ∧ unitGated s 56 = false ∧ (s.ctxAt 0 0).alive = true ∧ ctxIdle (s.ctxAt 0 0) = true ∧
    isRunning s 0 0 = true ∧ (∀ q < 256, ringPart s q = 0 → (s.ring q).cid ≠ some 0) ∧ inPart s 0 0 = true ∧
    (s.cab 0).now.st = 2 := by unfold CmdReady; decide +kernel

theorem wit_park_unpark :
    let s12 := cmdAt 0x12 (ctxFs 1 0) (withCtx 1 { alive := true } base)
    let s12r := cmdAt 0x12 (ctxFs 0 0) base
    let s12f := cmdAt 0x12 (ctxFs 0 0) (withPart { running := true, parked := List.replicate 16 (parked9 true) } base)
    let s13 := cmdAt 0x13 (ctxFs 1 9) (withPart { running := true, parked := [parked9 true] } base)
    let s13n := cmdAt 0x13 (ctxFs 1 9) base
    (unitGated s12 56 = false ∧ unitGated s13 56 = false) ∧
    (CmdReady 0x12 255 s12 (cmd 0x12 (ctxFs 1 0)) ∧ isRunning s12 0 1 = false ∧ (s12.part 0).parked.length + 0 < 16 ∧
      (s12.part 0).parking = none) ∧
    (CmdReady 0x12 255 s12r (cmd 0x12 (ctxFs 0 0)) ∧ isRunning s12r 0 0 = true ∧ (s12r.part 0).parking = none ∧
      (s12r.part 0).parked.length < 16 ∧ (s12r.ctxAt 0 0).alive = true) ∧
    (CmdReady 0x12 255 s12f (cmd 0x12 (ctxFs 0 0)) ∧ 16 ≤ (s12f.part 0).parked.length) ∧
    (CmdReady 0x13 255 s13 (cmd 0x13 (ctxFs 1 9)) ∧ (s13.ctxAt 0 1).alive = false ∧
      (s13.part 0).parked.find? (fun k => k.ctx.cid.toNat == 9) = some (parked9 true) ∧
      (parked9 true).ctx.ports &&& portsTaken s13 0 8 = 0) ∧
    (CmdReady 0x13 255 s13n (cmd 0x13 (ctxFs 1 9)) ∧ (s13n.part 0).parked.find? (fun k => k.ctx.cid.toNat == 9) = none) := by
  unfold CmdReady; decide +kernel

/-- A CTX_PARK that started and whose context the partition no longer parks. -/
theorem wit_park_gone : let s := (cmdAt 0x12 (ctxFs 0 0) base).setRing 255 { cur := some (cmd 0x12 (ctxFs 0 0)), started := true }
    (s.ring 255).cur = some (cmd 0x12 (ctxFs 0 0)) ∧ (s.ring 255).started = true ∧ (s.ring 255).ending = none ∧
    (s.ring 255).held.length < 16 ∧ ringOn s 255 = true ∧ dOp (cmd 0x12 (ctxFs 0 0)) = 0x12 ∧ (s.part 0).parking ≠ some 255 ∧
    ringPart s 255 = 0 ∧ unitGated s 56 = false := by decide +kernel

theorem wit_post_switch :
    let fs := fun ev i => [(128, 8, i), (136, 1, ev), (160, 32, 1), (224, 32, 9)]
    let here := withCtx 0 { alive := true, cid := 9 } base
    let away := withPart { running := true, parked := [parked9 true] } base
    (∀ ev ∈ [0, 1], let s := cmdAt 0x14 (fs ev (if ev = 1 then 255 else 63)) here
      CmdReady 0x14 255 s (cmd 0x14 (fs ev (if ev = 1 then 255 else 63))) ∧ slotOfCid s 0 9 = some 0 ∧
      semOf (s.ctxAt 0 0) 63 + 1 ≤ 0xFFFFFFFF ∧ (s.ctxAt 0 0).semQ = []) ∧
    (let s := cmdAt 0x14 (fs 1 255) away
     CmdReady 0x14 255 s (cmd 0x14 (fs 1 255)) ∧ slotOfCid s 0 9 = none ∧
      (s.part 0).parked.find? (fun k => k.ctx.cid.toNat == 9) = some (parked9 true)) ∧
    (let s := cmdAt 0x14 (fs 1 255) base
     CmdReady 0x14 255 s (cmd 0x14 (fs 1 255)) ∧ slotOfCid s 0 9 = none ∧
      (s.part 0).parked.find? (fun k => k.ctx.cid.toNat == 9) = none) ∧
    (∀ on ∈ [0, 1], let s := withRegs [(rPartSched 0, BitVec.ofNat 64 (on * 2 ^ 40))] (cmdAt 0x15 [] base)
      CmdReady 0x15 255 s (cmd 0x15 []) ∧ (s.ctxAt 0 0).alive = true ∧ ctxIdle (s.ctxAt 0 0) = false ∧
      s.rf (rPartSched 0) 40 1 = on) := by unfold CmdReady; decide +kernel

/-- Context 1 has a RUN to start; context 0 runs, at a boundary, and is to be switched out. -/
def twoCtxs (running switch : Bool) : State :=
  withRegs [(rPartSched 0, BitVec.ofNat 64 (2 ^ 40))]
    ((withPart { running := running, switch := switch } (withCtx 1 { alive := true, run := some ⟨255, 0, 0, 0x8000⟩ }
      (withCtx 0 { alive := true, prog := true, area := 0x100000 } base))).setCab 0 { slot0 := { st := 2 } })

theorem wit_switches :
    let r := twoCtxs true false
    let n := twoCtxs false false
    let f := twoCtxs true true
    (scheduling r 0 = true ∧ (r.part 0).slot < 8 ∧ sliceRuns r 0 = true ∧ r.rf (rPartSched 0) 40 1 = 1 ∧
      (nextSlot r 0).isSome = true ∧ sliceRuns n 0 = false) ∧
    (scheduling n 0 = true ∧ (n.part 0).running = false ∧ nextSlot n 0 = some 1 ∧ (n.ctxAt 0 1).saved = none ∧
      (n.ctxAt 0 1).run = some ⟨255, 0, 0, 0x8000⟩ ∧ (n.ctxAt 0 1).prog = false ∧ (n.ctxAt 0 1).fill = none ∧
      (n.ctxAt 0 1).load = none ∧ (n.ctxAt 0 1).again = none ∧ n.rf (rStep 0 1 oStepStatus) 0 3 = sIdle) ∧
    (scheduling f 0 = true ∧ (f.part 0).slot < 8 ∧ restoring f 0 = false ∧ switchDue f 0 = true ∧ boundary f 0 = true ∧
      (f.part 0).parking = none ∧ f.hbmErr = [] ∧ (f.cab (firstCab f 0)).now.st = 2 ∧
      hbmDenied f (mPart f 0) kWrite (f.ctx 0).area (0x1000 + scanBytes f 0 false) = none) := by decide +kernel

/-- The same with the context of slot 1 named; and with no other context. -/
theorem wit_switch_target :
    let f := twoCtxs true true
    let g := withPart { running := true, switch := true, target := some 1 } f
    let a := withPart { running := true, switch := true } (withCtx 1 {} f)
    ((g.part 0).target = some 1 ∧ (g.part 0).slot ≠ 1 ∧ (g.ctxAt 0 1).alive = true ∧ ctxIdle (g.ctxAt 0 1) = false ∧
      (g.ctxAt 0 1).saved ≠ some false ∧ switchDue g 0 = true ∧ boundary g 0 = true) ∧
    (scheduling a 0 = true ∧ (a.part 0).running = true ∧ restoring a 0 = false ∧ boundary a 0 = true ∧
      (a.part 0).parking = none ∧ nextSlot a 0 = none) := by decide +kernel

/-- A forced scan-out is due, with the dowel at rest and with a granted write on its way. -/
theorem wit_forced :
    let f := twoCtxs true true
    let w := { f with dowel := [⟨0, [1], 0, 1, [(1, none)], true, 0⟩] }
    (forcedDue f 0 = true ∧ dowelIdle f 0 = true ∧ flitsAcked f 0 = true ∧
      hbmDenied f (mPart f 0) kWrite (f.ctx 0).area (0x1000 + scanBytes f 0 true) = none) ∧
    (forcedDue w 0 = true ∧ (dowelIdle w 0 && flitsAcked w 0) = false) := by decide +kernel

/-- Context 0 waits for an event and is out; context 9 is parked and can run. -/
theorem wit_eviction :
    let x : Ctx :=
      { alive := true, prog := true, saved := some false, keepSeq := [(0, { x := [(1, 7)], wait := 2, seg := 0x1000, len := 4 })] }
    let s := (withRegs [(rBlockEvict 0, 5)] (withPart { parked := [parked9 false] } (withCtx 0 x base))).putBytes 0x1000
      (leBytes 8 (cw cWAIT 1 0 0).toNat)
    scheduling s 0 = true ∧ (s.part 0).slot < 8 ∧ (s.part 0).parking = none ∧ s.rf (rBlockEvict 0) 0 32 ≠ 0 ∧
    (∀ sl < 8, ctxState s 0 sl = 0 ∨ ctxState s 0 sl = 1 ∨ ctxState s 0 sl = 4) ∧ victim s 0 = some 0 ∧
    isRunning s 0 0 = false ∧
    (s.part 0).parked.find? (fun k => !k.held && parkedRunnable s 0 k && k.ctx.ports &&& portsTaken s 0 0 == 0)
      = some (parked9 false) ∧ (s.ctxAt 0 0).cid ≠ (parked9 false).ctx.cid := by decide +kernel

def pkg1 : Pkg := { id := 4, base := 0x100000, size := 0x5000 }

def withPkg (s : State) : State := { s with integ := { s.integ with pkgs := [pkg1] } }

/-- TEST_RUN of every pattern of a package on a partition no context of which runs. -/
theorem wit_test_starts :
    let all := [(128, 16, 4), (150, 1, 1)]
    let s := cmdAt 0x19 all (withPkg (withPart {} base))
    CmdReady 0x19 255 s (cmd 0x19 all) ∧ pkgOf s (tdPkg (cmd 0x19 all)) = some pkg1 ∧ (s.part 0).test = 0 ∧
    (s.part 0).slot < 8 ∧ (s.part 0).running = false ∧ tdAll (cmd 0x19 all) = true ∧ s.hbmErr = [] := by
  unfold CmdReady; decide +kernel

/-- A pattern has ended, without a cell and with one whose row 0 holds what the package does not expect. -/
def endState (k : Nat) : State :=
  let d := cmd 0x19 [(128, 16, 4)]
  let s := withPkg (withRegs ringRegs (withPart { test := 2 } (withRegs [(rStep 0 0 oJigStatus, 2 ^ 33)] base)))
  let s := { s with rings := [(255, { cur := some d, started := true })] }
  if k = 0 then s
  else (withBytes (0x100000 + 72) (leBytes 4 (2 ^ 16) ++ leBytes 4 0x200) (withBytes (0x100000 + 0x200) [7] s)).setBench 0
    { prog := [0] }

theorem wit_test_ends : ∀ k < 2,
    let d := cmd 0x19 [(128, 16, 4)]
    let s := endState k
    let pb := bytesIn s pkg1.base pkg1.size
    ((s.ring 255).cur = some d ∧ (s.ring 255).started = true ∧ (s.ring 255).ending = none ∧ (s.ring 255).held.length < 16 ∧
      ringOn s 255 = true ∧ dOp d = 0x19 ∧ s.hbmErr = [] ∧ s.drErr = []) ∧
    (pkgOf s (tdPkg d) = some pkg1 ∧ (s.part 0).test = 2 ∧ (s.part 0).testKeep = false ∧ patternDone s 0 = true ∧
      tdAll d = false ∧ MemOk s) ∧
    (k = 0 → s.cells = []) ∧
    (k = 1 → partOfCell s 0 = some 0 ∧ (s.bench 0).prog ≠ [] ∧
      differs ((List.range (ptRows pb 0)).map (fun q => rowIn s 0 (ptRow pb 0 + q))) (pb.drop (ptExp pb 0)) = some 0) := by
  unfold MemOk; decide +kernel

theorem wit_test_drop :
    let d := [(128, 16, 4)]
    (let u := cmdAt 0x1A d (withPkg base)
     CmdReady 0x1A 255 u (cmd 0x1A d) ∧ (pkgOf u (tdPkg (cmd 0x1A d))).isSome = true ∧
      (∀ q < 256, ringOn u q = true → (u.ring q).cur = some (cmd 0x1A d) ∧ dOp (cmd 0x1A d) ≠ 0x19)) ∧
    (let u := cmdAt 0x1A d (withRegs [(rRingCfg 3, 0xD)] ((withPkg base).setRing 3 { cur := some (cmd 0x19 d) }))
     CmdReady 0x1A 255 u (cmd 0x1A d) ∧ ringOn u 3 = true ∧ (u.ring 3).cur = some (cmd 0x19 d) ∧
      tdPkg (cmd 0x19 d) = tdPkg (cmd 0x1A d)) := by unfold CmdReady; decide +kernel

theorem wit_retire :
    let fs := fun c cab => [(128, 12, c), (140, 8, 255), (148, 1, cab)]
    let full := withRegs [(rCellMap 255 0, 0), (rCellMap 255 1, 0), (rCabMap 0 0, 0), (rCabMap 0 1, 0)] base
    (CmdReady 0x1B 255 (cmdAt 0x1B (fs 256 0) base) (cmd 0x1B (fs 256 0)) ∧ inPart (cmdAt 0x1B (fs 256 0) base) 0 256 = false) ∧
    (CmdReady 0x1B 255 (cmdAt 0x1B (fs 255 0) base) (cmd 0x1B (fs 255 0)) ∧ inPart (cmdAt 0x1B (fs 255 0) base) 0 255 = true ∧
      cellGone (cmdAt 0x1B (fs 255 0) base) 65535 = false ∧ cellSpare (cmdAt 0x1B (fs 255 0) base) 65535 = true) ∧
    (let s := cmdAt 0x1B (fs 255 0) full
     CmdReady 0x1B 255 s (cmd 0x1B (fs 255 0)) ∧ inPart s 0 255 = true ∧ cellGone s 65535 = false ∧ cellSpare s 65535 = false ∧
      cabSpare s 255 = false) ∧
    (let s := cmdAt 0x1B (fs 255 1) base
     CmdReady 0x1B 255 s (cmd 0x1B (fs 255 1)) ∧ inPart s 0 255 = true ∧ s.integ.pendCab = [] ∧ s.integ.deadCab = [] ∧
      cabSpare s 255 = true) := by unfold CmdReady; decide +kernel

/-- A captured firing that emitted one token. -/
def cap1 : Capture :=
  { idx := 0, ord := 0, tag := 0, word := 0, k := [], pre := {}, toks := ⟨none, none, none, none, none⟩, coef := [], step := 0, jig := 0,
    epoch := false, small := false, out := { regs := {}, emits := [(.d, dataTok 5 true)] } }

/-- Its re-execution agrees, or differs in the payload or in the tag; the window is closed, or open. -/
theorem wit_check : ∀ w : Bool,
    let s := withPart { running := true, window := w } (withBench { cap0 := some cap1 })
    (capAt (s.bench 0) false = some cap1 ∧ partOfCell s 0 = some 0 ∧ cellRuns s 0 = true ∧ testing s 0 = false ∧
      (s.part 0).slot < 8 ∧ (s.part 0).window = w ∧ integOn s = true) ∧
    (spoil cap1 [] = resultBytes cap1 ∧ spoil cap1 [1] ≠ resultBytes cap1 ∧
      spoil cap1 (zeros 256 ++ [1]) ≠ resultBytes cap1 ∧ spoil cap1 [2] ≠ resultBytes cap1 ∧ spoil cap1 [2] ≠ spoil cap1 [1]) := by
  decide +kernel

/-! ### Witnesses: a legal image and a package that holds it (R186–R196, R497, R498) -/

/-- The header and directory of a legal image of one cabinet, a header of its cabinet image, and a cell table entry with nothing. -/
def legalHead : List Byte :=
  leBytes 4 0x474A5A4C ++ leBytes 2 1 ++ leBytes 2 64 ++ leBytes 4 0 ++ leBytes 2 1 ++ [1] ++ zeros 5 ++ leBytes 4 64 ++
    leBytes 4 64 ++ leBytes 4 12400 ++ zeros 32 ++ leBytes 4 0 ++ leBytes 4 80 ++ leBytes 4 12320 ++ zeros 4
def legalEntry : List Byte := [0xFF, 0xFF] ++ zeros 46
def legalCab : List Byte := zeros 32 ++ (List.replicate 256 legalEntry).flatten
def legalImage : List Byte := legalHead ++ legalCab

theorem legal_drop (n : Nat) : ∀ N, n ≤ N →
    ((List.replicate N legalEntry).flatten).drop (48 * n) = (List.replicate (N - n) legalEntry).flatten := by
  induction n with
  | zero => intro N _; rfl
  | succ n ih =>
    intro N h
    obtain ⟨M, rfl⟩ : ∃ M, N = M + 1 := ⟨N - 1, by omega⟩
    rw [List.replicate_succ, List.flatten_cons, Nat.mul_succ, Nat.add_comm, ← List.drop_drop,
      show List.drop 48 (legalEntry ++ (List.replicate M legalEntry).flatten) = (List.replicate M legalEntry).flatten from
        List.drop_left' rfl, ih M (by omega), Nat.add_sub_add_right]

theorem legal_entry {n k m : Nat} (h : n < 256) (hk : k + m ≤ 48) : leAt legalCab (entryOff n + k) m = leAt legalEntry k m := by
  have hl : legalEntry.length = 48 := rfl
  unfold leAt entryOff legalCab
  rw [Nat.add_assoc, ← List.drop_drop, List.drop_left' (by rfl : (zeros 32).length = 32), ← List.drop_drop,
    legal_drop n 256 (by omega), show 256 - n = (255 - n) + 1 by omega, List.replicate_succ, List.flatten_cons,
    List.drop_append_of_le_length (by omega), List.take_append_of_le_length (by rw [List.length_drop]; omega)]

theorem legal_cell (e : LoadEnv) (b : List Byte) (cab base : Nat) {n : Nat} (h : n < 256) :
    cellBreaches e b legalCab cab base n = [] := by
  have h0 := legal_entry (k := 0) (m := 1) h (by omega)
  have h1 := legal_entry (k := 1) (m := 1) h (by omega)
  have h2 := legal_entry (k := 2) (m := 2) h (by omega)
  have h4 := legal_entry (k := 4) (m := 2) h (by omega)
  have h6 := legal_entry (k := 6) (m := 2) h (by omega)
  have h8 := legal_entry (k := 8) (m := 4) h (by omega)
  have hc := legal_entry (k := 12) (m := 4) h (by omega)
  rw [show leAt legalEntry 0 1 = 255 from rfl, Nat.add_zero] at h0
  rw [show leAt legalEntry 1 1 = 255 from rfl] at h1
  rw [show leAt legalEntry 2 2 = 0 from rfl] at h2
  rw [show leAt legalEntry 4 2 = 0 from rfl] at h4
  rw [show leAt legalEntry 6 2 = 0 from rfl] at h6
  rw [show leAt legalEntry 8 4 = 0 from rfl] at h8
  rw [show leAt legalEntry 12 4 = 0 from rfl] at hc
  have hr : (cellCfg legalCab (isV2 b) n).route = 0 := by
    have : legalCab.isEmpty = false := rfl
    unfold cellCfg; simp only [this, h0, h1, h2]; rfl
  have hx : ∀ d : Side, routeOut (0#16) d = 0 := by intro d; cases d <;> rfl
  unfold cellBreaches
  simp [h0, h1, h4, h6, h8, hc, hr, hx, brk]; omega

theorem legal_cab (e : LoadEnv) (b : List Byte) (cab base : Nat) (hb : isV2 b = false) : cabBreaches e b legalCab cab base = [] := by
  have hc : (List.range 256).flatMap (cellBreaches e b legalCab cab base) = [] :=
    List.flatMap_eq_nil_iff.mpr (fun n hn => legal_cell e b cab base (List.mem_range.mp hn))
  have h1 : cabProgs legalCab = 0 := rfl
  have h2 : cabDprogs legalCab = 0 := rfl
  have h3 : cabPool legalCab = 0 := rfl
  have h4 : cabCtrlOff legalCab = 0 := rfl
  have h5 : cabCtrlWords legalCab = 0 := rfl
  have h6 : leAt legalCab 6 2 = 0 := rfl
  have h7 : leAt legalCab 14 2 = 0 := rfl
  have h8 : leAt legalCab 20 12 = 0 := rfl
  have h9 : legalCab.length = initArea legalCab + cabInitBytes legalCab := by decide +kernel
  unfold cabBreaches
  simp [hc, h1, h2, h3, h4, h5, h6, h7, h8, h9, hb, brk, segWords, wordsAt]

theorem legal_image (e : LoadEnv) (hf : e.fields = 1) (hd : e.deadCab 0 = false) : imageBreach e legalImage = none := by
  have hi : cabImage legalImage 0 = legalCab := by
    have hl : legalCab.length ≤ 12320 := by decide +kernel
    show (legalImage.drop 80).take 12320 = legalCab
    rw [legalImage, List.drop_left' (by rfl : legalHead.length = 80), List.take_of_length_le hl]
  have hv : isV2 legalImage = false := rfl
  have hc := fun base => legal_cab e legalImage 0 base hv
  have hn : hCabs legalImage = 1 := rfl
  have hl : hLayers legalImage = 0 := rfl
  have hd0 : dirEntry legalImage 0 = (0, 80, 12320) := rfl
  have hh : headerBreaches e legalImage = [] := by
    have h1 : hFields legalImage = 1 := rfl
    have h2 : ((sections legalImage).any (fun x => hSize legalImage < x.1 + x.2) || overlapBad (sections legalImage)
      || orderBad legalImage) = false := by decide +kernel
    have h3 : hVersion legalImage = 1 := rfl
    have h4 : leAt legalImage 0 4 = 0x474A5A4C := rfl
    have h5 : leAt legalImage 6 2 = 64 := rfl
    have h6 : leAt legalImage 15 1 = 0 := rfl
    have h7 : leAt legalImage 18 2 = 0 := rfl
    have h8 : hLayerOff legalImage = 64 := rfl
    have h9 : hDirOff legalImage = 64 := rfl
    have h10 : hEst legalImage = 0 := rfl
    have h11 : leAt legalImage 40 4 = 0 := rfl
    have h12 : leAt legalImage 44 20 = 0 := rfl
    unfold headerBreaches
    simp only [h1, h2, h3, h4, h5, h6, h7, h8, h9, h10, h11, h12, hn, hl, hf]
    rfl
  have hs : stepContent legalImage true = false := by decide +kernel
  have hb : dirBreaches e legalImage 0 = [] := by
    unfold dirBreaches
    have h1 : hFields legalImage = 1 := rfl
    have h2 : hDirOff legalImage = 64 := rfl
    have h3 : leAt legalImage 66 2 = 0 := rfl
    have h4 : leAt legalImage 76 4 = 0 := rfl
    simp [hd0, h1, h2, h3, h4, hd, brk]
  unfold imageBreach
  simp only [hh, hs, hn, hl, show List.range 1 = [0] from rfl, List.flatMap_cons, List.flatMap_nil, hb, hd0, hi, hc, Bool.and_false]
  rfl

/-- JIG.NEXT names the image at 0x8000 and the slots of kind `st` fill. -/
def legalFill (img : List Byte) (kind : Nat) (st : Nat) : State :=
  let s := base.putBytes 0x8000 img
  { s with ctxs := [(0, { base.ctx 0 with fill := some (kind, 0x8000), fillIn := true })],
           cabs := (List.range 256).map (fun c => (c, { slot1 := { st := st } })) }

theorem read_part (m : Mem) (a n k : Nat) (h : n ≤ k) : m.readBytes a n = (m.readBytes a k).take n := by
  unfold Mem.readBytes; rw [← List.map_take, List.take_range, Nat.min_eq_left h]

theorem read_put {s : State} {m : Mem} {a n : Nat} {bs : List Byte} (h : m.wf = true) (hm : s.mem = m.writeBytes a bs)
    (hn : bs.length = n) : s.getBytes a n = bs := by
  subst hn; rw [State.getBytes, hm, Mem.readBytes_writeBytes a bs h]

theorem seen_prefix {s : State} {a n k : Nat} (h : s.hbmErr = []) (hk : n ≤ k) : s.seen a n = (s.getBytes a k).take n := by
  rw [State.getBytes, ← read_part s.mem a n k hk]; simp [State.seen, State.getBytes, h]

theorem read_plain {s : State} (who : Option Nat) (a n : Nat) (h : s.hbmErr = []) : (hbmReadPlain who a n s).1 = s.getBytes a n := by
  simp [hbmReadPlain, hbmRead, badGranules, h, granulesRead]

theorem fill_mem (img : List Byte) (kind st : Nat) : (legalFill img kind st).mem = base.mem.writeBytes 0x8000 img := rfl

theorem read_legal {s : State} {p a : Nat} {inside : Bool} (ha : a % 4096 = 0) (hb : s.getBytes a 12400 = legalImage)
    (he : s.hbmErr = []) (h1 : jigDenied p a 64 s = none) (h2 : jigDenied p a 12400 s = none)
    (hf : (loadEnv (hbmReadPlain (some p) a 12400 s).2 p inside).fields = 1)
    (hd : (loadEnv (hbmReadPlain (some p) a 12400 s).2 p inside).deadCab 0 = false) : (readImage p a inside s).1 = none := by
  have h64 := seen_prefix (a := a) (n := 64) (k := 12400) he (by decide)
  have hz : hSize (legalImage.take 64) = 12400 := by decide +kernel
  unfold readImage
  simp only [ha, h1, h64, hb, hz, show max 64 12400 = 12400 from rfl, h2, read_plain (some p) a 12400 he]
  simp only [legal_image _ hf hd, ne_eq, not_true_eq_false, if_false]

/-- A legal image is accepted. -/
theorem wit_slot_fill : let s := legalFill legalImage fNext 1
    partOn s 0 = true ∧ stands s 0 = false ∧ (s.part 0).slot < 8 ∧ (s.ctx 0).fill = some (fNext, 0x8000) ∧
    (∀ d ∈ partCabs s 0, ((s.cab d).slotAt (!(s.cab d).cur)).st = 1) ∧ (readImage 0 0x8000 (s.ctx 0).fillIn s).1 = none :=
  ⟨by decide +kernel, by decide +kernel, by decide +kernel, by decide +kernel, by decide +kernel,
    read_legal (by decide) (read_put (m := base.mem) (by decide) (fill_mem _ _ _) (by decide +kernel)) (by decide +kernel)
      (by decide +kernel) (by decide +kernel) (by decide +kernel) (by decide +kernel)⟩

/-! ### A test package of one pattern (R497, R498) -/

/-- The header of a package 5 with one pattern: the image above at 4096, one expected row behind it. -/
def pkgHead : List Byte :=
  leBytes 4 0x4B505446 ++ leBytes 2 1 ++ leBytes 2 5 ++ leBytes 2 1 ++ [0xA1, 1] ++ leBytes 4 16528 ++ leBytes 4 33136 ++ zeros 44
    ++ (leBytes 4 4096 ++ leBytes 4 12400 ++ leBytes 4 0x10000 ++ leBytes 4 16496 ++ zeros 16)

def pkgOne (img : List Byte) : List Byte := pkgHead ++ zeros 4000 ++ img ++ zeros 16640

theorem pkgHead_length : pkgHead.length = 96 := by decide +kernel
theorem pkgOne_length {img : List Byte} (h : img.length = 12400) : (pkgOne img).length = 33136 := by
  simp only [pkgOne, List.length_append, pkgHead_length, zeros, List.length_replicate, h]

theorem leAt_append (p q : List Byte) (off n : Nat) (h : off + n ≤ p.length) : leAt (p ++ q) off n = leAt p off n := by
  unfold leAt
  rw [List.drop_append_of_le_length (by omega), List.take_append_of_le_length (by rw [List.length_drop]; omega)]

theorem leAt_pkg (img : List Byte) (off n : Nat) (h : off + n ≤ 96) : leAt (pkgOne img) off n = leAt pkgHead off n := by
  unfold pkgOne
  rw [List.append_assoc, List.append_assoc]
  exact leAt_append _ _ _ _ (by rw [pkgHead_length]; exact h)

theorem pkg_fields (img : List Byte) : pkId (pkgOne img) = 5 ∧ pkSize (pkgOne img) = 33136 ∧ pkPatterns (pkgOne img) = 1 ∧
    packageBad (pkgOne img) 33136 = false ∧ packageVersionBad (pkgOne img) = false := by
  have l : ∀ off n v, off + n ≤ 96 → leAt pkgHead off n = v → leAt (pkgOne img) off n = v :=
    fun off n v h g => (leAt_pkg img off n h).trans g
  have l0 := l 0 4 0x4B505446 (by decide) (by decide +kernel)
  have l4 := l 4 2 1 (by decide) (by decide +kernel)
  have l6 := l 6 2 5 (by decide) (by decide +kernel)
  have l8 := l 8 2 1 (by decide) (by decide +kernel)
  have l10 := l 10 1 0xA1 (by decide) (by decide +kernel)
  have l11 := l 11 1 1 (by decide) (by decide +kernel)
  have l12 := l 12 4 16528 (by decide) (by decide +kernel)
  have l16 := l 16 4 33136 (by decide) (by decide +kernel)
  have l20 := l 20 44 0 (by decide) (by decide +kernel)
  have l64 := l (64 + 32 * 0) 4 4096 (by decide) (by decide +kernel)
  have l68 := l (68 + 32 * 0) 4 12400 (by decide) (by decide +kernel)
  have l72 := l (72 + 32 * 0) 4 0x10000 (by decide) (by decide +kernel)
  have l76 := l (76 + 32 * 0) 4 16496 (by decide) (by decide +kernel)
  have l80 := l (80 + 32 * 0) 16 0 (by decide) (by decide +kernel)
  have r1 : List.range 1 = [0] := rfl
  refine ⟨l6, l16, l11, ?_, ?_⟩
  · simp only [packageBad, pkPatterns, pkSigOff, pkSize, l0, l11, l12, l16, l20, r1, List.any_cons, List.any_nil, patternBad,
      ptImg, ptImgSize, ptRow, ptRows, ptExp, l64, l68, l72, l76, l80]
    decide +kernel
  · simp only [packageVersionBad, l4, l8, l10]
    decide +kernel

theorem pkg_image {img : List Byte} (h : img.length = 12400) : ptImage (pkgOne img) 0 = img := by
  have l : ∀ off n v, off + n ≤ 96 → leAt pkgHead off n = v → leAt (pkgOne img) off n = v :=
    fun off n v h g => (leAt_pkg img off n h).trans g
  have hp : (pkgHead ++ zeros 4000).length = 4096 := by simp only [List.length_append, pkgHead_length, zeros, List.length_replicate]
  have e : pkgOne img = (pkgHead ++ zeros 4000) ++ (img ++ zeros 16640) := by simp only [pkgOne, List.append_assoc]
  rw [ptImage, ptImg, ptImgSize, l (64 + 32 * 0) 4 4096 (by decide) (by decide +kernel),
    l (68 + 32 * 0) 4 12400 (by decide) (by decide +kernel), e, ← hp, List.drop_left, ← h, List.take_left]

/-- The package waits at 0x8000 for a TEST_LOAD of ring 255. -/
def pkgCmd : List (Nat × Nat × Nat) := [(128, 64, 0x8000), (192, 32, 33136)]
def pkgState (b : List Byte) : State :=
  (withRegs [(rTestBase, 0x100000), (rTestSize, 0x100000)] (cmdAt 0x18 pkgCmd base)).putBytes 0x8000 b

theorem pkg_bytes (b : List Byte) : bytesIn (pkgState b) 0x8000 b.length = b := by
  have h : (pkgState []).mem.wf = true := by decide +kernel
  exact Mem.readBytes_writeBytes (m := (pkgState []).mem) 0x8000 b h

theorem pkg_denied (b : List Byte) : hbmDenied (pkgState b) (ringDomain (pkgState b) 255) kRead 0x8000 33136 = none :=
  (by decide +kernel : hbmDenied (pkgState []) (ringDomain (pkgState []) 255) kRead 0x8000 33136 = none)

theorem pkg_ready (b : List Byte) : CmdReady 0x18 255 (pkgState b) (cmd 0x18 pkgCmd) :=
  (by unfold CmdReady; decide +kernel : CmdReady 0x18 255 (pkgState []) (cmd 0x18 pkgCmd))
theorem pkg_rest (b : List Byte) : (pkgState b).hbmErr = [] ∧ pkgOf (pkgState b) 5 = none ∧ (pkgState b).integ.pkgs.length < 16 ∧
    testPlace (pkgState b) 33136 = some 0x100000 ∧ testPlace ((pkgState b).setReg rTestSize 0) 33136 = none :=
  (by decide +kernel : (pkgState []).hbmErr = [] ∧ pkgOf (pkgState []) 5 = none ∧ (pkgState []).integ.pkgs.length < 16 ∧
    testPlace (pkgState []) 33136 = some 0x100000 ∧ testPlace ((pkgState []).setReg rTestSize 0) 33136 = none)
theorem pkg_mem (b : List Byte) : MemOk (pkgState b) :=
  State.putBytes_wf 0x8000 b (by decide +kernel : (pkgState []).mem.wf = true)

theorem pkg_keys (b : List Byte) : testKeys (pkgState b) = some [] := (by decide +kernel : testKeys (pkgState []) = some [])

theorem wit_test_load_of (img : List Byte) (hl : img.length = 12400) (hs : hSize img = 12400)
    (ok : ∀ e : LoadEnv, e.fields = 1 → e.deadCab 0 = false → imageBreach e img = none) :
    let s := pkgState (pkgOne img)
    let d := cmd 0x18 pkgCmd
    let pkg := bytesIn s (fld d 128 64) (fld d 192 32)
    CmdReady 0x18 255 s d ∧ hbmDenied s (ringDomain s 255) kRead (fld d 128 64) (fld d 192 32) = none ∧ fld d 128 64 % 4096 = 0 ∧
    s.hbmErr = [] ∧ MemOk s ∧ pkgOf s (pkId pkg) = none ∧ packageBad pkg (fld d 192 32) = false ∧ s.integ.pkgs.length < 16 ∧
    packageVersionBad pkg = false ∧ testPlace s (pkSize pkg) = some 0x100000 ∧
    (∀ i, i < pkPatterns pkg → patternBreach s (ringPart s 255) pkg i = none) ∧
    testPlace (s.setReg rTestSize 0) (pkSize pkg) = none := by
  intro s d pkg
  have ha : fld d 128 64 = 0x8000 := by decide +kernel
  have hn : fld d 192 32 = 33136 := by decide +kernel
  have hk : pkg = pkgOne img := by
    have h := pkg_bytes (pkgOne img)
    rw [pkgOne_length hl] at h
    show bytesIn s (fld d 128 64) (fld d 192 32) = _
    rw [ha, hn]
    exact h
  obtain ⟨f1, f2, f3, f4, f5⟩ := pkg_fields img
  rw [hk, ha, hn, f1, f2, f3]
  obtain ⟨g1, g2, g3, g4, g5⟩ := pkg_rest (pkgOne img)
  refine ⟨pkg_ready _, pkg_denied _, rfl, g1, pkg_mem _, g2, f4, g3, f5, g4, ?_, g5⟩
  intro i hi
  obtain rfl : i = 0 := by omega
  unfold patternBreach
  dsimp only
  rw [pkg_image hl, if_neg (by rw [hl, hs]; decide)]
  exact ok _ rfl rfl

theorem legal_length : legalImage.length = 12400 := by decide +kernel
theorem legal_size : hSize legalImage = 12400 := by decide +kernel

/-- The image above in a package: it passes every check, has a place, and has none in a test region of no size. -/
theorem wit_test_load : let s := pkgState (pkgOne legalImage)
    let d := cmd 0x18 pkgCmd
    let pkg := bytesIn s (fld d 128 64) (fld d 192 32)
    CmdReady 0x18 255 s d ∧ hbmDenied s (ringDomain s 255) kRead (fld d 128 64) (fld d 192 32) = none ∧ fld d 128 64 % 4096 = 0 ∧
    s.hbmErr = [] ∧ MemOk s ∧ pkgOf s (pkId pkg) = none ∧ packageBad pkg (fld d 192 32) = false ∧ s.integ.pkgs.length < 16 ∧
    packageVersionBad pkg = false ∧ testPlace s (pkSize pkg) = some 0x100000 ∧
    (∀ i, i < pkPatterns pkg → patternBreach s (ringPart s 255) pkg i = none) ∧
    testPlace (s.setReg rTestSize 0) (pkSize pkg) = none :=
  wit_test_load_of legalImage legal_length legal_size legal_image

end Sys2Proof.Tests
end

section
/-! PROOFS. Fields of words, the record of a rejected register access and the value that a write stores, with the obligation
on register writes. -/

namespace Sys2Proof.Machine

/-! ### Bits and fields of words -/

theorem testBit_fld {n : Nat} (w : BitVec n) (lo len i : Nat) :
    (fld w lo len).testBit i = (decide (i < len) && w.getLsbD (lo + i)) := by
  simp [fld, bitsOf, Nat.testBit_mod_two_pow, Nat.testBit_shiftRight, BitVec.getLsbD]

/-- A number as what lies above a field, the field, and what lies below it. -/
theorem eq_above_add_field_add_below (x lo len : Nat) :
    x = 2 ^ lo * (2 ^ len * (x >>> lo / 2 ^ len) + bitsOf x lo len) + x % 2 ^ lo := by
  rw [bitsOf, Nat.div_add_mod, Nat.shiftRight_eq_div_pow, Nat.div_add_mod]

/-- A word with a field replaced has the new field's bits there and its own bits elsewhere. -/
theorem getLsbD_setFld {n : Nat} (w : BitVec n) {lo len : Nat} (v : Nat) (h : lo + len ≤ n) (i : Nat) :
    (setFld w lo len v).getLsbD i = if lo ≤ i ∧ i < lo + len then v.testBit (i - lo) else w.getLsbD i := by
  rcases Nat.lt_or_ge i n with hin | hin
  case inr => rw [BitVec.getLsbD_of_ge _ _ hin, BitVec.getLsbD_of_ge _ _ hin, if_neg (by omega)]
  have hw := eq_above_add_field_add_below w.toNat lo len
  have hlow : w.toNat % 2 ^ lo < 2 ^ lo := Nat.mod_lt _ (Nat.two_pow_pos lo)
  have hf : bitsOf w.toNat lo len < 2 ^ len := Nat.mod_lt _ (Nat.two_pow_pos len)
  have hv : v % 2 ^ len < 2 ^ len := Nat.mod_lt _ (Nat.two_pow_pos len)
  have hi : w.getLsbD i = w.toNat.testBit i := rfl
  generalize w.toNat >>> lo / 2 ^ len = above at hw
  generalize w.toNat % 2 ^ lo = below at hw hlow
  have hs : w.toNat - (fld w lo len) <<< lo + (v % 2 ^ len) <<< lo = 2 ^ lo * (2 ^ len * above + v % 2 ^ len) + below := by
    simp only [fld, Nat.shiftLeft_eq, Nat.mul_add, Nat.mul_comm _ (2 ^ lo)] at hw ⊢
    omega
  rw [setFld, hs, BitVec.getLsbD_ofNat, hi, hw, Nat.testBit_two_pow_mul_add _ hlow, Nat.testBit_two_pow_mul_add _ hlow,
    Nat.testBit_two_pow_mul_add _ hv, Nat.testBit_two_pow_mul_add _ hf]
  have hmid : (lo ≤ i ∧ i < lo + len) ↔ (¬ i < lo ∧ i - lo < len) := by omega
  by_cases hb : i < lo
  · simp [hmid, hin, hb]
  · by_cases ha : i - lo < len
    · simp [hmid, hin, hb, ha]
    · simp [hmid, hin, hb, ha]

theorem fld_setFld_same {n : Nat} (w : BitVec n) {lo len : Nat} (v : Nat) (h : lo + len ≤ n) :
    fld (setFld w lo len v) lo len = v % 2 ^ len := by
  refine Nat.eq_of_testBit_eq fun i => ?_
  rw [testBit_fld, getLsbD_setFld w v h, Nat.testBit_mod_two_pow]
  by_cases hi : i < len
  · simp [hi]
  · simp [hi]

/-- A field that does not meet the replaced one keeps its value. -/
theorem fld_setFld_other {n : Nat} (w : BitVec n) {lo len lo' len' : Nat} (v : Nat) (h : lo + len ≤ n)
    (hd : lo' + len' ≤ lo ∨ lo + len ≤ lo') : fld (setFld w lo len v) lo' len' = fld w lo' len' := by
  refine Nat.eq_of_testBit_eq fun i => ?_
  rw [testBit_fld, testBit_fld, getLsbD_setFld w v h]
  by_cases hi : i < len'
  · rw [if_neg (by omega)]
  · simp [hi]

theorem fld_lt {n : Nat} (w : BitVec n) (lo len : Nat) : fld w lo len < 2 ^ len := Nat.mod_lt _ (Nat.two_pow_pos len)

/-! ### The record of a rejected register access (R413, R414, R435) -/

/-- COUNT of `HOST_ERR` after one more rejected access: it stays at its largest value (R435). -/
theorem hostErr_count (code : Code) (m : Nat) (write : Bool) (a : Nat) (s : State) :
    (hostErr code m write a s).rf rHostErr 32 32 = min (s.rf rHostErr 32 32 + 1) 0xFFFFFFFF := by
  have hc : s.rf rHostErr 32 32 < 2 ^ 32 := fld_lt _ 32 32
  have hv : (if s.rf rHostErr 32 32 = 0xFFFFFFFF then s.rf rHostErr 32 32 else s.rf rHostErr 32 32 + 1) % 2 ^ 32
      = min (s.rf rHostErr 32 32 + 1) 0xFFFFFFFF := by split <;> omega
  rw [← hv]
  unfold hostErr State.rf
  dsimp only
  split
  · rw [State.setReg_reg_other _ _ _ (by decide), State.setReg_reg, fld_setFld_other _ _ (by decide) (by decide),
      fld_setFld_other _ _ (by decide) (by decide), fld_setFld_other _ _ (by decide) (by decide), fld_setFld_same _ _ (by decide)]
  · rw [State.setReg_reg, fld_setFld_same _ _ (by decide)]

/-- While `HOST_ERR` holds a code, it keeps that code (R435). -/
theorem hostErr_later {s : State} (code : Code) (m : Nat) (write : Bool) (a : Nat) (h : s.rf rHostErr 0 8 ≠ 0) :
    (hostErr code m write a s).rf rHostErr 0 8 = s.rf rHostErr 0 8 := by
  unfold hostErr
  rw [State.rf] at h
  dsimp only
  rw [if_neg h, State.rf, State.setReg_reg, fld_setFld_other _ _ (by decide) (by decide), State.rf]

/-- The first rejected access is recorded with its code, its master, whether it was a write, and its address (R435). -/
theorem hostErr_first {s : State} (code : Code) (m : BitVec 7) (write : Bool) (addr : Word) (h : s.rf rHostErr 0 8 = 0) :
    let u := hostErr code m.toNat write addr.toNat s
    u.rf rHostErr 0 8 = code.toNat ∧ u.reg rHostErrAddr = addr ∧ u.rf rHostErr 8 7 = m.toNat ∧
      u.rf rHostErr 15 1 = write.toNat := by
  unfold hostErr
  rw [State.rf] at h
  dsimp only
  rw [if_pos h, State.rf, State.rf, State.rf, State.setReg_reg_other _ _ _ (by decide), State.setReg_reg, State.setReg_reg]
  refine ⟨?_, BitVec.ofNat_toNat 64 addr ▸ BitVec.setWidth_eq addr, ?_, ?_⟩
  · rw [fld_setFld_other _ _ (by decide) (by decide), fld_setFld_other _ _ (by decide) (by decide),
      fld_setFld_same _ _ (by decide)]
    exact Nat.mod_eq_of_lt code.isLt
  · rw [fld_setFld_other _ _ (by decide) (by decide), fld_setFld_same _ _ (by decide)]
    exact Nat.mod_eq_of_lt m.isLt
  · rw [fld_setFld_same _ _ (by decide)]
    cases write <;> rfl

/-- CODE of `HOST_ERR` is that of the first rejected access since the host wrote 0 (R435). -/
theorem hostErr_code (code : Code) (m : BitVec 7) (write : Bool) (addr : Word) (s : State) :
    (hostErr code m.toNat write addr.toNat s).rf rHostErr 0 8
      = if s.rf rHostErr 0 8 = 0 then code.toNat else s.rf rHostErr 0 8 := by
  split
  next h => exact (hostErr_first code m write addr h).1
  next h => exact hostErr_later code _ _ _ h

theorem hostErr_reg_other {s : State} (code : Code) (m : Nat) (write : Bool) (a : Nat) {x : Nat} (h : x ≠ rHostErr)
    (h' : x ≠ rHostErrAddr) : (hostErr code m write a s).reg x = s.reg x := by
  unfold hostErr
  dsimp only
  split
  · rw [State.setReg_reg_other _ _ _ h', State.setReg_reg_other _ _ _ h]
  · rw [State.setReg_reg_other _ _ _ h]

theorem hostErr_frame (code : Code) (m : Nat) (write : Bool) (a : Nat) (s : State) : RegFrame s (hostErr code m write a s) :=
  ((RegFrame.setReg _ _ _).trans (.setReg _ _ _)).ite (.setReg _ _ _)

theorem setHostCause_frame (bit : Nat) (s : State) : RegFrame s (setHostCause bit s) := .orReg _ _ _

theorem setHostCause_reg_other (bit : Nat) (s : State) {x : Nat} (h : x ≠ rHostCause) : (setHostCause bit s).reg x = s.reg x :=
  State.setReg_reg_other _ _ _ h

/-- A bit of `HOST_CAUSE` is set after a cause is recorded if it is the bit of that cause or was set before. -/
theorem setHostCause_getLsbD (bit k : Nat) (hk : k < 64) (s : State) :
    ((setHostCause bit s).reg rHostCause).getLsbD k = ((s.reg rHostCause).getLsbD k || decide (bit = k)) := by
  rw [setHostCause, State.orReg_reg]
  simp only [BitVec.getLsbD_or, BitVec.getLsbD_ofNat, hk, decide_true, Bool.true_and, Nat.testBit_two_pow]

theorem csrReject_frame (code : Code) (m : Nat) (write : Bool) (a : Nat) (s : State) :
    RegFrame s (csrReject code m write a s) := by
  have h := (hostErr_frame code m write a s).trans (setHostCause_frame hcRegErr _)
  have hg := h.trans ((setHostCause_frame hcGated _).ite (c := code = eGated) (.refl _))
  exact hg.trans ((setHostCause_frame hcDoorbell _).ite (.refl _))

/-- But for `HOST_CAUSE`, a rejection changes what `HOST_ERR` and `HOST_ERR_ADDR` record. -/
theorem csrReject_reg_other (code : Code) (m : Nat) (write : Bool) (a : Nat) (s : State) {x : Nat} (h : x ≠ rHostCause) :
    (csrReject code m write a s).reg x = (hostErr code m write a s).reg x := by
  unfold csrReject
  dsimp only
  split <;> split <;> simp only [setHostCause_reg_other _ _ h]

theorem csrReject_rf_other (code : Code) (m : Nat) (write : Bool) (a : Nat) (s : State) {x : Nat} (h : x ≠ rHostCause)
    (lo len : Nat) : (csrReject code m write a s).rf x lo len = (hostErr code m write a s).rf x lo len := by
  rw [State.rf, csrReject_reg_other _ _ _ _ _ h, State.rf]

/-- A rejection sets REG_ERR, and GATED too where the unit is gated (R413, R414). -/
theorem csrReject_cause (code : Code) (m : Nat) (write : Bool) (a : Nat) (s : State) :
    let w := (csrReject code m write a s).reg rHostCause
    w.getLsbD hcRegErr = true ∧ (code = eGated → w.getLsbD hcGated = true) := by
  have hr : hcRegErr < 64 := by decide
  have hg : hcGated < 64 := by decide
  unfold csrReject
  dsimp only
  refine ⟨?_, fun h => ?_⟩
  · split <;> split <;> simp [setHostCause_getLsbD _ _ hr]
  · rw [if_pos h]
    split <;> simp [setHostCause_getLsbD _ _ hg]

/-! ### The value that a write stores (R9, R412) -/

/-- Bit by bit: an RW or RWL bit is as written, a W1C bit is cleared by a 1, a lock bit stays set, any other bit stays. -/
theorem regStored_getLsbD {a : Nat} {r : RegRow} (h : regRow a = some r) (old v : Word) {k : Nat} (hk : k < 64) :
    (regStored a old v).getLsbD k =
      (if (r.rw ||| r.rwl).testBit k && !r.w1c.testBit k then v.getLsbD k || ((stickyBits a).testBit k && old.getLsbD k)
        else if r.w1c.testBit k && !(r.rw ||| r.rwl).testBit k then
          old.getLsbD k && (!v.getLsbD k || (stickyBits a).testBit k)
        else if r.w1c.testBit k then (v.getLsbD k && !v.getLsbD k) || ((stickyBits a).testBit k && old.getLsbD k)
        else old.getLsbD k) := by
  unfold regStored
  rw [h]
  dsimp only
  simp only [BitVec.getLsbD_or, BitVec.getLsbD_and, BitVec.getLsbD_not, BitVec.getLsbD_ofNat, hk, decide_true, Bool.true_and]
  generalize (r.rw ||| r.rwl).testBit k = plain, r.w1c.testBit k = c, (stickyBits a).testBit k = lock, v.getLsbD k = new,
    old.getLsbD k = prev
  revert plain c lock new prev
  decide

/-! ### Register writes -/

@[simp] theorem attend_rf (s t : State) (a lo len : Nat) : (attend s t).rf a lo len = t.rf a lo len := by
  rw [State.rf, attend_reg, State.rf]

theorem exec_registerWrite (m : BitVec 7) (addr v : Word) (s : State) :
    exec (.registerWrite m addr v) s = done s (csrWrite m.toNat addr.toNat v s).2 := rfl

/-- REGISTER_WRITE answers what the write leaves, behind which an attention frame may go out (R432). -/
theorem registerWrite_completes {m : BitVec 7} {addr v : Word} {s : State} {P : State → Prop}
    (h : P (attend s (csrWrite m.toNat addr.toNat v s).2)) : Completes (.registerWrite m addr v) s P := fun hp =>
  ⟨_, by rw [exec_registerWrite, done_eq _ _ hp], h⟩

/-- Settles O46: a rejected write is `csrReject`, a write that sets nothing off stores `regStored`. -/
theorem registerWritesFollowTheAccessTypes : Obligations.RegisterWritesFollowTheAccessTypes := by
  unfold Obligations.RegisterWritesFollowTheAccessTypes
  intro m addr v s
  dsimp only
  refine ⟨fun code hcode => registerWrite_completes ?_, fun r hnone hr hquiet => registerWrite_completes ?_⟩
  · rw [csrWrite_refused hcode]
    have hf := csrReject_frame code m.toNat true addr.toNat s
    obtain ⟨hreg, hgated⟩ := csrReject_cause code m.toNat true addr.toNat s
    have herr : rHostErr ≠ rHostCause := by decide
    have haddr : rHostErrAddr ≠ rHostCause := by decide
    simp only [attend_reg, attend_rf, attend_mem, attend_cells, attend_cabs, attend_ctxs, attend_parts, attend_rings, attend_links,
      csrReject_rf_other _ _ _ _ _ herr, csrReject_reg_other _ _ _ _ _ haddr]
    refine ⟨hreg, hgated, hostErr_count code m.toNat true addr.toNat s, hostErr_code code m true addr s,
      fun h => (hostErr_first code m true addr h).2, fun x h h' hc => ?_,
      hf.mem, hf.cells, hf.cabs, hf.ctxs, hf.parts, hf.rings, hf.links⟩
    rw [csrReject_reg_other _ _ _ _ _ hc, hostErr_reg_other _ _ _ _ h h']
  · rw [csrWrite_stored hnone, hquiet]
    refine ⟨fun k hk => ?_, fun x hx => ?_, ?_⟩
    · rw [attend_reg, State.setReg_reg, regStored_getLsbD hr _ _ hk]
    · rw [attend_reg, State.setReg_reg_other _ _ _ hx]
    · simp

end Sys2Proof.Machine
end

section
/-! PROOFS. The register map of the cabinet pages and the state after reset, with the obligation on reset values. -/

namespace Sys2Proof.Machine

/-! ### The registers of the cabinet pages (R550) -/

/-- The row describes registers that every cabinet has on its page at the same offsets, or none of a cabinet page. -/
def RegRow.sameOnCabPages (r : RegRow) : Bool :=
  bFABBLK ≤ r.lo ||
  (bFABRIC ≤ r.lo && r.lo < bFABRIC + 0x10000 && r.n3 ≤ 1 &&
    ((r.s1 == 0x10000 && r.n1 == 4096 && r.n2 ≤ 1) ||
      (r.s2 == 0x10000 && r.n2 == 4096 && 0 < r.s1 && r.lo + r.n1 * r.s1 ≤ bFABRIC + 0x10000)))

theorem rowsFabric_sameOnCabPages : ∀ r ∈ rowsFabric, r.sameOnCabPages = true := by decide +kernel

/-- A row of one register on each page stands on page `c` where it stands on page 0. -/
theorem covers_oneOnCabPage {r : RegRow} (hlo : bFABRIC ≤ r.lo) (hlt : r.lo < bFABRIC + 0x10000) (h3 : r.n3 ≤ 1)
    (hs : r.s1 = 0x10000) (hn : r.n1 = 4096) (h2 : r.n2 ≤ 1) {c off : Nat} (hc : c < 4096) (ho : off < 0x10000) :
    r.covers (rCabPage c off) = decide (bFABRIC + off = r.lo) := by
  have hmany : ¬ (4096 : Nat) ≤ 1 := by decide
  unfold bFABRIC at hlo hlt ⊢
  simp only [RegRow.covers, peel, h3, h2, hn, hs, hmany, rCabPage, bFABRIC, if_true, if_false]
  split
  · exact (decide_eq_false (by omega)).symm
  · rw [Bool.eq_iff_iff, Bool.and_eq_true, decide_eq_true_eq, beq_iff_eq, decide_eq_true_eq]
    omega

/-- A row of several registers on each page covers on page `c` the offsets it covers on page 0. -/
theorem covers_rowOnCabPage {r : RegRow} (hlo : bFABRIC ≤ r.lo) (hlt : r.lo < bFABRIC + 0x10000) (h3 : r.n3 ≤ 1)
    (hs : r.s2 = 0x10000) (hn : r.n2 = 4096) (hp : 0 < r.s1) (hfit : r.lo + r.n1 * r.s1 ≤ bFABRIC + 0x10000)
    {c off : Nat} (hc : c < 4096) (ho : off < 0x10000) :
    r.covers (rCabPage c off) = (decide (r.lo ≤ bFABRIC + off) &&
      if r.n1 ≤ 1 then bFABRIC + off - r.lo == 0
      else (bFABRIC + off - r.lo) / r.s1 < r.n1 && (bFABRIC + off - r.lo) % r.s1 == 0) := by
  have hcov : ¬ rCabPage c off < r.lo → (rCabPage c off - r.lo) / 0x10000 < 4096 → r.covers (rCabPage c off) =
      if r.n1 ≤ 1 then (rCabPage c off - r.lo) % 0x10000 == 0
      else (rCabPage c off - r.lo) % 0x10000 / r.s1 < r.n1 && (rCabPage c off - r.lo) % 0x10000 % r.s1 == 0 := fun h h' => by
    simp [RegRow.covers, peel, h3, hs, hn, h, h']
  by_cases hl : r.lo ≤ bFABRIC + off
  · have hm : (rCabPage c off - r.lo) % 0x10000 = bFABRIC + off - r.lo := by unfold rCabPage; omega
    rw [hcov (by unfold rCabPage; omega) (by unfold rCabPage; omega), hm]
    simp [hl]
  · by_cases ha : rCabPage c off < r.lo
    · simp [RegRow.covers, ha, hl]
    · -- the offset falls on the page before `c`, behind the last register of the row
      have hm : (rCabPage c off - r.lo) % 0x10000 = 0x10000 + bFABRIC + off - r.lo := by unfold rCabPage at ha ⊢; omega
      have hpast : ¬ (0x10000 + bFABRIC + off - r.lo) / r.s1 < r.n1 :=
        Nat.not_lt.mpr ((Nat.le_div_iff_mul_le hp).mpr (by omega))
      have hpos : 0x10000 + bFABRIC + off - r.lo ≠ 0 := by omega
      rw [hcov ha (by unfold rCabPage; omega), hm]
      simp [hl, hpast, hpos]

theorem covers_cabPage {r : RegRow} (h : r.sameOnCabPages = true) {c off : Nat} (hc : c < 4096) (ho : off < 0x10000) :
    r.covers (rCabPage c off) = r.covers (rCabPage 0 off) := by
  simp only [RegRow.sameOnCabPages, Bool.or_eq_true, Bool.and_eq_true, decide_eq_true_eq, beq_iff_eq] at h
  rcases h with hb | ⟨⟨⟨hlo, hlt⟩, h3⟩, ⟨⟨hs, hn⟩, h2⟩ | ⟨⟨⟨hs, hn⟩, hp⟩, hfit⟩⟩
  · have below : ∀ c, c < 4096 → r.covers (rCabPage c off) = false := fun c hc => by
      rw [RegRow.covers, if_pos]
      unfold rCabPage bFABRIC
      unfold bFABBLK at hb
      omega
    rw [below c hc, below 0 (by decide)]
  · rw [covers_oneOnCabPage hlo hlt h3 hs hn h2 hc ho, covers_oneOnCabPage hlo hlt h3 hs hn h2 (by decide) ho]
  · rw [covers_rowOnCabPage hlo hlt h3 hs hn hp hfit hc ho, covers_rowOnCabPage hlo hlt h3 hs hn hp hfit (by decide) ho]

/-- The first row of a list that describes an offset is the same on every cabinet page. -/
theorem find?_covers_cabPage {c off : Nat} (hc : c < 4096) (ho : off < 0x10000) {rows : List RegRow}
    (h : ∀ r ∈ rows, r.sameOnCabPages = true) :
    rows.find? (fun r => r.covers (rCabPage c off)) = rows.find? (fun r => r.covers (rCabPage 0 off)) := by
  induction rows with
  | nil => rw [List.find?_nil, List.find?_nil]
  | cons r rows ih =>
    rw [List.find?_cons, List.find?_cons, covers_cabPage (h r List.mem_cons_self) hc ho,
      ih fun x hx => h x (List.mem_cons_of_mem r hx)]

theorem blockRows_cabPage {c off : Nat} (hc : c < 4096) (ho : off < 0x10000) : blockRows (rCabPage c off) = rowsFabric := by
  have hlo : bFABRIC ≤ rCabPage c off := by unfold rCabPage; omega
  have hhi : rCabPage c off < csrEnd := by unfold rCabPage bFABRIC csrEnd; omega
  unfold bFABRIC at hlo
  unfold csrEnd at hhi
  unfold blockRows bSYS bCLK bPWR bSEC bHOST bETH bLINK bMEM bSCHED bINTEG bFABRIC csrEnd
  iterate 12 rw [if_neg (by omega)]
  rw [if_pos hhi]

/-- Every cabinet page has the registers of page 0, with their reset values. -/
theorem regReset_cabPage {c off : Nat} (hc : c < 4096) (ho : off < 0x10000) :
    regReset (rCabPage c off) = regReset (rCabPage 0 off) := by
  have hr : regRow (rCabPage c off) = regRow (rCabPage 0 off) := by
    rw [regRow, regRow, blockRows_cabPage hc ho, blockRows_cabPage (by decide) ho]
    exact find?_covers_cabPage hc ho rowsFabric_sameOnCabPages
  rw [regReset, regReset, hr]

/-! ### The state after reset (R10, R530) -/

@[simp] theorem reset_reg (a : Nat) : State.reset.reg a = regReset a := rfl

theorem reset_part (p : Nat) : State.reset.part p = {} := rfl

theorem reset_memOk : MemOk State.reset := by unfold MemOk; decide

theorem reset_slotsOk : SlotsOk State.reset := fun p => by
  rw [reset_part]
  exact ⟨by decide, fun t ht => by cases ht⟩

theorem reset_cabinet {c : Nat} (hc : c < 4096) :
    State.reset.reg (rCabCtrl c) = 0x400 ∧ State.reset.reg (rSeqStatus c) = 0x50000 := by
  rw [reset_reg, reset_reg, rCabCtrl, rSeqStatus, regReset_cabPage hc (by decide), regReset_cabPage hc (by decide)]
  decide +kernel

/-- Settles O4: the cabinets by the registers of page 0, the other registers by their rows of the register map. -/
theorem resetLeavesTheStatedValues : Obligations.ResetLeavesTheStatedValues := by
  unfold Obligations.ResetLeavesTheStatedValues
  refine ⟨rfl, reset_memOk, reset_slotsOk, ?_, ?_, ?_, ?_, ?_, ?_, ?_, ?_, fun c hc => reset_cabinet hc, ?_, ?_⟩
  all_goals decide +kernel

end Sys2Proof.Machine
end

section
/-! PROOFS. What fault reports leave alone: the registers of the scheduler and of the cabinet pages but the FAULT bits, and the
integrity unit but its sequence number. -/

namespace Sys2Proof.Machine

/-- What a fold keeps with every entry of its list, it keeps. -/
theorem foldl_keeps_mem {α : Type} {R : State → State → Prop} (hr : ∀ s, R s s) (ht : ∀ {s t u}, R s t → R t u → R s u)
    {f : State → α → State} : ∀ (l : List α), (∀ s, ∀ a ∈ l, R s (f s a)) → ∀ s, R s (l.foldl f s)
  | [], _, s => hr s
  | a :: l, h, s =>
    ht (h s a List.mem_cons_self) (foldl_keeps_mem hr ht l (fun s b hb => h s b (List.mem_cons_of_mem a hb)) _)

/-! ### Registers that no report writes (R487–R490) -/

/-- A register of the scheduler, or one of the fabric that holds no FAULT bits. -/
def OutsideReports (x : Nat) : Prop :=
  (bSCHED ≤ x ∧ x < bINTEG) ∨ (bFABRIC ≤ x ∧ ∀ g, x ≠ rCellFault (g / 256) (g % 256 / 64))

/-- Reports write below the scheduler, and between it and the fabric. -/
theorem OutsideReports.ne {x a : Nat} (hx : OutsideReports x) (ha : a < bSCHED ∨ bINTEG ≤ a ∧ a < bFABRIC) : x ≠ a := by
  have hs : bSCHED < bINTEG := by decide
  have hf : bINTEG < bFABRIC := by decide
  rcases hx with ⟨hlo, hhi⟩ | ⟨hlo, -⟩ <;> omega

theorem OutsideReports.ne_cellFault {x : Nat} (hx : OutsideReports x) (g : Nat) : x ≠ rCellFault (g / 256) (g % 256 / 64) := by
  rcases hx with ⟨-, hhi⟩ | ⟨-, hg⟩
  · unfold bINTEG at hhi
    unfold rCellFault rCabPage bFABRIC
    omega
  · exact hg g

theorem cabCause_outsideReports (c : Nat) : OutsideReports (rCabCause c) := by
  refine .inr ⟨?_, fun g => ?_⟩
  · unfold rCabCause rCabPage; omega
  · unfold rCabCause rCellFault rCabPage; omega

theorem stackOf_lt (a : Nat) : stackOf a < 8 := Nat.xor_lt_two_pow (n := 3) (Nat.mod_lt _ (by decide)) (Nat.mod_lt _ (by decide))

/-- The pages of the stacks stand below the scheduler. -/
theorem rPlinth_lt {k off : Nat} (hk : k < 8) (ho : off < 0x100000) : rPlinth k off < bSCHED := by
  unfold rPlinth bMEM bSCHED; omega

theorem rPlCount_lt {k c : Nat} (hk : k < 8) (hc : c < 15) : rPlCount k c < bSCHED := rPlinth_lt hk (by omega)

/-! ### What a report keeps -/

/-- Registers that no report writes are as before; of the integrity unit only the sequence number changes. -/
structure ReportKeeps (s u : State) : Prop where
  reg : ∀ x, OutsideReports x → u.reg x = s.reg x
  integ : u.integ = { s.integ with seq := u.integ.seq }

theorem ReportKeeps.refl (s : State) : ReportKeeps s s := ⟨fun _ _ => rfl, rfl⟩

theorem ReportKeeps.trans {s t u : State} (h : ReportKeeps s t) (g : ReportKeeps t u) : ReportKeeps s u where
  reg x hx := (g.reg x hx).trans (h.reg x hx)
  integ := g.integ.trans (congrArg (fun i : Integ => { i with seq := u.integ.seq }) h.integ)

theorem ReportKeeps.ite {s t u : State} {c : Prop} [Decidable c] (h : ReportKeeps s t) (g : ReportKeeps s u) :
    ReportKeeps s (if c then t else u) := by split <;> assumption

/-- A report may write the register. -/
theorem ReportKeeps.setReg (s : State) {a : Nat} (v : Word) (ha : a < bSCHED ∨ bINTEG ≤ a ∧ a < bFABRIC) :
    ReportKeeps s (s.setReg a v) := ⟨fun _ hx => State.setReg_reg_other _ _ _ (hx.ne ha), rfl⟩

theorem countGrans_reports {c : Nat} (hc : c < 15) (a n : Nat) (s : State) : ReportKeeps s (countGrans c a n s) :=
  foldl_keeps ReportKeeps.refl ReportKeeps.trans _ (fun s g => .setReg s _ (.inl (rPlCount_lt (stackOf_lt g) hc))) _ s

theorem countBytes_reports {c : Nat} (hc : c < 15) (a n : Nat) (s : State) : ReportKeeps s (countBytes c a n s) := by
  have hall (v : Nat) : ReportKeeps s ((List.range 8).foldl (fun s k => s.count (rPlCount k c) v) s) :=
    foldl_keeps_mem .refl .trans _ (fun s k hk => .setReg s _ (.inl (rPlCount_lt (List.mem_range.mp hk) hc))) s
  unfold countBytes
  dsimp only
  split
  · exact ((hall _).trans (countGrans_reports hc _ _ _)).trans (countGrans_reports hc _ _ _)
  · exact countGrans_reports hc _ _ _

theorem countMerge_reports (g : Nat) (s : State) : ReportKeeps s (countMerge g s) :=
  (ReportKeeps.setReg s _ (.inl (rPlCount_lt (stackOf_lt g) (by decide)))).trans
    (.setReg _ _ (.inl (rPlCount_lt (stackOf_lt g) (by decide))))

theorem plError_reports {k counter : Nat} (hk : k < 8) (hc : counter < 15) (kind bit : Nat) (who : Option Nat) (a : Nat)
    (s : State) : ReportKeeps s (plError k kind bit counter who a s) :=
  ((ReportKeeps.setReg s _ (.inl (rPlinth_lt hk (by decide)))).trans (.setReg _ _ (.inl (rPlinth_lt hk (by decide))))).trans
    (.setReg _ _ (.inl (rPlCount_lt hk hc)))

theorem granuleFound_reports (who : Option Nat) (g : Nat) (s : State) : ReportKeeps s (granuleFound who g s).2 := by
  have hk := stackOf_lt g
  unfold granuleFound
  dsimp only
  split
  · exact .refl s
  · split
    · exact plError_reports hk (by decide) _ _ _ _ s
    · split
      · exact ReportKeeps.trans (t := { s with hbmErr := sset s.hbmErr g 0 }) ⟨fun _ _ => rfl, rfl⟩
          (plError_reports hk (by decide) _ _ _ _ _)
      · exact plError_reports hk (by decide) _ _ _ _ s

theorem setHostCause_reports (bit : Nat) (s : State) : ReportKeeps s (setHostCause bit s) := .setReg s _ (.inl (by decide))

theorem noteGated_reports (c : Option Code) (s : State) : ReportKeeps s (noteGated c s) :=
  (setHostCause_reports hcGated s).ite (.refl s)

theorem logMerge_reports (s : State) (g : Nat) : ReportKeeps s (logMerge s g) := by
  have h := (countMerge_reports g s).trans (granuleFound_reports none g _)
  unfold logMerge
  dsimp only
  split
  · exact h.trans ⟨fun _ _ => rfl, rfl⟩
  · exact h

theorem logWrite_reports (a : Nat) (bs : List Byte) (s : State) : ReportKeeps s (logWrite a bs s) := by
  have hput (t : State) : ReportKeeps t (t.putBytes a bs) := ⟨fun _ _ => rfl, rfl⟩
  exact ((foldl_keeps ReportKeeps.refl ReportKeeps.trans logMerge logMerge_reports _ s).trans (hput _)).trans
    (countGrans_reports (by decide) _ _ _)

theorem logEntry_reports (bs : List Byte) (s : State) : ReportKeeps s (logEntry bs s) := by
  unfold logEntry
  dsimp only
  refine ReportKeeps.trans ?_ (.setReg _ _ (.inr (by decide)))
  exact (logWrite_reports _ _ s).ite (noteGated_reports _ s)

theorem logEntries_reports : ∀ (bss : List (List Byte)) (s : State), ReportKeeps s (logEntries bss s).2
  | [], s => .refl s
  | bs :: rest, s => (logEntry_reports bs s).trans (logEntries_reports rest _)

theorem lastReport_reports (v : Nat) : ∀ (n : Nat), n ≤ 8 → ∀ s : State, ReportKeeps s (lastReport v n s)
  | 0, _, s => .refl s
  | n + 1, hn, s => by
    refine ReportKeeps.trans (.setReg s _ (.inr ?_)) (lastReport_reports v n (by omega) _)
    unfold rLastReport bINTEG bFABRIC
    omega

theorem nameFault_reports (u : Unit') (s : State) : ReportKeeps s (nameFault u s) := by
  cases u with
  | cell g => exact ⟨fun x hx => State.setReg_reg_other _ _ _ (hx.ne_cellFault g), rfl⟩
  | cab | plinth | engine | port | none => exact .refl s

theorem reportOne_reports (r : Rep) (conts : List (List Byte)) (s : State) : ReportKeeps s (reportOne r conts s).2 := by
  have hnamed (v : Nat) : ReportKeeps s (lastReport v 8 { nameFault r.unit s with
      integ := { (nameFault r.unit s).integ with seq := (nameFault r.unit s).integ.seq + 1 },
      fresh := (nameFault r.unit s).fresh + 1 }) := by
    refine ReportKeeps.trans ?_ (lastReport_reports v 8 (Nat.le_refl 8) _)
    exact (nameFault_reports r.unit s).trans ⟨fun _ _ => rfl, rfl⟩
  unfold reportOne
  dsimp only
  split
  · exact (hnamed _).trans (logEntries_reports _ _)
  · split
    · exact (hnamed _).trans (logEntries_reports _ _)
    · exact ((hnamed _).trans (.setReg _ _ (.inr (by decide)))).trans (.setReg _ _ (.inr (by decide)))

theorem reportAll_reports : ∀ (fuel : Nat) (rs : List Rep) (s : State), ReportKeeps s (reportAll fuel rs s)
  | 0, _, s => .refl s
  | _ + 1, [], s => .refl s
  | fuel + 1, r :: _, s => (reportOne_reports r [] s).trans (reportAll_reports fuel _ _)

theorem report_keeps (r : Rep) (conts : List (List Byte)) (s : State) : ReportKeeps s (report r conts s) :=
  (ReportKeeps.refl s).ite ((reportOne_reports r conts s).trans (reportAll_reports _ _ _))

theorem setIntegCause_reports (bit : Nat) (s : State) : ReportKeeps s (setIntegCause bit s) :=
  (ReportKeeps.setReg s _ (.inr (by decide))).ite (.refl s)

end Sys2Proof.Machine
end

section
/-! PROOFS. The registers that the end of a step, of a program and of a refused load leave alone. -/

namespace Sys2Proof.Machine

/-! ### One register and the running slots -/

/-- The register holds what it held, and every partition has the context slot it had. -/
structure KeepsReg (x : Nat) (s u : State) : Prop where
  reg : u.reg x = s.reg x
  slot : ∀ p, (u.part p).slot = (s.part p).slot

theorem KeepsReg.refl (x : Nat) (s : State) : KeepsReg x s s := ⟨rfl, fun _ => rfl⟩

theorem KeepsReg.trans {x : Nat} {s t u : State} (h : KeepsReg x s t) (g : KeepsReg x t u) : KeepsReg x s u :=
  ⟨g.reg.trans h.reg, fun p => (g.slot p).trans (h.slot p)⟩

theorem KeepsReg.ite {x : Nat} {s t u : State} {c : Prop} [Decidable c] (h : KeepsReg x s t) (g : KeepsReg x s u) :
    KeepsReg x s (if c then t else u) := by split <;> assumption

theorem KeepsReg.foldl {x : Nat} {α : Type} {f : State → α → State} (h : ∀ s a, KeepsReg x s (f s a)) (l : List α)
    (s : State) : KeepsReg x s (l.foldl f s) := foldl_keeps (.refl x) .trans f h l s

/-- What is neither a register nor a partition may change. -/
theorem KeepsReg.of_eq {x : Nat} {s u : State} (hcsr : u.csr = s.csr) (hparts : u.parts = s.parts) : KeepsReg x s u :=
  ⟨by rw [State.reg, hcsr, State.reg], fun p => by rw [State.part, hparts, State.part]⟩

theorem KeepsReg.setReg {x a : Nat} (s : State) (v : Word) (h : x ≠ a) : KeepsReg x s (s.setReg a v) :=
  ⟨State.setReg_reg_other _ _ _ h, fun _ => rfl⟩

theorem KeepsReg.setCtx (x : Nat) (s : State) (p : Nat) (c : Ctx) : KeepsReg x s (s.setCtx p c) := .of_eq rfl rfl

theorem KeepsReg.setPart (x : Nat) (s : State) {p : Nat} {y : Part} (h : y.slot = (s.part p).slot) :
    KeepsReg x s (s.setPart p y) := by
  refine ⟨rfl, fun q => ?_⟩
  by_cases hq : q = p
  · rw [hq, State.setPart_part, h]
  · rw [State.setPart_part_other _ _ _ hq]

theorem ReportKeeps.keepsReg {x : Nat} {s u : State} (h : ReportKeeps s u) (hx : OutsideReports x) (hparts : u.parts = s.parts) :
    KeepsReg x s u := ⟨h.reg x hx, fun p => by rw [State.part, hparts, State.part]⟩

/-! ### Accesses to HBM with their errors (R302–R305) -/

/-- A register that neither a report nor an access to HBM with its errors writes. -/
def OutsideAccesses (x : Nat) : Prop := OutsideReports x ∧ ∀ p sl, x ≠ rStep p sl oStepCause

section
variable {x : Nat} (hx : OutsideAccesses x)
include hx

theorem report_reg (r : Rep) (conts : List (List Byte)) (s : State) : KeepsReg x s (report r conts s) :=
  (report_keeps r conts s).keepsReg hx.1 (report_frame r conts s).parts

theorem noteGated_reg (c : Option Code) (s : State) : KeepsReg x s (noteGated c s) :=
  (noteGated_reports c s).keepsReg hx.1 (by unfold noteGated; split <;> rfl)

theorem countBytes_keepsReg {c : Nat} (hc : c < 15) (a n : Nat) (s : State) : KeepsReg x s (countBytes c a n s) :=
  (countBytes_reports hc a n s).keepsReg hx.1 (countBytes_frame c a n s).parts

theorem stepCause_reg (p bit : Nat) (s : State) : KeepsReg x s (stepCause p bit s) :=
  ((KeepsReg.setCtx x s p _).trans (.setReg _ _ (hx.2 p _))).ite (.refl x s)

theorem stepCauseOf_reg (who : Option Nat) (bit : Nat) (s : State) : KeepsReg x s (stepCauseOf who bit s) := by
  cases who with
  | none => exact .refl x s
  | some p => exact stepCause_reg hx p bit s

theorem granuleRead_reg (who : Option Nat) (g : Nat) (s : State) : KeepsReg x s (granuleRead who g s).2.2 := by
  have h := (granuleFound_reports who g s).keepsReg hx.1 (granuleFound_frame who g s).parts
  unfold granuleRead
  dsimp only
  split
  · exact h
  · next kind _ =>
    have h' := h.trans (report_reg hx (granuleRep who kind g) [] _)
    exact (h'.trans (stepCauseOf_reg hx who scEcc _)).ite h'

theorem granulesRead_reg (who : Option Nat) : ∀ (gs : List Nat) (s : State), KeepsReg x s (granulesRead who gs s).2.2
  | [], s => .refl x s
  | g :: gs, s => (granuleRead_reg hx who g s).trans (granulesRead_reg who gs _)

theorem hbmReadPlain_reg (who : Option Nat) (a n : Nat) (s : State) : KeepsReg x s (hbmReadPlain who a n s).2 := by
  have h : KeepsReg x s (hbmRead who a n s).2.2 :=
    (granulesRead_reg hx who _ s).trans (countBytes_keepsReg hx (by decide) a n _)
  exact (h.trans (stepCauseOf_reg hx who scOchre _)).ite h

theorem granuleMerge_reg (who : Option Nat) (s : State) (g : Nat) : KeepsReg x s (granuleMerge who s g) := by
  have h := ((countMerge_reports g s).keepsReg hx.1 rfl).trans (granuleRead_reg hx who g _)
  unfold granuleMerge
  extract_lets r t
  have ht : KeepsReg x s t := (h.trans (stepCauseOf_reg hx who scOchre _)).ite h
  split
  · exact ht.trans (.of_eq rfl rfl)
  · exact ht

theorem writeErrors_reg (who : Option Nat) (a n : Nat) (s : State) : KeepsReg x s (writeErrors who a n s) := by
  have h := KeepsReg.foldl (granuleMerge_reg hx who) (partGranules a n) s
  exact h.trans (.of_eq rfl rfl)

theorem hbmWrite_reg (who : Option Nat) (a : Nat) (bs : List Byte) (s : State) : KeepsReg x s (hbmWrite who a bs s) := by
  have h : KeepsReg x s ((writeErrors who a bs.length s).putBytes a bs) := (writeErrors_reg hx who a _ s).trans (.of_eq rfl rfl)
  exact h.trans (countBytes_keepsReg hx (by decide) a bs.length _)

end

/-! ### The end of a step and of a program (R59, R61, R425) -/

/-- The step registers that the end of a step writes (R59, R61, R76, R263, R295). -/
def stepWritten : List Nat := [oStepStatus, oStepNumber, oStepCause, oSpillUsed, oRangeStatus, oJournalUsed]

/-- A step register of a context that the end of a step leaves alone. -/
def OutsideStepEnd (x : Nat) : Prop :=
  ∃ p sl off, p < 16 ∧ sl < 8 ∧ off < 0x100 ∧ off ∉ stepWritten ∧ x = rStep p sl off

theorem OutsideStepEnd.ne_step {x off : Nat} (hx : OutsideStepEnd x) (ho : off ∈ stepWritten) (p sl : Nat) :
    x ≠ rStep p sl off := by
  obtain ⟨p', sl', off', -, -, hoff', hnot, rfl⟩ := hx
  have hoff : off < 0x100 := (by decide : ∀ o ∈ stepWritten, o < 0x100) off ho
  have hne : off' ≠ off := fun h => hnot (h ▸ ho)
  unfold rStep
  omega

theorem OutsideStepEnd.outsideAccesses {x : Nat} (hx : OutsideStepEnd x) : OutsideAccesses x := by
  refine ⟨.inl ?_, hx.ne_step (by decide)⟩
  obtain ⟨p, sl, off, hp, hsl, hoff, -, rfl⟩ := hx
  unfold rStep bSCHED bINTEG
  omega

theorem OutsideStepEnd.ne_ringDone {x : Nat} (hx : OutsideStepEnd x) (r : Nat) : x ≠ rRingDone r := by
  obtain ⟨p, sl, off, -, -, hoff, hnot, rfl⟩ := hx
  have hoff' : off ≠ oStepCause := fun h => hnot (h ▸ by decide)
  unfold oStepCause at hoff'
  unfold rStep rRingDone rRing bSCHED bHOST
  omega

theorem OutsideStepEnd.ne_istr {x p i off : Nat} (hx : OutsideStepEnd x) (hp : p < 16) (hi : i < 16) (ho : off < 0x40) :
    x ≠ rIstr p i off := by
  obtain ⟨p', sl, off', -, -, -, -, rfl⟩ := hx
  unfold rStep rIstr bSCHED bMEM
  omega

theorem OutsideStepEnd.ne_partCause {x p : Nat} (hx : OutsideStepEnd x) (hp : p < 16) : x ≠ rPartCause p := by
  obtain ⟨p', sl, off', -, -, -, -, rfl⟩ := hx
  unfold rStep rPartCause rPartPage
  omega

theorem loadErr_outsideStepEnd {p sl : Nat} (hp : p < 16) (hsl : sl < 8) : OutsideStepEnd (rStep p sl oLoadErr) :=
  ⟨p, sl, oLoadErr, hp, hsl, by decide, by decide, rfl⟩

/-! Sequencers and fills, which write no register -/

theorem narrowDrop_reg (x id : Nat) (s : State) : KeepsReg x s (narrowDrop id s) := by
  refine KeepsReg.foldl (fun s e => ?_) _ s
  dsimp only
  split
  · exact .of_eq rfl rfl
  · exact .refl x s

theorem dropFills_reg (x p : Nat) (s : State) : KeepsReg x s (dropFills p s) :=
  .foldl (fun s (e : Nat × Cab) => narrowDrop_reg x (reqSeq e.1) s) _ s

theorem stopSequencers_reg (x p : Nat) (s : State) : KeepsReg x s (stopSequencers p s) := by
  have hpart : KeepsReg x s (s.setPart p { s.part p with frozen := false }) := .setPart x s rfl
  exact (hpart.trans (dropFills_reg x p _)).trans (.of_eq rfl rfl)

theorem allCabs_reg (x p : Nat) (f : Nat → Cab → Cab) (s : State) : KeepsReg x s (allCabs p f s) :=
  .foldl (fun s c => .of_eq (u := s.setCab c (f c (s.cab c))) rfl rfl) _ s

theorem startFill_reg (x p kind a : Nat) (s : State) : KeepsReg x s (startFill p kind a s) :=
  (allCabs_reg x p _ s).trans (.setCtx x _ p _)

theorem stopWaiting_reg (x p : Nat) (s : State) : KeepsReg x s (stopWaiting p s) := by
  have hpart : KeepsReg x s (s.setPart p { s.part p with frozen := false }) := .setPart x s rfl
  exact hpart.trans (.of_eq rfl rfl)

section
variable {x : Nat} (hx : OutsideStepEnd x)
include hx

theorem setStepRf_reg {off : Nat} (ho : off ∈ stepWritten) (p lo len v : Nat) (s : State) :
    KeepsReg x s (s.setStepRf p off lo len v) := .setReg s _ (hx.ne_step ho p _)

theorem setStepState_reg (p v : Nat) (s : State) : KeepsReg x s (setStepState p v s) := setStepRf_reg hx (by decide) p 0 3 v s

/-! Completions -/

theorem completeRing_reg (r : Nat) (st : Code) (d : Nat) (s : State) : KeepsReg x s (completeRing r st d s) := by
  unfold completeRing
  split
  · exact .refl x s
  · split
    · exact .of_eq rfl rfl
    · refine KeepsReg.trans ?_ (.setReg _ _ (hx.ne_ringDone r))
      exact .of_eq rfl rfl

theorem completeRun_reg (p : Nat) (st : Code) (d : Nat) (s : State) : KeepsReg x s (completeRun p st d s) := by
  unfold completeRun
  split
  · exact .refl x s
  · exact ((KeepsReg.setCtx x s p _).trans (completeRing_reg hx _ st d _)).ite (.setCtx x s p _)

theorem stepCompletion_reg (p : Nat) (st : Code) (s : State) : KeepsReg x s (stepCompletion p st s) := by
  have h := setStepRf_reg hx (off := oStepStatus) (by decide) p 8 8 st.toNat s
  unfold stepCompletion
  dsimp only
  split
  · exact h
  · split
    · exact h.trans (.of_eq rfl rfl)
    · exact h

theorem runEnd_reg (p : Nat) (s : State) : KeepsReg x s (runEnd p s) := by
  unfold runEnd
  dsimp only
  split
  · split
    · exact (KeepsReg.setCtx x s p _).trans (completeRun_reg hx p _ _ _)
    · exact (KeepsReg.setCtx x s p _).trans (completeRun_reg hx p _ _ _)
  · exact .refl x s

/-! The tensor table and the journal -/

theorem onEntry_reg (p a : Nat) (f : List Byte → List Byte) (s : State) : KeepsReg x s (onEntry p a f s) :=
  (noteGated_reg hx.outsideAccesses _ s).ite
    ((hbmReadPlain_reg hx.outsideAccesses (some p) a 32 s).trans (hbmWrite_reg hx.outsideAccesses (some p) a _ _))

theorem applyFlush_reg (p : Nat) (s : State) (f : Flush) : KeepsReg x s (applyFlush p f s) :=
  (setStepRf_reg hx (by decide) p 48 16 _ s).ite (onEntry_reg hx p _ _ s)

theorem drainFlushes_reg (p : Nat) (s : State) : KeepsReg x s (drainFlushes p s) :=
  KeepsReg.trans (t := s.setPart p { s.part p with flushes := [] }) (.setPart x s rfl) (.foldl (applyFlush_reg hx p) _ _)

theorem journalReset_reg (p : Nat) (s : State) : KeepsReg x s (journalReset p s) :=
  ((KeepsReg.setCtx x s p _).trans (setStepRf_reg hx (by decide) p 0 39 0 _)).trans (setStepRf_reg hx (by decide) p 40 23 0 _)

theorem applyEntry_reg (p src row bytes : Nat) (s : State) : KeepsReg x s (applyEntry p src row bytes s) := by
  have hread := hbmReadPlain_reg hx.outsideAccesses (some p) src bytes s
  unfold applyEntry
  dsimp only
  split
  · exact noteGated_reg hx.outsideAccesses _ s
  · split
    · exact hread.trans (noteGated_reg hx.outsideAccesses _ _)
    · exact hread.trans (hbmWrite_reg hx.outsideAccesses (some p) row _ _)

theorem applyJournal_reg (p used : Nat) : ∀ (fuel off : Nat) (s : State), KeepsReg x s (applyJournal p off used fuel s)
  | 0, _, s => .refl x s
  | fuel + 1, off, s => by
    unfold applyJournal
    dsimp only
    split
    · exact .refl x s
    · split
      · exact noteGated_reg hx.outsideAccesses _ s
      · exact ((hbmReadPlain_reg hx.outsideAccesses (some p) _ 32 s).trans (applyEntry_reg hx p _ _ _ _)).trans
          (applyJournal_reg p used fuel _ _)

theorem adaptTable_reg (p : Nat) : ∀ (todo n : Nat) (k : Nat × Nat × Nat) (s : State), KeepsReg x s (adaptTable p n todo k s).2
  | 0, _, _, s => .refl x s
  | todo + 1, n, k, s => by
    have hread := hbmReadPlain_reg hx.outsideAccesses (some p) (tensorAddr s p n) 32 s
    unfold adaptTable
    dsimp only
    split
    · exact (noteGated_reg hx.outsideAccesses _ s).trans (adaptTable_reg p todo _ _ _)
    · split
      · exact (KeepsReg.ite hread (hread.trans (hbmWrite_reg hx.outsideAccesses (some p) _ _ _))).trans
          (adaptTable_reg p todo _ _ _)
      · exact hread.trans (adaptTable_reg p todo _ _ _)

theorem adaptScales_reg (p : Nat) (s : State) : KeepsReg x s (adaptScales p s) := by
  have htable : KeepsReg x s (if partF s p ≤ 4 then adaptTable p 0 (tensorCount s p) (0, 0, 0) s else ((0, 0, 0), s)).2 := by
    split
    · exact adaptTable_reg hx p _ 0 _ s
    · exact .refl x s
  have hrange := fun (t : State) (sl : Nat) (v : Word) => KeepsReg.setReg t v (hx.ne_step (off := oRangeStatus) (by decide) p sl)
  exact ((htable.trans (hrange _ _ _)).trans (hrange _ _ _)).trans (hrange _ _ _)

/-! Streams -/

theorem setIstr_reg {p i off : Nat} (hp : p < 16) (hi : i ∈ istrs) (ho : off < 0x40) (lo len v : Nat) (s : State) :
    KeepsReg x s (s.setRf (rIstr p i off) lo len v) := .setReg s _ (hx.ne_istr hp (List.mem_range.mp hi) ho)

theorem releaseStreams_reg {p : Nat} (hp : p < 16) (s : State) : KeepsReg x s (releaseStreams p s) :=
  foldl_keeps_mem (.refl x) .trans istrs (fun s i hi =>
    KeepsReg.ite ((setIstr_reg hx hp hi (by decide) 0 56 _ s).trans (setIstr_reg hx hp hi (by decide) 63 1 0 _)) (.refl x s)) s

theorem rewindStreams_reg {p : Nat} (hp : p < 16) (s : State) : KeepsReg x s (rewindStreams p s) :=
  foldl_keeps_mem (.refl x) .trans istrs (fun s i hi =>
    KeepsReg.ite (setIstr_reg hx hp hi (by decide) 0 56 _ s) (.refl x s)) s

/-! Commit and discard -/

theorem commitData_reg {p : Nat} (hp : p < 16) (s : State) : KeepsReg x s (commit.commitData p s) := by
  unfold commit.commitData
  extract_lets leaf tables journal streams compl number window
  have htables : KeepsReg x s tables := (setStepRf_reg hx (by decide) p 3 1 _ s).trans (drainFlushes_reg hx p leaf)
  have hjournal : KeepsReg x tables journal := (applyJournal_reg hx p _ _ 0 tables).trans (journalReset_reg hx p _)
  have hstreams : KeepsReg x journal streams := (adaptScales_reg hx p journal).trans (releaseStreams_reg hx hp _)
  have hnumber : KeepsReg x streams number :=
    (stepCompletion_reg hx p cOk streams).trans (setStepRf_reg hx (by decide) p 0 32 _ compl)
  have hwindow : KeepsReg x number window := KeepsReg.ite (.setPart x number rfl) (.refl x number)
  exact (((htables.trans hjournal).trans hstreams).trans hnumber).trans (hwindow.trans (.setPart x window rfl))

theorem commit_reg {p : Nat} (hp : p < 16) (s : State) : KeepsReg x s (commit p s) := by
  have hdata : KeepsReg x s (if testing s p then s else commit.commitData p (setStepState p sCommitting s)) :=
    (KeepsReg.refl x s).ite ((setStepState_reg hx p sCommitting s).trans (commitData_reg hx hp _))
  exact (hdata.trans (.setCtx x _ p _)).trans (setStepState_reg hx p sIdle _)

theorem finishCommit_reg {p : Nat} (hp : p < 16) (s : State) : KeepsReg x s (finishCommit p s) :=
  (commit_reg hx hp s).trans (.of_eq rfl rfl)

theorem discardState_reg {p : Nat} (hp : p < 16) (s : State) : KeepsReg x s (discardState p s) := by
  have hstate := setStepState_reg hx p sDiscarding s
  have hstreams : KeepsReg x s (if testing (setStepState p sDiscarding s) p then setStepState p sDiscarding s
      else rewindStreams p (journalReset p (setStepState p sDiscarding s))) :=
    hstate.ite ((hstate.trans (journalReset_reg hx p _)).trans (rewindStreams_reg hx hp _))
  have hcells := hstreams.trans (u := mapCells p (fun c => { c with dr := c.dr.noStack }) _) (.of_eq rfl rfl)
  exact hcells.trans (setStepRf_reg hx (off := oSpillUsed) (by decide) p 0 32 0 _)

theorem discard_reg {p : Nat} (hp : p < 16) (s : State) : KeepsReg x s (discard p s) := by
  have hcompl := (discardState_reg hx hp s).trans (stepCompletion_reg hx p cDiscarded _)
  have hcause : KeepsReg x s (setPartCause p pcDiscard (stepCompletion p cDiscarded (discardState p s))) :=
    hcompl.trans (.setReg _ _ (hx.ne_partCause hp))
  exact (hcause.trans (.setCtx x _ p _)).trans (setStepState_reg hx p sIdle _)

theorem discardRetry_reg {p : Nat} (hp : p < 16) (s : State) : KeepsReg x s (discardRetry p s) :=
  ((discardState_reg hx hp s).trans (setStepRf_reg hx (off := oStepStatus) (by decide) p 4 2 _ _)).trans (.setCtx x _ p _)

theorem finishDiscard_reg {p : Nat} (hp : p < 16) (s : State) : KeepsReg x s (finishDiscard p s) :=
  ((discard_reg hx hp s).trans (stopSequencers_reg x p _)).trans (runEnd_reg hx p _)

/-- The end of a step, when the vote result is acted on, writes no other step registers than those of `stepWritten`. -/
theorem commitTry_reg {p : Nat} (hp : p < 16) (s : State) : KeepsReg x s (commitTry p s) := by
  unfold commitTry
  dsimp only
  split
  · exact .refl x s
  · split
    · exact .refl x s
    split
    · split
      · exact .refl x s
      · exact (KeepsReg.setCtx x s p _).trans
          (((finishCommit_reg hx hp _).trans (runEnd_reg hx p _)).ite (finishDiscard_reg hx hp _))
    · split
      · split
        · exact finishCommit_reg hx hp s
        · exact (discardRetry_reg hx hp s).trans (startFill_reg x p fRetry _ _)
        · exact finishDiscard_reg hx hp s
      · exact .refl x s

end

/-! ### A refusal (R198) -/

theorem fld_code (code : Code) (cab off : Nat) :
    fld (BitVec.ofNat 64 (pack [(0, 8, code.toNat), (8, 16, cab), (24, 32, off)])) 0 8 = code.toNat := by
  have hcode := code.isLt
  simp only [fld, bitsOf, pack, BitVec.toNat_ofNat, Nat.shiftLeft_eq, Nat.shiftRight_zero]
  omega

/-- A refused load leaves its code in `LOAD_ERR` (R198). -/
theorem refuse_loadErr {p : Nat} (kind : Nat) (code : Code) (cab off : Nat) (inside : Bool) {s : State} (hp : p < 16)
    (hsl : (s.part p).slot < 8) : (refuse p kind code cab off inside s).stepRf p oLoadErr 0 8 = code.toNat := by
  have hx := loadErr_outsideStepEnd hp hsl
  suffices h : KeepsReg (stepAddr s p oLoadErr)
      (s.setReg (stepAddr s p oLoadErr) (BitVec.ofNat 64 (pack [(0, 8, code.toNat), (8, 16, cab), (24, 32, off)])))
      (refuse p kind code cab off inside s) by
    have haddr : stepAddr (refuse p kind code cab off inside s) p oLoadErr = stepAddr s p oLoadErr := by
      rw [stepAddr, h.slot, stepAddr]; rfl
    rw [State.stepRf, State.stepReg, haddr, h.reg, State.setReg_reg, fld_code]
  unfold refuse
  extract_lets v noted slots x dropped stopped forced
  have hstopped : KeepsReg (stepAddr s p oLoadErr) noted stopped :=
    ((allCabs_reg _ p _ noted).trans (.setCtx _ slots p _)).trans (stopWaiting_reg _ p dropped)
  have hforced := hstopped.trans (stepCause_reg hx.outsideAccesses p scForced stopped)
  exact ((hforced.trans (.setCtx _ forced p _)).trans (commitTry_reg hx hp _)).ite (hstopped.trans (runEnd_reg hx p stopped))

end Sys2Proof.Machine
end

section
/-! PROOFS. What flushes, pending retirements and the configuration of a cabinet leave as it was at a load (R211, R496). -/

namespace Sys2Proof.Machine

/-! ### Listed cells -/

theorem mem_keys_sset {α : Type} {k : Nat} (i : Nat) (v : α) : ∀ m : Sparse α,
    k ∈ m.map (·.1) → k ∈ (sset m i v).map (·.1)
  | (j, w) :: m, h => by
    rw [List.map_cons, List.mem_cons] at h
    unfold sset
    split
    · exact List.mem_cons_of_mem i (List.mem_cons.mpr h)
    · split
      · next hij =>
        subst hij
        exact List.mem_cons.mpr h
      · exact List.mem_cons.mpr (h.imp_right (mem_keys_sset i v m))

/-! ### What flushing a cell and a pending retirement leave alone (R260, R346, R496) -/

/-- Sequencers, slots and the requests of the integrity unit are as before; a listed cell stays listed. -/
structure FlushFrame (s u : State) : Prop where
  cabs : u.cabs = s.cabs
  integ : u.integ = s.integ
  listed : ∀ g, g ∈ s.cells.map (·.1) → g ∈ u.cells.map (·.1)

theorem FlushFrame.refl (s : State) : FlushFrame s s := ⟨rfl, rfl, fun _ h => h⟩

theorem FlushFrame.trans {s t u : State} (h : FlushFrame s t) (g : FlushFrame t u) : FlushFrame s u :=
  ⟨g.cabs.trans h.cabs, g.integ.trans h.integ, fun n hn => g.listed n (h.listed n hn)⟩

theorem addFlushes_frame (p : Nat) (fs : List Flush) (s : State) : FlushFrame s (addFlushes p fs s) := by
  unfold addFlushes
  split
  · exact .refl s
  · exact ⟨rfl, rfl, fun _ h => h⟩

theorem flushCell_frame (g : Nat) (s : State) : FlushFrame s (flushCell g s) := by
  unfold flushCell
  split
  · exact .refl s
  · next p _ =>
    have hbench : FlushFrame s (s.setBench g (s.bench g).noRanges) := ⟨rfl, rfl, fun _ h => mem_keys_sset _ _ _ h⟩
    exact hbench.trans (addFlushes_frame p _ _)

theorem foldl_flushCell_frame (cells : List (Nat × Cell)) (s : State) :
    FlushFrame s (cells.foldl (fun t e => flushCell e.1 t) s) :=
  foldl_keeps FlushFrame.refl FlushFrame.trans _ (fun s (e : Nat × Cell) => flushCell_frame e.1 s) cells s

/-- Cells, sequencers and slots are as before. -/
structure FabricFrame (s u : State) : Prop where
  cells : u.cells = s.cells
  cabs : u.cabs = s.cabs

/-- Cells, sequencers, slots and the integrity unit are as before. -/
structure LoadFrame (s u : State) : Prop extends FabricFrame s u where
  integ : u.integ = s.integ

theorem FabricFrame.refl (s : State) : FabricFrame s s := ⟨rfl, rfl⟩
theorem LoadFrame.refl (s : State) : LoadFrame s s := ⟨.refl s, rfl⟩

theorem FabricFrame.trans {s t u : State} (h : FabricFrame s t) (g : FabricFrame t u) : FabricFrame s u :=
  ⟨g.cells.trans h.cells, g.cabs.trans h.cabs⟩
theorem LoadFrame.trans {s t u : State} (h : LoadFrame s t) (g : LoadFrame t u) : LoadFrame s u :=
  ⟨h.toFabricFrame.trans g.toFabricFrame, g.integ.trans h.integ⟩

theorem RegFrame.loadFrame {s u : State} (h : RegFrame s u) : LoadFrame s u := ⟨⟨h.cells, h.cabs⟩, h.integ⟩

theorem putBytes_loadFrame (s : State) (a : Nat) (bs : List Byte) : LoadFrame s (s.putBytes a bs) := ⟨⟨rfl, rfl⟩, rfl⟩

theorem freshWords_loadFrame (hit : Nat → Bool) (s : State) : LoadFrame s (freshWords hit s) := by
  unfold freshWords
  extract_lets bad copied
  have hcopied : LoadFrame s copied := by
    refine foldl_keeps LoadFrame.refl LoadFrame.trans _ (fun t e => ?_) bad s
    split
    · exact putBytes_loadFrame t e.1 _
    · exact .refl t
  exact hcopied.trans ⟨⟨rfl, rfl⟩, rfl⟩

theorem shiftCellMaps_frame (c : Nat) (s : State) : RegFrame s (shiftCellMaps c s) :=
  foldl_keeps RegFrame.refl RegFrame.trans _
    (fun s _ => foldl_keeps RegFrame.refl RegFrame.trans _ (fun s _ => .setReg s _ _) _ s) _ s

theorem retired_fabricFrame (scope : Nat) (u : Unit') (phys : Nat) (p : Option Nat) (s : State) :
    FabricFrame s (retired scope u phys p s) :=
  FabricFrame.trans ⟨(report_frame _ _ s).cells, (report_frame _ _ s).cabs⟩ (setIntegCause_frame _ _).loadFrame.toFabricFrame

theorem retired_pendCell (scope : Nat) (u : Unit') (phys : Nat) (p : Option Nat) (s : State) :
    (retired scope u phys p s).integ.pendCell = s.integ.pendCell := by
  have h : ReportKeeps s (retired scope u phys p s) := (report_keeps _ _ s).trans (setIntegCause_reports _ _)
  rw [h.integ]

theorem retireCellNow_fabricFrame (s : State) (g : Nat) : FabricFrame s (retireCellNow s g) := by
  unfold retireCellNow
  extract_lets phys fresh maps integ applied
  have happlied : FabricFrame fresh (storeRetired applied) := ⟨rfl, rfl⟩
  exact ((freshWords_loadFrame _ s).toFabricFrame.trans happlied).trans (retired_fabricFrame 0 (.cell g) phys _ _)

/-- The request of a cell ends as its retirement is applied (R496). -/
theorem retireCellNow_pendCell (s : State) (g : Nat) :
    (retireCellNow s g).integ.pendCell = s.integ.pendCell.filter (· != g) := by
  have h := (freshWords_loadFrame (fun a => movedBy g (windowCell a) false) s).integ
  unfold retireCellNow
  dsimp only
  rw [retired_pendCell, ← h]
  rfl

theorem retireCabNow_fabricFrame (s : State) (c : Nat) : FabricFrame s (retireCabNow s c) := by
  unfold retireCabNow
  extract_lets phys fresh maps integ applied
  have hmaps : LoadFrame fresh maps :=
    (RegFrame.setRf fresh _ _ _ _).loadFrame.trans (shiftCellMaps_frame c _).loadFrame
  have happlied : FabricFrame maps (storeRetired applied) := ⟨rfl, rfl⟩
  exact ((freshWords_loadFrame _ s).trans hmaps).toFabricFrame.trans (happlied.trans (retired_fabricFrame 1 (.cab c) phys _ _))

theorem remapNow_loadFrame (c : Nat) (s : State) : LoadFrame s (remapNow c s) := by
  refine foldl_keeps LoadFrame.refl LoadFrame.trans _ (fun t e => ?_) _ s
  split
  · extract_lets moved entered
    have hmoved : LoadFrame t moved := by
      unfold moved
      split
      · exact freshWords_loadFrame _ t
      · exact .refl t
    have hentered : RegFrame moved entered := .setReg moved _ _
    exact hmoved.trans ((hentered.trans (.setRf _ _ _ _ _)).trans (.setRf _ _ _ _ _)).loadFrame
  · exact .refl t

theorem applyPending_fabricFrame (c : Nat) (s : State) : FabricFrame s (applyPending c s) := by
  unfold applyPending
  split
  · exact ((foldl_keeps FabricFrame.refl FabricFrame.trans _ retireCabNow_fabricFrame _ s).trans
      (foldl_keeps FabricFrame.refl FabricFrame.trans _ retireCellNow_fabricFrame _ _)).trans (remapNow_loadFrame c _).toFabricFrame
  · exact .refl s

/-- Cells retired in turn are requested no more. -/
theorem mem_pendCell_retireCells {h : Nat} : ∀ (gs : List Nat) (s : State),
    h ∈ (gs.foldl retireCellNow s).integ.pendCell → h ∈ s.integ.pendCell ∧ h ∉ gs
  | [], _, hm => ⟨hm, List.not_mem_nil⟩
  | g :: gs, s, hm => by
    obtain ⟨hpend, hrest⟩ := mem_pendCell_retireCells gs _ hm
    rw [retireCellNow_pendCell, List.mem_filter, bne_iff_ne] at hpend
    exact ⟨hpend.1, List.not_mem_cons_of_ne_of_not_mem hpend.2 hrest⟩

/-- After what waits for the load of a cabinet is applied, no retirement of its cells is pending (R211, R496). -/
theorem applyPending_pendCell (c : Nat) (s : State) : ∀ g ∈ (applyPending c s).integ.pendCell, g / 256 ≠ c := by
  intro g hg hc
  unfold applyPending at hg
  split at hg
  · dsimp only at hg
    rw [(remapNow_loadFrame c _).integ] at hg
    obtain ⟨hpend, hnot⟩ := mem_pendCell_retireCells _ _ hg
    exact hnot (List.mem_filter.mpr ⟨hpend, beq_iff_eq.mpr hc⟩)
  · next hnone =>
    have hany : s.integ.pendCell.any (fun g => g / 256 == c) = true := List.any_eq_true.mpr ⟨g, hg, beq_iff_eq.mpr hc⟩
    exact hnone (by rw [retirePend, hany]; rfl)

/-! ### Configuring the cells of a cabinet (R206, R207, R211) -/

theorem drawerWrite_loadFrame (g n : Nat) (v : Row) (s : State) : LoadFrame s (drawerWrite g n v s) := by
  unfold drawerWrite
  extract_lets t
  have ht : LoadFrame s t := by
    unfold t
    split
    · exact .refl s
    · exact ⟨⟨rfl, rfl⟩, rfl⟩
  exact ht.trans (putBytes_loadFrame t _ _)

theorem initRows_loadFrame (g : Nat) (cfg : CellCfg) (s : State) : LoadFrame s (initRows g cfg s) :=
  foldl_keeps LoadFrame.refl LoadFrame.trans _ (fun s (x : InitRec) => drawerWrite_loadFrame g x.sub x.data s) _ s

theorem LoadFrame.bench {s u : State} (h : LoadFrame s u) (g : Nat) : u.bench g = s.bench g := by
  rw [State.bench, State.cell, h.cells]; rfl

theorem configureCell_ahead (g : Nat) (cfg : CellCfg) (ahead : Bool) (s : State) :
    ((configureCell g cfg ahead s).bench g).ahead = ahead := by
  unfold configureCell
  dsimp only
  rw [(initRows_loadFrame g cfg _).bench, State.setCell_bench]

theorem configureCell_bench_other {g h : Nat} (hgh : h ≠ g) (cfg : CellCfg) (ahead : Bool) (s : State) :
    (configureCell g cfg ahead s).bench h = s.bench h := by
  unfold configureCell
  dsimp only
  rw [(initRows_loadFrame g cfg _).bench, State.bench, State.setCell_cell_other _ _ _ hgh, State.bench]

theorem configureCell_cabs (g : Nat) (cfg : CellCfg) (ahead : Bool) (s : State) :
    (configureCell g cfg ahead s).cabs = s.cabs := (initRows_loadFrame g cfg _).cabs

theorem configureCell_integ (g : Nat) (cfg : CellCfg) (ahead : Bool) (s : State) :
    (configureCell g cfg ahead s).integ = s.integ := (initRows_loadFrame g cfg _).integ

/-- Cells configured in turn stand as configured, whatever configurations they take. -/
theorem ahead_configureCells {h : Nat} {ahead : Bool} {cfg : State → Nat → CellCfg} : ∀ (gs : List Nat) (s : State),
    h ∈ gs ∨ (s.bench h).ahead = ahead →
      ((gs.foldl (fun s g => configureCell g (cfg s g) ahead s) s).bench h).ahead = ahead
  | [], _, hh => hh.resolve_left List.not_mem_nil
  | g :: gs, s, hh => by
    refine ahead_configureCells gs _ ?_
    by_cases hg : h = g
    · subst hg
      exact .inr (configureCell_ahead h (cfg s h) ahead s)
    · exact hh.imp (fun hm => (List.mem_cons.mp hm).resolve_left hg) (fun ha => by rwa [configureCell_bench_other hg])

theorem configureCab_ahead {c : Nat} {x : Slot} {inits : Bool} {s : State} {g : Nat} (ahead : Bool) (hc : g / 256 = c)
    (hg : g ∈ s.cells.map (·.1)) : ((configureCab c x ahead inits s).bench g).ahead = ahead := by
  obtain ⟨e, he, rfl⟩ := List.mem_map.mp hg
  have hlisted : e.1 ∈ (s.cells.filter (fun e => e.1 / 256 == c)).map (·.1) :=
    List.mem_map.mpr ⟨e, List.mem_filter.mpr ⟨he, beq_iff_eq.mpr hc⟩, rfl⟩
  have hload : e.1 ∈ cellsToLoad s c x.img := List.mem_append_left _ hlisted
  exact ahead_configureCells (cellsToLoad s c x.img) s (.inl hload)

theorem configureCab_cabs (c : Nat) (x : Slot) (ahead inits : Bool) (s : State) :
    (configureCab c x ahead inits s).cabs = s.cabs :=
  foldl_keeps (R := fun s u => u.cabs = s.cabs) (fun _ => rfl) (fun h g => g.trans h) _
    (fun s g => configureCell_cabs g _ ahead s) _ s

theorem configureCab_integ (c : Nat) (x : Slot) (ahead inits : Bool) (s : State) :
    (configureCab c x ahead inits s).integ = s.integ :=
  foldl_keeps (R := fun s u => u.integ = s.integ) (fun _ => rfl) (fun h g => g.trans h) _
    (fun s g => configureCell_integ g _ ahead s) _ s

end Sys2Proof.Machine
end

section
/-! PROOFS. SEGMENT_START, CABINET_LOAD and STALL, with the obligation on them. -/

namespace Sys2Proof.Machine

/-! ### The end of a command -/

theorem partOfCab_lt {s : State} {c p : Nat} (h : partOfCab s c = some p) : p < 16 := by
  unfold partOfCab partOfField at h
  exact List.mem_range.mp (List.mem_of_find?_eq_some h)

theorem exec_segmentStart (c : CabId) (s : State) : exec (.segmentStart c) s = execSegmentStart c s := rfl
theorem exec_cabinetLoad (c : CabId) (s : State) : exec (.cabinetLoad c) s = execCabinetLoad c s := rfl
theorem exec_stall (c : CabId) (s : State) :
    exec (.stall c) s = done s (if stallDue s c.toNat then stallFire c.toNat s else s) := rfl

/-- A command that takes the state to `u` completes with what holds of `u` behind a possible attention frame (R432). -/
theorem completes_of_done {i : Instr} {s u : State} {P : State → Prop} (he : exec i s = done s u) (hu : P (attend s u)) :
    Completes i s P := fun hp => ⟨attend s u, by rw [he, done_eq _ _ hp], hu⟩

theorem runEnd_cabs (p : Nat) (s : State) : (runEnd p s).cabs = s.cabs := by
  unfold runEnd
  dsimp only
  split
  · split
    · exact (completeRun_frame p _ _ _).cabs
    · exact (completeRun_frame p _ _ _).cabs
  · rfl

@[simp] theorem attend_cab (s t : State) (c : Nat) : (attend s t).cab c = t.cab c := by rw [State.cab, attend_cabs, State.cab]
@[simp] theorem attend_bench (s t : State) (g : Nat) : (attend s t).bench g = t.bench g := by
  rw [State.bench, State.cell, attend_cells, State.bench, State.cell]
@[simp] theorem attend_stepRf (s t : State) (p off lo len : Nat) : (attend s t).stepRf p off lo len = t.stepRf p off lo len := by
  have haddr : stepAddr (attend s t) p off = stepAddr t p off := by rw [stepAddr, State.part, attend_parts, stepAddr, State.part]
  rw [State.stepRf, State.stepReg, attend_reg, haddr, State.stepRf, State.stepReg]

/-! ### SEGMENT_START (R211) -/

/-- The sequencer of a cabinet as the segment of its present slot starts (R211). -/
def Cab.atSegment (k : Cab) : Seq :=
  Seq.toSegment { k.seq with pos := 0, wait := 0, issue := none, due := false, was := 0 < k.seq.len } k.now

/-- A stopped sequencer whose cabinet has installed starts the segment (R211). -/
theorem execSegmentStart_ready {c : CabId} {s : State} {p : Nat} (hpart : partOfCab s c.toNat = some p)
    (hdue : (s.cab c.toNat).seq.due = true) (hwait : (s.cab c.toNat).seq.wait = 5) (hstands : stands s p = false)
    (hready : (s.cab c.toNat).now.st = 2) (hwords : 0 < (s.cab c.toNat).now.ctrlWords) :
    execSegmentStart c s = done s (runEnd p (s.setCab c.toNat { s.cab c.toNat with seq := (s.cab c.toNat).atSegment })) := by
  have hlen : ¬ (s.cab c.toNat).now.ctrlWords = 0 := Nat.pos_iff_ne_zero.mp hwords
  simp [execSegmentStart, hpart, hdue, hwait, hstands, hready, Cab.atSegment, Seq.toSegment, hlen]

/-! ### CABINET_LOAD (R211, R496) -/

/-- The state as a cabinet may load itself: its cells have flushed, and what waits for the load is applied (R211, R260). -/
def readiedCab (c : Nat) (s : State) : State :=
  applyPending c ((s.cells.filter (fun e => e.1 / 256 == c)).foldl (fun t e => flushCell e.1 t) s)

/-- The state as the cabinet has loaded itself from its spare slot (R211). -/
def loadedCab (c : Nat) (t : State) : State :=
  let u := configureCab c (t.cab c).spare true true t
  u.setCab c (u.cab c).exchange

/-- A cabinet with a retirement pending that is ready loads itself, or is refused (R19, R211). -/
theorem execCabinetLoad_ready {c : CabId} {s : State} {p : Nat} (hpart : partOfCab s c.toNat = some p)
    (hload : (s.ctx p).load = none) (hnext : (s.cab c.toNat).nextReady = true) (hgo : goBit s p = true)
    (hstands : stands s p = false) (hruns : fieldRuns s (c.toNat / 256) = true) (hpend : retirePend s c.toNat = true)
    (hmarked : (s.ctx p).marked = none) (hrerun : (s.ctx p).rerun ≠ 1)
    (hcells : (s.cells.filter (fun e => e.1 / 256 == c.toNat)).all (readyToLoad s) = true) :
    execCabinetLoad c s =
      done s (if deadWork (readiedCab c.toNat s) c.toNat ((readiedCab c.toNat s).cab c.toNat).spare then
        refuse p fNext eCapacity noCab 0 (stepState s p != sIdle) s
      else loadedCab c.toNat (readiedCab c.toNat s)) := by
  simp only [execCabinetLoad, hpart, hload, hnext, hgo, hstands, hruns, hpend, hmarked, hcells, ne_eq, hrerun,
    not_false_eq_true, decide_true, Option.isSome_none, Option.isNone_none, Bool.not_false, Bool.and_self, Bool.false_eq_true,
    if_true, if_false]
  exact (apply_ite (done s) _ _ _).symm

theorem readiedCab_cab (c : Nat) (s : State) (d : Nat) : (readiedCab c s).cab d = s.cab d := by
  rw [State.cab, readiedCab, (applyPending_fabricFrame c _).cabs, (foldl_flushCell_frame _ s).cabs, State.cab]

theorem readiedCab_listed {c g : Nat} {s : State} (hg : g ∈ s.cells.map (·.1)) : g ∈ (readiedCab c s).cells.map (·.1) := by
  rw [readiedCab, (applyPending_fabricFrame c _).cells]
  exact (foldl_flushCell_frame _ s).listed g hg

theorem Cab.exchange_cur (k : Cab) : k.exchange.cur = !k.cur := by
  unfold Cab.exchange Cab.settle
  dsimp only
  split <;> rfl

theorem loadedCab_cur (c : Nat) (t : State) : ((loadedCab c t).cab c).cur = !(t.cab c).cur := by
  have hcab : (configureCab c (t.cab c).spare true true t).cab c = t.cab c := by rw [State.cab, configureCab_cabs, State.cab]
  unfold loadedCab
  dsimp only
  rw [State.setCab_cab, Cab.exchange_cur, hcab]

theorem loadedCab_integ (c : Nat) (t : State) : (loadedCab c t).integ = t.integ := configureCab_integ c _ true true t

theorem loadedCab_ahead {c g : Nat} {t : State} (hc : g / 256 = c) (hg : g ∈ t.cells.map (·.1)) :
    ((loadedCab c t).bench g).ahead = true := configureCab_ahead true hc hg

/-! ### STALL (R120) -/

/-- The cause of a stall is noted; the report of it leaves the cause, the fabric and the partitions as they are (R120). -/
theorem stallFire_effect (c : Nat) (s : State) :
    ((stallFire c s).reg (rCabCause c)).getLsbD ccStall = true ∧ ((stallFire c s).cab c).stall = 0 ∧
      (stallFire c s).parts = s.parts ∧ (stallFire c s).ctxs = s.ctxs ∧ (stallFire c s).cells = s.cells := by
  unfold stallFire
  extract_lets k restarted
  have hframe (r : Rep) := report_frame r [] (setCabCause c ccStall restarted)
  refine ⟨?_, ?_, (hframe _).parts, (hframe _).ctxs, (hframe _).cells⟩
  · rw [(report_keeps _ [] _).reg _ (cabCause_outsideReports c), setCabCause, State.orReg_reg, BitVec.getLsbD_or]
    exact Bool.or_eq_true_iff.mpr (.inr (by decide))
  · rw [State.cab, (hframe _).cabs]
    exact congrArg Cab.stall (State.setCab_cab s c _)

/-! ### The obligation -/

/-- Settles O32: the segment starts as `Cab.atSegment`, a load ends as `loadedCab` or in `refuse`, and a stall is
`stallFire`. -/
theorem cabinetsStartLoadAndStall : Obligations.CabinetsStartLoadAndStall := by
  unfold Obligations.CabinetsStartLoadAndStall
  refine ⟨fun c s p hpart hdue hwait hstands hready hwords => ?_,
    fun c s p hpart hload hnext hgo hstands hruns hpend hmarked hrerun hcells => ⟨fun hdead => ?_, fun hdead hslot => ?_⟩,
    fun c s hstall => ?_⟩
  · refine completes_of_done ((exec_segmentStart c s).trans (execSegmentStart_ready hpart hdue hwait hstands hready hwords)) ?_
    have hcab : (runEnd p (s.setCab c.toNat { s.cab c.toNat with seq := (s.cab c.toNat).atSegment })).cab c.toNat
        = { s.cab c.toNat with seq := (s.cab c.toNat).atSegment } := by
      rw [State.cab, runEnd_cabs]
      exact State.setCab_cab s c.toNat _
    rw [attend_cab, hcab]
    exact ⟨rfl, rfl, rfl, rfl, rfl⟩
  · have hexec := execCabinetLoad_ready hpart hload hnext hgo hstands hruns hpend hmarked hrerun hcells
    have hloads := (exec_cabinetLoad c s).trans (hexec.trans (congrArg (done s) (if_neg (Bool.eq_false_iff.mp hdead))))
    refine completes_of_done hloads ⟨?_, fun g hg => ?_, fun g hc hg => ?_⟩
    · rw [attend_cab, loadedCab_cur, readiedCab_cab]
    · rw [attend_integ, loadedCab_integ] at hg
      exact applyPending_pendCell c.toNat _ g hg
    · obtain ⟨e, he, hge⟩ := List.any_eq_true.mp hg
      rw [attend_bench]
      exact loadedCab_ahead hc (readiedCab_listed (List.mem_map.mpr ⟨e, he, beq_iff_eq.mp hge⟩))
  · have hexec := execCabinetLoad_ready hpart hload hnext hgo hstands hruns hpend hmarked hrerun hcells
    have hrefused := (exec_cabinetLoad c s).trans (hexec.trans (congrArg (done s) (if_pos hdead)))
    refine completes_of_done hrefused ?_
    rw [attend_stepRf]
    exact refuse_loadErr _ _ _ _ _ (partOfCab_lt hpart) hslot
  · have hexec : exec (.stall c) s = done s (stallFire c.toNat s) := by rw [exec_stall, if_pos hstall]
    refine completes_of_done hexec ?_
    rw [attend_reg, attend_cab, attend_parts, attend_ctxs, attend_cells]
    exact stallFire_effect c.toNat s

end Sys2Proof.Machine
end
